-- ==== Sys2Proof/Word.lean ====
section
/-! DEFINITION. Words, register numbers, the coded fields of R33, finite tables, and the operand records of the
acts that have no encoding. Nothing here has a meaning of its own: the machine gives it. -/

namespace Sys2Proof

/-- An instruction word (R14) or a 32-bit element (R115). -/
abbrev Word := BitVec 32

/-- A scalar register (R12). -/
abbrev DWord := BitVec 64

abbrev Byte := BitVec 8

/-- s0 to s63 (R30). -/
abbrev SReg := Fin 64

/-- v0 to v31 (R30). -/
abbrev VReg := Fin 32

/-- k0 to k15 (R30). -/
abbrev KReg := Fin 16

/-- a0 to a3 (R30). -/
abbrev AReg := Fin 4

/-- A lane of a wave (R98). -/
abbrev Lane := Fin 64

/-! ## Finite tables

A table is a list of keys and values with a default for every key that is not listed, so that reading never fails
and a write is always seen. -/

/-- The value at key `k`; `d` where the table lists none. -/
def look {α : Type} (d : α) : List (Nat × α) → Nat → α
  | [], _ => d
  | (j, v) :: t, k => if j = k then v else look d t k

/-- Write `v` at key `k`, keeping the keys in rising order. -/
def put {α : Type} : List (Nat × α) → Nat → α → List (Nat × α)
  | [], k, v => [(k, v)]
  | (j, x) :: t, k, v =>
    if j = k then (k, v) :: t
    else if k < j then (k, v) :: (j, x) :: t
    else (j, x) :: put t k v

/-- Remove key `k`. -/
def drop {α : Type} (t : List (Nat × α)) (k : Nat) : List (Nat × α) :=
  t.filter (fun e => e.1 ≠ k)

/-! ## Coded fields (R33) -/

/-- Memory spaces, sp codes 0 to 4. -/
inductive Space where
  | g | d | q | c | l
  deriving DecidableEq, Repr

/-- Access sizes of `ld` and `st`, sz codes 0 to 6. -/
inductive Size where
  | b | bu | h | hu | w | wu | d
  deriving DecidableEq, Repr

/-- Dimensions of `strip`, dm codes 0 to 3. -/
inductive Dim where
  | vl | m | n | k
  deriving DecidableEq, Repr

/-- Addressing of vector loads and stores, md codes 0 to 3. -/
inductive VMode where
  | unit
  | strided (n : Fin 4)
  | indexed (vb : VReg)
  | scaled (vb : VReg)
  deriving DecidableEq, Repr

/-- Box shapes, bx codes 0 to 3. -/
inductive Box where
  | a | b | c | x
  deriving DecidableEq, Repr

/-- The far side of a box copy other than `cp.put`, xs codes 0 and 1. -/
inductive Far where
  | g | d
  deriving DecidableEq, Repr

/-- Format pairs, fm codes 0 to 10. -/
inductive Fm where
  | bf16 | f16 | f8a | f8bf8a | f8af8b | f8b | i8 | bi8pw2 | bi8 | f32 | i4
  deriving DecidableEq, Repr

/-- Operations of `vatom`, op codes 0 to 12. -/
inductive AtomOp where
  | add | min | max | minu | maxu | and | or | xor | xchg | cas | fadd | fmax | binc
  deriving DecidableEq, Repr

/-- Modes of `vswz` and `vswzg`, imm[8:7]. -/
inductive Swz where
  | xor | up | down | bcast
  deriving DecidableEq, Repr

/-- Scopes, codes 0 to 5 (R8). -/
inductive Scope where
  | lane | core | quad | die | pkg | pod
  deriving DecidableEq, Repr

/-- Kinds of `fence`, codes 0 to 3. -/
inductive FKind where
  | acq | rel | ar | sc
  deriving DecidableEq, Repr

/-- Scopes of `bar` (R213). -/
inductive BarScope where
  | core | quad | die | pkg
  deriving DecidableEq, Repr

/-- Scopes of grace domains (R298). -/
inductive GScope where
  | die | pkg
  deriving DecidableEq, Repr

/-! ## Operands of the acts without an encoding -/

/-- A physical core (R2): `die`, `quad` and `core` numbers. -/
structure CoreId where
  die  : Fin 4
  quad : Fin 36
  core : Fin 4
  deriving DecidableEq, Repr

/-- A firmware image as the boot ROM meets it (R358): its bytes, public key, signature and security version. -/
structure FirmwareImage where
  bytes     : List Byte
  publicKey : List Byte
  signature : List Byte
  version   : Nat
  deriving DecidableEq, Repr

/-- What mailbox service 4 configures (R345, R347, R348). -/
structure PartConfig where
  part    : Fin 8
  quads   : List (Fin 4 × Fin 36)
  asidLo  : Nat
  asidN   : Nat
  capM    : Nat
  capN    : Nat
  capK    : Nat
  fmtMask : BitVec 16
  topoVa  : Nat
  share   : Nat
  deriving DecidableEq, Repr

def CoreId.zero : CoreId := ⟨0, 0, 0⟩

def PartConfig.none : PartConfig where
  part := 0; quads := []; asidLo := 0; asidN := 0; capM := 0; capN := 0; capK := 0; fmtMask := 0; topoVa := 0; share := 0

/-- A grace domain (R298): one ASID, and a logical die for a .die domain. -/
structure DomainKey where
  asid : Nat
  die  : Option (Fin 4)
  deriving DecidableEq, Repr

/-- A put window (R353). -/
structure PutWindow where
  srcMod  : Fin 64
  srcPart : Fin 8
  die     : Fin 4
  base    : Nat
  size    : Nat
  deriving DecidableEq, Repr

/-- A data packet of a put (R232, R353): each byte with whether it comes from a poisoned granule (R228). `half` says that the last byte
carries only its lower nibble (R230). -/
structure PutPacket where
  srcMod  : Fin 64
  srcPart : Fin 8
  dstMod  : Fin 64
  dstPart : Fin 8
  die     : Fin 4
  addr    : Nat
  data    : List (Byte × Bool)
  half    : Bool
  deriving DecidableEq, Repr

/-- The final packet of a put (R232): the counter's remote address and the decrement. -/
structure PutSig where
  srcMod  : Fin 64
  srcPart : Fin 8
  dstMod  : Fin 64
  dstPart : Fin 8
  die     : Fin 4
  addr    : Nat
  dec     : Word
  deriving DecidableEq, Repr

/-- The place of an event in a record: LOC of R331. -/
structure Loc where
  die  : Fin 4
  quad : Nat
  core : Fin 4
  unit : Nat
  bank : Nat
  deriving DecidableEq, Repr

/-- The array an ECC event meets (R325), with the address of the granule. -/
inductive ErrSite where
  | dieMem (die : Fin 4) (addr : Nat)
  | scratch (die : Fin 4) (quad : Fin 36) (addr : Nat)
  | cache (die : Fin 4) (addr : Nat)
  | gddr (addr : Nat)
  | l1 (core : CoreId) (addr : Nat)
  | register (wave : Nat) (unit : Nat) (addr : Nat)
  | control (gang : Nat) (unit : Nat) (addr : Nat)
  deriving DecidableEq, Repr

/-- A link whose flits carry a CRC (R325): an edge between two dies, a host attachment, or a Soltor port. -/
inductive Link where
  | edge (a b : Fin 4)
  | host (die : Fin 4)
  | soltor (port : Fin 12)
  deriving DecidableEq, Repr

end Sys2Proof
end

