-- ==== Sys2Proof/Config.lean ====
section
/-! DEFINITION. What the spec leaves open and the model leaves free: constants without a body, so that nothing can be
proved of their values. Each is named in the assumption log. -/

namespace Sys2Proof.Config

/-- The ticks of the 1 GHz reference that pass during step number `n` (R37). FREE VALUE, log entry 3. -/
opaque elapsed : Nat → Nat

/-- Whether a core's L1 keeps the line it fetched at choice number `n` (R173). FREE VALUE, log entry 5. -/
opaque l1Keeps : Nat → Bool

/-- Which line of a full L1 gives way at choice number `n` (R173). FREE VALUE, log entry 5. -/
opaque l1Victim : Nat → Nat

/-- Whether a store waits at choice number `n`, so that it is performed later than its word (R109, R199). FREE VALUE, log entry 8. -/
opaque storesLate : Nat → Bool

/-- Which of the late stores that wait is performed first, at choice number `n` (R109, R199). FREE VALUE, log entry 8. -/
opaque lateOrder : Nat → Nat

/-- Whether a lane performs a load at choice number `n` later than its word (R109, R199). FREE VALUE, log entry 89. -/
opaque loadsLate : Nat → Bool

/-- Which lane groups a vector instruction leaves behind at choice number `n` (R109). FREE VALUE, log entry 104. -/
opaque groupsBehind : Nat → BitVec 4

/-- Which lane group that is behind executes a word at choice number `n`, modulo 5, 4 standing for none (R109). FREE VALUE, log entry 104. -/
opaque groupNext : Nat → Nat

/-- How many row steps of a tile command have been taken when the next word may issue, at choice number `n` (R251, R253). FREE VALUE, log
entry 11. -/
opaque rowsTaken : Nat → Nat

/-- What the hardware answers for special function `f` (its fn code in MAJ 0x19) of an F32 operand, before the bound
of R124 is applied. FREE VALUE, log entry 7. -/
opaque special : Nat → Word → Word

/-- Which of the free streams a copy takes, at choice number `n` (R227). FREE VALUE, log entry 25. -/
opaque streamPick : Nat → Nat

/-- The port or edge, and the number of failed replays, that a record of a link error gives, at choice number `n` (R332). FREE VALUE,
log entry 26. -/
opaque linkError : Nat → Nat

/-- The digest of the public key and the least security version that are fused in a die (R358). FREE VALUES, log entry 36. -/
opaque fusedKeyHash : Nat → List Byte

opaque fusedMinVersion : Nat → Nat

/-- TOPO_BASE, bits 47 to 14, that firmware chooses at choice number `n` (R347). FREE VALUE, log entry 37. -/
opaque topoBase : Nat → BitVec 34

/-- What firmware chooses for partition 0 in early service, at choice number `n`: the page of its table in the address spaces, its first
ASID, the number of its ASIDs and its Stash share (R345, R347, R359). FREE VALUE, log entry 47. -/
opaque earlyService : Nat → Nat × Nat × Nat × Nat

/-- The address of the dispatch log that firmware reserves for a quad (R337). FREE VALUE, log entry 38. -/
opaque dispatchLog : Nat → DWord

/-- The bytes of a partition's configuration as PARTMEAS measures them (R358). FREE VALUE, log entry 39. -/
opaque partitionBytes : List Nat → List Byte

/-- The private half of the device identity key, and the secret number of a signature at choice number `n` (R358); each is taken modulo the
order of the curve, from 1 on. FREE VALUES, log entry 20. -/
opaque identityKey : Nat

opaque signNonce : Nat → Nat

end Sys2Proof.Config
end

