-- ==== Sys2Proof/Syntax.lean ====
section
/-! DEFINITION. The instructions: one constructor for each row of spec/opcode_table.json. A constructor of an
instruction word carries the fields of R29 that the instruction uses (R35, R36); the tie bit of R15 belongs to the packet
and is no field of an instruction. An act that no word encodes carries what its rule leaves to the agent that acts. -/

namespace Sys2Proof

/-- Every row of the opcode table (R34 for the words). -/
inductive Instr where
  -- Scalar register arithmetic (MAJ 0x00, R78)
  | add (sd : SReg) (sa : SReg) (sb : SReg)
  | sub (sd : SReg) (sa : SReg) (sb : SReg)
  | and (sd : SReg) (sa : SReg) (sb : SReg)
  | or (sd : SReg) (sa : SReg) (sb : SReg)
  | xor (sd : SReg) (sa : SReg) (sb : SReg)
  | andn (sd : SReg) (sa : SReg) (sb : SReg)
  | shl (sd : SReg) (sa : SReg) (sb : SReg)
  | shr (sd : SReg) (sa : SReg) (sb : SReg)
  | sar (sd : SReg) (sa : SReg) (sb : SReg)
  | rol (sd : SReg) (sa : SReg) (sb : SReg)
  | min (sd : SReg) (sa : SReg) (sb : SReg)
  | max (sd : SReg) (sa : SReg) (sb : SReg)
  | minu (sd : SReg) (sa : SReg) (sb : SReg)
  | maxu (sd : SReg) (sa : SReg) (sb : SReg)
  | mul (sd : SReg) (sa : SReg) (sb : SReg)
  | mulh (sd : SReg) (sa : SReg) (sb : SReg)
  | mulhu (sd : SReg) (sa : SReg) (sb : SReg)
  | div (sd : SReg) (sa : SReg) (sb : SReg)
  | divu (sd : SReg) (sa : SReg) (sb : SReg)
  | rem (sd : SReg) (sa : SReg) (sb : SReg)
  | remu (sd : SReg) (sa : SReg) (sb : SReg)
  | slt (sd : SReg) (sa : SReg) (sb : SReg)
  | sltu (sd : SReg) (sa : SReg) (sb : SReg)
  | seq (sd : SReg) (sa : SReg) (sb : SReg)
  | clz (sd : SReg) (sa : SReg)
  | ctz (sd : SReg) (sa : SReg)
  | popc (sd : SReg) (sa : SReg)
  | bfe (sd : SReg) (sa : SReg) (sb : SReg)
  | bfi (sd : SReg) (sa : SReg) (sb : SReg)
  -- Scalar immediates (MAJ 0x01, R81)
  | addi (sd : SReg) (sa : SReg) (imm : BitVec 10)
  | andi (sd : SReg) (sa : SReg) (imm : BitVec 10)
  | ori (sd : SReg) (sa : SReg) (imm : BitVec 10)
  | xori (sd : SReg) (sa : SReg) (imm : BitVec 10)
  | shli (sd : SReg) (sa : SReg) (sh : Fin 64)
  | shri (sd : SReg) (sa : SReg) (sh : Fin 64)
  | sari (sd : SReg) (sa : SReg) (sh : Fin 64)
  | slti (sd : SReg) (sa : SReg) (imm : BitVec 10)
  -- Constants (MAJ 0x02 and 0x03, R82, R83): lit and lit64 carry their literal words
  | sethi (sd : SReg) (imm : BitVec 19)
  | lit (sd : SReg) (v : BitVec 32)
  | lit64 (sd : SReg) (v : BitVec 64)
  -- Scalar loads and stores (MAJ 0x04 and 0x05, R84)
  | ld (sd : SReg) (sa : SReg) (sp : Space) (sz : Size) (off : BitVec 7)
  | st (sd : SReg) (sa : SReg) (sp : Space) (sz : Size) (off : BitVec 7)
  -- Branches and transfers (MAJ 0x06 to 0x08, R87 to R89)
  | beq (sa : SReg) (sb : SReg) (off : BitVec 10)
  | bne (sa : SReg) (sb : SReg) (off : BitVec 10)
  | blt (sa : SReg) (sb : SReg) (off : BitVec 10)
  | bge (sa : SReg) (sb : SReg) (off : BitVec 10)
  | bltu (sa : SReg) (sb : SReg) (off : BitVec 10)
  | bgeu (sa : SReg) (sb : SReg) (off : BitVec 10)
  | call (sl : SReg) (off : BitVec 19)
  | jmp (off : BitVec 19)
  | jr (sa : SReg)
  | callr (sd : SReg) (sa : SReg)
  | csel (sd : SReg) (sa : SReg) (sb : SReg)
  -- strip (MAJ 0x09, R267)
  | strip (sr : SReg) (pb : SReg) (np : Fin 8) (dm : Dim) (off : BitVec 8)
  -- Special registers and setvl (MAJ 0x0A, R91, R106)
  | mfsr (sd : SReg) (num : BitVec 10)
  | mtsr (sa : SReg) (num : BitVec 10)
  | setvl (sd : SReg) (sa : SReg) (num : BitVec 10)
  -- System (MAJ 0x0B, R92 to R96)
  | trap (num : BitVec 10)
  | hcall (sd : SReg) (sa : SReg) (num : BitVec 10)
  | exit (sa : SReg)
  | yield
  | sleep (sa : SReg) (num : BitVec 10)
  -- Scalar F32 (MAJ 0x0C, R97)
  | fadd (sd : SReg) (sa : SReg) (sb : SReg)
  | fsub (sd : SReg) (sa : SReg) (sb : SReg)
  | fmul (sd : SReg) (sa : SReg) (sb : SReg)
  | fdiv (sd : SReg) (sa : SReg) (sb : SReg)
  | fsqrt (sd : SReg) (sa : SReg)
  | fmin (sd : SReg) (sa : SReg) (sb : SReg)
  | fmax (sd : SReg) (sa : SReg) (sb : SReg)
  | flt (sd : SReg) (sa : SReg) (sb : SReg)
  | feq (sd : SReg) (sa : SReg) (sb : SReg)
  | fle (sd : SReg) (sa : SReg) (sb : SReg)
  | fcvtF32Si (sd : SReg) (sa : SReg)
  | fcvtSiF32 (sd : SReg) (sa : SReg)
  -- Per-lane transfers (MAJ 0x0D and 0x0E, R136, R137)
  | vbr (km : KReg) (ng : Bool) (off : BitVec 18)
  | vcall (km : KReg) (ng : Bool) (off : BitVec 18)
  | vjr (va : VReg)
  | vcallr (vd : VReg) (va : VReg)
  -- Vector integer, vector second source (MAJ 0x10, R119)
  | vadd (vd : VReg) (va : VReg) (vb : VReg) (km : KReg) (ca : Bool) (cb : Bool)
  | vsub (vd : VReg) (va : VReg) (vb : VReg) (km : KReg) (ca : Bool) (cb : Bool)
  | vmul (vd : VReg) (va : VReg) (vb : VReg) (km : KReg) (ca : Bool) (cb : Bool)
  | vmulh (vd : VReg) (va : VReg) (vb : VReg) (km : KReg) (ca : Bool) (cb : Bool)
  | vmulhu (vd : VReg) (va : VReg) (vb : VReg) (km : KReg) (ca : Bool) (cb : Bool)
  | vmin (vd : VReg) (va : VReg) (vb : VReg) (km : KReg) (ca : Bool) (cb : Bool)
  | vmax (vd : VReg) (va : VReg) (vb : VReg) (km : KReg) (ca : Bool) (cb : Bool)
  | vminu (vd : VReg) (va : VReg) (vb : VReg) (km : KReg) (ca : Bool) (cb : Bool)
  | vmaxu (vd : VReg) (va : VReg) (vb : VReg) (km : KReg) (ca : Bool) (cb : Bool)
  | vand (vd : VReg) (va : VReg) (vb : VReg) (km : KReg) (ca : Bool) (cb : Bool)
  | vor (vd : VReg) (va : VReg) (vb : VReg) (km : KReg) (ca : Bool) (cb : Bool)
  | vxor (vd : VReg) (va : VReg) (vb : VReg) (km : KReg) (ca : Bool) (cb : Bool)
  | vandn (vd : VReg) (va : VReg) (vb : VReg) (km : KReg) (ca : Bool) (cb : Bool)
  | vshl (vd : VReg) (va : VReg) (vb : VReg) (km : KReg) (ca : Bool) (cb : Bool)
  | vshr (vd : VReg) (va : VReg) (vb : VReg) (km : KReg) (ca : Bool) (cb : Bool)
  | vsar (vd : VReg) (va : VReg) (vb : VReg) (km : KReg) (ca : Bool) (cb : Bool)
  -- Vector integer, scalar second source (MAJ 0x11, R119)
  | vaddVs (vd : VReg) (va : VReg) (sb : SReg) (km : KReg) (ca : Bool)
  | vsubVs (vd : VReg) (va : VReg) (sb : SReg) (km : KReg) (ca : Bool)
  | vmulVs (vd : VReg) (va : VReg) (sb : SReg) (km : KReg) (ca : Bool)
  | vmulhVs (vd : VReg) (va : VReg) (sb : SReg) (km : KReg) (ca : Bool)
  | vmulhuVs (vd : VReg) (va : VReg) (sb : SReg) (km : KReg) (ca : Bool)
  | vminVs (vd : VReg) (va : VReg) (sb : SReg) (km : KReg) (ca : Bool)
  | vmaxVs (vd : VReg) (va : VReg) (sb : SReg) (km : KReg) (ca : Bool)
  | vminuVs (vd : VReg) (va : VReg) (sb : SReg) (km : KReg) (ca : Bool)
  | vmaxuVs (vd : VReg) (va : VReg) (sb : SReg) (km : KReg) (ca : Bool)
  | vandVs (vd : VReg) (va : VReg) (sb : SReg) (km : KReg) (ca : Bool)
  | vorVs (vd : VReg) (va : VReg) (sb : SReg) (km : KReg) (ca : Bool)
  | vxorVs (vd : VReg) (va : VReg) (sb : SReg) (km : KReg) (ca : Bool)
  | vandnVs (vd : VReg) (va : VReg) (sb : SReg) (km : KReg) (ca : Bool)
  | vshlVs (vd : VReg) (va : VReg) (sb : SReg) (km : KReg) (ca : Bool)
  | vshrVs (vd : VReg) (va : VReg) (sb : SReg) (km : KReg) (ca : Bool)
  | vsarVs (vd : VReg) (va : VReg) (sb : SReg) (km : KReg) (ca : Bool)
  -- Vector immediates (MAJ 0x12 to 0x14, R120)
  | vaddi (vd : VReg) (va : VReg) (imm : BitVec 9) (km : KReg) (ca : Bool)
  | vrsubi (vd : VReg) (va : VReg) (imm : BitVec 9) (km : KReg) (ca : Bool)
  | vshli (vd : VReg) (va : VReg) (sh : Fin 32) (km : KReg) (ca : Bool)
  | vshri (vd : VReg) (va : VReg) (sh : Fin 32) (km : KReg) (ca : Bool)
  | vsari (vd : VReg) (va : VReg) (sh : Fin 32) (km : KReg) (ca : Bool)
  | vandi (vd : VReg) (va : VReg) (imm : BitVec 9) (km : KReg) (ca : Bool)
  -- Vector F32 (MAJ 0x15 and 0x16, R121)
  | vfadd (vd : VReg) (va : VReg) (vb : VReg) (km : KReg) (ca : Bool) (cb : Bool)
  | vfsub (vd : VReg) (va : VReg) (vb : VReg) (km : KReg) (ca : Bool) (cb : Bool)
  | vfmul (vd : VReg) (va : VReg) (vb : VReg) (km : KReg) (ca : Bool) (cb : Bool)
  | vfdiv (vd : VReg) (va : VReg) (vb : VReg) (km : KReg) (ca : Bool) (cb : Bool)
  | vfsqrt (vd : VReg) (va : VReg) (km : KReg) (ca : Bool)
  | vfmin (vd : VReg) (va : VReg) (vb : VReg) (km : KReg) (ca : Bool) (cb : Bool)
  | vfmax (vd : VReg) (va : VReg) (vb : VReg) (km : KReg) (ca : Bool) (cb : Bool)
  | vfabs (vd : VReg) (va : VReg) (km : KReg) (ca : Bool)
  | vfneg (vd : VReg) (va : VReg) (km : KReg) (ca : Bool)
  | vfcopysign (vd : VReg) (va : VReg) (vb : VReg) (km : KReg) (ca : Bool) (cb : Bool)
  | vfrint (vd : VReg) (va : VReg) (km : KReg) (ca : Bool)
  | vffloor (vd : VReg) (va : VReg) (km : KReg) (ca : Bool)
  | vfceil (vd : VReg) (va : VReg) (km : KReg) (ca : Bool)
  | vftrunc (vd : VReg) (va : VReg) (km : KReg) (ca : Bool)
  | vffract (vd : VReg) (va : VReg) (km : KReg) (ca : Bool)
  | vfaddVs (vd : VReg) (va : VReg) (sb : SReg) (km : KReg) (ca : Bool)
  | vfsubVs (vd : VReg) (va : VReg) (sb : SReg) (km : KReg) (ca : Bool)
  | vfmulVs (vd : VReg) (va : VReg) (sb : SReg) (km : KReg) (ca : Bool)
  | vfminVs (vd : VReg) (va : VReg) (sb : SReg) (km : KReg) (ca : Bool)
  | vfmaxVs (vd : VReg) (va : VReg) (sb : SReg) (km : KReg) (ca : Bool)
  -- Fused (MAJ 0x17, R122)
  | vfma (vd : VReg) (va : VReg) (vb : VReg) (vc : VReg) (km : Fin 8) (ch : Bool)
  | vfnma (vd : VReg) (va : VReg) (vb : VReg) (vc : VReg) (km : Fin 8) (ch : Bool)
  -- Conversions (MAJ 0x18, R123)
  | cvtF32Si (vd : VReg) (va : VReg) (km : KReg) (ca : Bool)
  | cvtSiF32 (vd : VReg) (va : VReg) (km : KReg) (ca : Bool)
  | cvtF32Ui (vd : VReg) (va : VReg) (km : KReg) (ca : Bool)
  | cvtUiF32 (vd : VReg) (va : VReg) (km : KReg) (ca : Bool)
  | pkBf16 (vd : VReg) (va : VReg) (vb : VReg) (km : KReg) (ca : Bool) (cb : Bool)
  | upBf16Lo (vd : VReg) (va : VReg) (km : KReg) (ca : Bool)
  | upBf16Hi (vd : VReg) (va : VReg) (km : KReg) (ca : Bool)
  | pkF16 (vd : VReg) (va : VReg) (vb : VReg) (km : KReg) (ca : Bool) (cb : Bool)
  | upF16Lo (vd : VReg) (va : VReg) (km : KReg) (ca : Bool)
  | upF16Hi (vd : VReg) (va : VReg) (km : KReg) (ca : Bool)
  | pkF8a (vd : VReg) (va : VReg) (vb : VReg) (km : KReg) (ca : Bool) (cb : Bool)
  | pkF8b (vd : VReg) (va : VReg) (vb : VReg) (km : KReg) (ca : Bool) (cb : Bool)
  | upF8a (vd : VReg) (va : VReg) (vb : VReg) (km : KReg) (ca : Bool) (cb : Bool)
  | upF8b (vd : VReg) (va : VReg) (vb : VReg) (km : KReg) (ca : Bool) (cb : Bool)
  | pkI8 (vd : VReg) (va : VReg) (vb : VReg) (km : KReg) (ca : Bool) (cb : Bool)
  | upI8 (vd : VReg) (va : VReg) (vb : VReg) (km : KReg) (ca : Bool) (cb : Bool)
  -- Special functions (MAJ 0x19, R124)
  | vsin (vd : VReg) (va : VReg) (km : KReg) (ca : Bool)
  | vcos (vd : VReg) (va : VReg) (km : KReg) (ca : Bool)
  | vsinpi (vd : VReg) (va : VReg) (km : KReg) (ca : Bool)
  | vcospi (vd : VReg) (va : VReg) (km : KReg) (ca : Bool)
  | vexp2 (vd : VReg) (va : VReg) (km : KReg) (ca : Bool)
  | vlog2 (vd : VReg) (va : VReg) (km : KReg) (ca : Bool)
  | vrcp (vd : VReg) (va : VReg) (km : KReg) (ca : Bool)
  | vrsqrt (vd : VReg) (va : VReg) (km : KReg) (ca : Bool)
  | vtanh (vd : VReg) (va : VReg) (km : KReg) (ca : Bool)
  | vsigm (vd : VReg) (va : VReg) (km : KReg) (ca : Bool)
  -- Compares (MAJ 0x1A and 0x1B, R125)
  | vcmpEq (kd : KReg) (va : VReg) (vb : VReg) (km : KReg) (ca : Bool) (cb : Bool)
  | vcmpNe (kd : KReg) (va : VReg) (vb : VReg) (km : KReg) (ca : Bool) (cb : Bool)
  | vcmpLt (kd : KReg) (va : VReg) (vb : VReg) (km : KReg) (ca : Bool) (cb : Bool)
  | vcmpGe (kd : KReg) (va : VReg) (vb : VReg) (km : KReg) (ca : Bool) (cb : Bool)
  | vcmpLtu (kd : KReg) (va : VReg) (vb : VReg) (km : KReg) (ca : Bool) (cb : Bool)
  | vcmpGeu (kd : KReg) (va : VReg) (vb : VReg) (km : KReg) (ca : Bool) (cb : Bool)
  | vfcmpEq (kd : KReg) (va : VReg) (vb : VReg) (km : KReg) (ca : Bool) (cb : Bool)
  | vfcmpNe (kd : KReg) (va : VReg) (vb : VReg) (km : KReg) (ca : Bool) (cb : Bool)
  | vfcmpLt (kd : KReg) (va : VReg) (vb : VReg) (km : KReg) (ca : Bool) (cb : Bool)
  | vfcmpLe (kd : KReg) (va : VReg) (vb : VReg) (km : KReg) (ca : Bool) (cb : Bool)
  | vfcmpGt (kd : KReg) (va : VReg) (vb : VReg) (km : KReg) (ca : Bool) (cb : Bool)
  | vfcmpGe (kd : KReg) (va : VReg) (vb : VReg) (km : KReg) (ca : Bool) (cb : Bool)
  | vfcmpUn (kd : KReg) (va : VReg) (vb : VReg) (km : KReg) (ca : Bool) (cb : Bool)
  | vfcmpOrd (kd : KReg) (va : VReg) (vb : VReg) (km : KReg) (ca : Bool) (cb : Bool)
  -- Predicates (MAJ 0x1C, R126)
  | kand (kd : KReg) (ka : KReg) (kb : KReg)
  | kor (kd : KReg) (ka : KReg) (kb : KReg)
  | kxor (kd : KReg) (ka : KReg) (kb : KReg)
  | kandn (kd : KReg) (ka : KReg) (kb : KReg)
  | knot (kd : KReg) (ka : KReg)
  | kmov (kd : KReg) (ka : KReg)
  | kall (kd : KReg)
  | knone (kd : KReg)
  -- Select and move (MAJ 0x1D, R127)
  | vsel (vd : VReg) (va : VReg) (vb : VReg) (km : KReg) (ca : Bool) (cb : Bool)
  | vmov (vd : VReg) (va : VReg) (km : KReg) (ca : Bool)
  | viota (vd : VReg) (km : KReg)
  -- Scalars and lanes (MAJ 0x1E, R128)
  | vbcast (vd : VReg) (sb : SReg) (km : KReg)
  | vextr (sd : Fin 32) (va : VReg) (sb : SReg) (ca : Bool)
  | kcnt (sd : Fin 32) (ka : KReg)
  | kfst (sd : Fin 32) (ka : KReg)
  -- Cross-lane (MAJ 0x1F to 0x22, R129 to R135)
  | vperm (vd : VReg) (va : VReg) (vb : VReg) (km : KReg) (ca : Bool) (cb : Bool)
  | vcompress (vd : VReg) (va : VReg) (km : KReg) (ca : Bool)
  | vexpand (vd : VReg) (va : VReg) (km : KReg) (ca : Bool)
  | vraddI (sd : Fin 32) (va : VReg) (km : KReg) (ca : Bool)
  | vrmaxI (sd : Fin 32) (va : VReg) (km : KReg) (ca : Bool)
  | vrminI (sd : Fin 32) (va : VReg) (km : KReg) (ca : Bool)
  | vraddF (sd : Fin 32) (va : VReg) (km : KReg) (ca : Bool)
  | vrmaxF (sd : Fin 32) (va : VReg) (km : KReg) (ca : Bool)
  | vrminF (sd : Fin 32) (va : VReg) (km : KReg) (ca : Bool)
  | vrand (sd : Fin 32) (va : VReg) (km : KReg) (ca : Bool)
  | vror (sd : Fin 32) (va : VReg) (km : KReg) (ca : Bool)
  | vscanAddI (vd : VReg) (va : VReg) (km : KReg) (ca : Bool)
  | vscanAddF (vd : VReg) (va : VReg) (km : KReg) (ca : Bool)
  | vscanMaxF (vd : VReg) (va : VReg) (km : KReg) (ca : Bool)
  | vswz (vd : VReg) (va : VReg) (md : Swz) (amt : BitVec 7) (km : KReg) (ca : Bool)
  | vswzg (vd : VReg) (va : VReg) (md : Swz) (amt : BitVec 7) (km : KReg) (ca : Bool)
  -- Vector memory (MAJ 0x23 to 0x28, R138)
  | vldW (vd : VReg) (sa : SReg) (sp : Space) (km : KReg) (md : VMode)
  | vldH (vd : VReg) (sa : SReg) (sp : Space) (km : KReg) (md : VMode)
  | vldB (vd : VReg) (sa : SReg) (sp : Space) (km : KReg) (md : VMode)
  | vstW (vd : VReg) (sa : SReg) (sp : Space) (km : KReg) (md : VMode)
  | vstH (vd : VReg) (sa : SReg) (sp : Space) (km : KReg) (md : VMode)
  | vstB (vd : VReg) (sa : SReg) (sp : Space) (km : KReg) (md : VMode)
  -- Atomics (MAJ 0x29 to 0x2B, R182)
  | vatomG (vd : VReg) (sa : SReg) (va : VReg) (vb : VReg) (op : AtomOp)
  | vatomD (vd : VReg) (sa : SReg) (va : VReg) (vb : VReg) (op : AtomOp)
  | vatomQ (vd : VReg) (sa : SReg) (va : VReg) (vb : VReg) (op : AtomOp)
  -- Tiles (MAJ 0x2C to 0x2F, R243 to R266)
  | tset (sa : SReg) (sb : SReg) (sc : SReg) (fm : Fm)
  | tquery (sa : SReg) (sb : SReg) (sc : SReg) (fm : Fm)
  | tzero (ad : Fin 4) (id : Fin 32) (p1 : Fin 32) (p2 : Fin 32)
  | tldw (sa : SReg) (id : Fin 32) (p1 : Fin 32) (p2 : Fin 32)
  | tmma (ad : Fin 4) (sa : SReg) (id : Fin 32) (p1 : Fin 32) (p2 : Fin 32)
  | tst (ad : Fin 4) (sa : SReg) (id : Fin 32) (p1 : Fin 32) (p2 : Fin 32)
  | tadd (ad : Fin 4) (sa : SReg) (id : Fin 32) (p1 : Fin 32) (p2 : Fin 32)
  | tsave (ad : Fin 4) (sa : SReg) (id : Fin 32) (p1 : Fin 32) (p2 : Fin 32)
  | trest (ad : Fin 4) (sa : SReg) (id : Fin 32) (p1 : Fin 32) (p2 : Fin 32)
  | tstb (ad : Fin 4) (sa : SReg) (id : Fin 32) (p1 : Fin 32) (p2 : Fin 32)
  | tvget (vd : VReg) (ad : Fin 4) (sb : SReg) (id : Fin 32)
  | tvset (vd : VReg) (ad : Fin 4) (sb : SReg) (id : Fin 32)
  | twait (id : Fin 32)
  | tfree (ad : Fin 4) (id : Fin 32)
  -- Copies, nests and gathers (MAJ 0x30 to 0x32, R231 to R236)
  | cpLd (sa : SReg) (sb : SReg) (nb : Fin 16) (bx : Box) (xs : Far)
  | cpSt (sa : SReg) (sb : SReg) (nb : Fin 16) (bx : Box) (xs : Far)
  | cpPut (sa : SReg) (sb : SReg) (nb : Fin 16) (bx : Box)
  | cpLdr (sa : SReg) (sb : SReg) (rg : Fin 8) (bx : Box) (xs : Far)
  | cpnestRun (sd : SReg) (sa : SReg) (nb : Fin 16)
  | cpnestStop (sa : SReg)
  | cpnestStat (sd : SReg) (sa : SReg)
  | cpGath (kd : KReg) (vb : VReg) (sa : SReg) (sb : SReg) (nb : Fin 16)
  -- Rings (MAJ 0x33, R238)
  | rdef (sa : SReg) (rg : Fin 8)
  | rres (sd : SReg) (sa : SReg) (rg : Fin 8)
  | rpub (sa : SReg) (rg : Fin 8)
  | rpop (sd : SReg) (rg : Fin 8)
  | rrel (sa : SReg) (rg : Fin 8)
  | rstat (sd : SReg) (rg : Fin 8)
  -- Named barriers (MAJ 0x34, R217 to R221)
  | binit (sa : SReg) (nb : Fin 16)
  | barr (nb : Fin 16)
  | bwait (sd : SReg) (sa : SReg) (nb : Fin 16)
  | btest (sd : SReg) (nb : Fin 16)
  | binval (nb : Fin 16)
  -- Stitch markers (MAJ 0x35, R208)
  | mkTas (sd : SReg) (mk : Fin 64)
  | mkTasnb (sd : SReg) (mk : Fin 64)
  | mkFadd (sd : SReg) (sa : SReg) (mk : Fin 64)
  | mkRd (sd : SReg) (mk : Fin 64)
  | mkWr (sa : SReg) (mk : Fin 64)
  | mkClr (mk : Fin 64)
  -- Die sync registers (MAJ 0x36, R211)
  | dsTas (sd : SReg) (ds : Fin 1024)
  | dsFadd (sd : SReg) (sa : SReg) (ds : Fin 1024)
  | dsRd (sd : SReg) (ds : Fin 1024)
  | dsWr (sa : SReg) (ds : Fin 1024)
  | dsWeq (sa : SReg) (ds : Fin 1024)
  -- Scope barriers and fences (MAJ 0x37, R214, R196)
  | bar (sc : BarScope) (n : Fin 32)
  | fence (sc : Scope) (kd : FKind)
  -- Tree walks (MAJ 0x38 and 0x39, R271 to R289)
  | twstart (vd : VReg) (va : VReg) (sb : SReg) (tw : Fin 4)
  | twret (va : VReg)
  | twstop
  | twcut (vd : VReg) (va : VReg) (sb : SReg)
  | twadopt (vd : VReg) (sb : SReg)
  | twdef (sa : SReg) (g : Bool) (tw : Fin 4)
  | twstat (sd : SReg) (tw : Fin 4)
  -- Graces (MAJ 0x3A, R296 to R303)
  | rdenter
  | rdexit
  | qsp
  | gstart (sd : SReg) (sc : GScope)
  | wgrace (sa : SReg) (sc : GScope)
  | gpoll (sd : SReg) (sc : GScope)
  | defer (sd : SReg) (sa : SReg) (sc : GScope) (cls : BitVec 7)
  -- Spawn, join and register blocks (MAJ 0x3B, R161 to R163)
  | spawn (sd : SReg) (sa : SReg)
  | join
  | rgive (n : Fin 4)
  | rclaim (n : Fin 4)
  -- Privileged (MAJ 0x3C, R312 to R314)
  | mtsrp (sa : SReg) (num : BitVec 10)
  | iret
  | segld (sd : SReg) (sa : SReg) (sp : Space)
  | tlbinv (sa : SReg) (asid : BitVec 10)
  | halt
  -- Acts of the other agents: no encoding (INVENTORY.md, Agents)
  | instructionFetch (wave : Nat)
  | powerOn
  | firmwareAuthentication (die : Fin 4) (img : FirmwareImage)
  | earlyServiceCompletion (die : Fin 4) (passed : Bool) (cfg : PartConfig)
  | hostMemoryRead (die : Fin 4) (addr : Nat) (len : Nat)
  | hostMemoryWrite (die : Fin 4) (addr : Nat) (bytes : List Byte)
  | notification (q : Nat)
  | queueMap (q : Nat)
  | queueUnmap (q : Nat)
  | queueTimeShareExpiry (q : Nat)
  | pendingBitService (q : Nat)
  | placement (die : Fin 4)
  | gangCompletion (gang : Nat)
  | successorInsertion (part : Fin 8)
  | preemptionTimeout (task : Nat)
  | contextSave (gang : Nat)
  | contextRestore (gang : Nat)
  | ageQueueJoin (wave : Nat)
  | sleepDeadline (wave : Nat)
  | copyCompletion (transfer : Nat) (delivered : Bool)
  | putPacketArrival (p : PutPacket)
  | putSignal (p : PutSig)
  | tileCommandRetire (wave : Nat)
  | nodePresentation (wave : Nat) (lane : Lane)
  | mirrorUpdate (part : Fin 8) (die : Fin 4)
  | replCommit
  | graceCompletion (dom : DomainKey)
  | freedRingRecheck (dom : DomainKey)
  | slowGrace (dom : DomainKey)
  | correctedError (site : ErrSite) (data : BitVec 64) (syndrome : BitVec 64)
  | correctedErrorHoldExpiry (die : Fin 4) (index : Nat)
  | uncorrectableRetry (site : ErrSite) (lasting : Bool) (data : BitVec 64) (syndrome : BitVec 64)
  | shadowDivergence (wave : Nat) (acc : Option AReg) (lasting : Bool) (elem : BitVec 16) (data : BitVec 64)
  | barrierWatchdogExpiry (wave : Nat)
  | gangKill (gang : Nat) (cause : BitVec 16)
  | flitReplay (link : Link) (failed : Bool)
  | edgeDown (a : Fin 4) (b : Fin 4)
  | iftStart (die : Fin 4)
  | iftTestBegin (die : Fin 4)
  | iftTestEnd (die : Fin 4) (pass : Bool)
  | keyLoad (die : Fin 4)
  | keyClear (die : Fin 4)
  | keyBadCommand (die : Fin 4)
  | keyCommandCompletion
  | relSizeWrite (die : Fin 4) (v : BitVec 64)
  | relStatOvfClear (die : Fin 4)
  | policyDefaultWrite (die : Fin 4) (v : BitVec 64)
  | registerWrite (die : Fin 4) (off : Nat) (v : BitVec 64)
  -- The mailbox services (R354)
  | registerUserQueue (tag : BitVec 16) (desc : Nat) (asid : Nat) (part : Fin 8)
  | registerPrivilegedQueue (tag : BitVec 16) (desc : Nat) (asid : Nat) (part : Fin 8)
  | unregisterQueue (tag : BitVec 16) (q : Nat)
  | configurePartition (tag : BitVec 16) (cfg : PartConfig)
  | partitionReset (tag : BitVec 16) (part : Fin 8)
  | partitionTeardown (tag : BitVec 16) (part : Fin 8)
  | assignAsid (tag : BitVec 16) (asid : Nat) (root : Nat) (part : Fin 8) (save : Nat)
  | retireAsid (tag : BitVec 16) (asid : Nat)
  | retireCore (tag : BitVec 16) (core : CoreId)
  | restoreCore (tag : BitVec 16) (core : CoreId)
  | attestationReport (tag : BitVec 16) (nonce : List Byte) (part : Fin 8)
  | clockStep (tag : BitVec 16) (clock : Nat)
  | setBarrierCounts (tag : BitVec 16) (part : Fin 8) (sc : GScope) (die : Fin 4) (n : Fin 32) (count : BitVec 16)
  | openPutWindow (tag : BitVec 16) (part : Fin 8) (win : PutWindow)
  | closePutWindow (tag : BitVec 16) (part : Fin 8) (index : Nat)
  | setMod (tag : BitVec 16) (num : Fin 64)
  | registerFreedRing (tag : BitVec 16) (part : Fin 8) (asid : Nat) (scope : Nat) (die : Nat) (base : Nat) (log2n : Nat)
  | invalidateTranslations (tag : BitVec 16) (asid : Nat) (va : DWord)
  | answerFaultService (tag : BitVec 16) (request : BitVec 16) (declined : Bool)
  | resumeGangs (tag : BitVec 16) (part : BitVec 8) (task : DWord)
  | killGangs (tag : BitVec 16) (part : BitVec 8) (task : DWord)
  -- Remaining acts
  | illegalOp (word : Word)
  | hcallReply (wave : Nat) (value : DWord)
  | powerRemoval
  | unknownMailboxService (tag : BitVec 16) (service : BitVec 16)
  deriving DecidableEq, Repr

end Sys2Proof
end

