-- ==== Sys2Proof/WellFormed.lean ====
section
/-! DEFINITION. Which instructions some word may stand for: the conditions of R35, R38, R138 and R163 that join fields, and
which constructors are words at all. -/

namespace Sys2Proof

/-- The conditions that R38 puts on an instruction word beyond the range of each field. An act has none. -/
def Instr.wellFormed : Instr → Bool
  | .add .. => true
  | .sub .. => true
  | .and .. => true
  | .or .. => true
  | .xor .. => true
  | .andn .. => true
  | .shl .. => true
  | .shr .. => true
  | .sar .. => true
  | .rol .. => true
  | .min .. => true
  | .max .. => true
  | .minu .. => true
  | .maxu .. => true
  | .mul .. => true
  | .mulh .. => true
  | .mulhu .. => true
  | .div .. => true
  | .divu .. => true
  | .rem .. => true
  | .remu .. => true
  | .slt .. => true
  | .sltu .. => true
  | .seq .. => true
  | .clz .. => true
  | .ctz .. => true
  | .popc .. => true
  | .bfe .. => true
  | .bfi .. => true
  | .addi .. => true
  | .andi .. => true
  | .ori .. => true
  | .xori .. => true
  | .shli .. => true
  | .shri .. => true
  | .sari .. => true
  | .slti .. => true
  | .sethi .. => true
  | .lit .. => true
  | .lit64 .. => true
  | .ld .. => true
  | .st _ _ sp sz _ => decide ((sz = .b ∨ sz = .h ∨ sz = .w ∨ sz = .d) ∧ sp ≠ .c)
  | .beq .. => true
  | .bne .. => true
  | .blt .. => true
  | .bge .. => true
  | .bltu .. => true
  | .bgeu .. => true
  | .call sl _ => decide (sl ≠ 0)
  | .jmp .. => true
  | .jr .. => true
  | .callr .. => true
  | .csel .. => true
  | .strip _ pb np _ _ => decide (np.val ≤ 4 ∧ pb.val + np.val ≤ 64)
  | .mfsr .. => true
  | .mtsr .. => true
  | .setvl .. => true
  | .trap .. => true
  | .hcall .. => true
  | .exit .. => true
  | .yield => true
  | .sleep .. => true
  | .fadd .. => true
  | .fsub .. => true
  | .fmul .. => true
  | .fdiv .. => true
  | .fsqrt .. => true
  | .fmin .. => true
  | .fmax .. => true
  | .flt .. => true
  | .feq .. => true
  | .fle .. => true
  | .fcvtF32Si .. => true
  | .fcvtSiF32 .. => true
  | .vbr .. => true
  | .vcall .. => true
  | .vjr .. => true
  | .vcallr .. => true
  | .vadd .. => true
  | .vsub .. => true
  | .vmul .. => true
  | .vmulh .. => true
  | .vmulhu .. => true
  | .vmin .. => true
  | .vmax .. => true
  | .vminu .. => true
  | .vmaxu .. => true
  | .vand .. => true
  | .vor .. => true
  | .vxor .. => true
  | .vandn .. => true
  | .vshl .. => true
  | .vshr .. => true
  | .vsar .. => true
  | .vaddVs .. => true
  | .vsubVs .. => true
  | .vmulVs .. => true
  | .vmulhVs .. => true
  | .vmulhuVs .. => true
  | .vminVs .. => true
  | .vmaxVs .. => true
  | .vminuVs .. => true
  | .vmaxuVs .. => true
  | .vandVs .. => true
  | .vorVs .. => true
  | .vxorVs .. => true
  | .vandnVs .. => true
  | .vshlVs .. => true
  | .vshrVs .. => true
  | .vsarVs .. => true
  | .vaddi .. => true
  | .vrsubi .. => true
  | .vshli .. => true
  | .vshri .. => true
  | .vsari .. => true
  | .vandi .. => true
  | .vfadd .. => true
  | .vfsub .. => true
  | .vfmul .. => true
  | .vfdiv .. => true
  | .vfsqrt .. => true
  | .vfmin .. => true
  | .vfmax .. => true
  | .vfabs .. => true
  | .vfneg .. => true
  | .vfcopysign .. => true
  | .vfrint .. => true
  | .vffloor .. => true
  | .vfceil .. => true
  | .vftrunc .. => true
  | .vffract .. => true
  | .vfaddVs .. => true
  | .vfsubVs .. => true
  | .vfmulVs .. => true
  | .vfminVs .. => true
  | .vfmaxVs .. => true
  | .vfma .. => true
  | .vfnma .. => true
  | .cvtF32Si .. => true
  | .cvtSiF32 .. => true
  | .cvtF32Ui .. => true
  | .cvtUiF32 .. => true
  | .pkBf16 .. => true
  | .upBf16Lo .. => true
  | .upBf16Hi .. => true
  | .pkF16 .. => true
  | .upF16Lo .. => true
  | .upF16Hi .. => true
  | .pkF8a .. => true
  | .pkF8b .. => true
  | .upF8a .. => true
  | .upF8b .. => true
  | .pkI8 .. => true
  | .upI8 .. => true
  | .vsin .. => true
  | .vcos .. => true
  | .vsinpi .. => true
  | .vcospi .. => true
  | .vexp2 .. => true
  | .vlog2 .. => true
  | .vrcp .. => true
  | .vrsqrt .. => true
  | .vtanh .. => true
  | .vsigm .. => true
  | .vcmpEq .. => true
  | .vcmpNe .. => true
  | .vcmpLt .. => true
  | .vcmpGe .. => true
  | .vcmpLtu .. => true
  | .vcmpGeu .. => true
  | .vfcmpEq .. => true
  | .vfcmpNe .. => true
  | .vfcmpLt .. => true
  | .vfcmpLe .. => true
  | .vfcmpGt .. => true
  | .vfcmpGe .. => true
  | .vfcmpUn .. => true
  | .vfcmpOrd .. => true
  | .kand .. => true
  | .kor .. => true
  | .kxor .. => true
  | .kandn .. => true
  | .knot .. => true
  | .kmov .. => true
  | .kall .. => true
  | .knone .. => true
  | .vsel _ _ _ km _ _ => decide (km ≠ 0)
  | .vmov .. => true
  | .viota .. => true
  | .vbcast .. => true
  | .vextr .. => true
  | .kcnt .. => true
  | .kfst .. => true
  | .vperm .. => true
  | .vcompress _ _ km _ => decide (km ≠ 0)
  | .vexpand _ _ km _ => decide (km ≠ 0)
  | .vraddI .. => true
  | .vrmaxI .. => true
  | .vrminI .. => true
  | .vraddF .. => true
  | .vrmaxF .. => true
  | .vrminF .. => true
  | .vrand .. => true
  | .vror .. => true
  | .vscanAddI .. => true
  | .vscanAddF .. => true
  | .vscanMaxF .. => true
  | .vswz .. => true
  | .vswzg .. => true
  | .vldW .. => true
  | .vldH .. => true
  | .vldB .. => true
  | .vstW _ _ sp _ _ => decide (sp ≠ .c)
  | .vstH _ _ sp _ _ => decide (sp ≠ .c)
  | .vstB _ _ sp _ _ => decide (sp ≠ .c)
  | .vatomG .. => true
  | .vatomD .. => true
  | .vatomQ .. => true
  | .tset .. => true
  | .tquery .. => true
  | .tzero .. => true
  | .tldw .. => true
  | .tmma .. => true
  | .tst .. => true
  | .tadd .. => true
  | .tsave .. => true
  | .trest .. => true
  | .tstb .. => true
  | .tvget .. => true
  | .tvset .. => true
  | .twait .. => true
  | .tfree .. => true
  | .cpLd .. => true
  | .cpSt .. => true
  | .cpPut .. => true
  | .cpLdr .. => true
  | .cpnestRun .. => true
  | .cpnestStop .. => true
  | .cpnestStat .. => true
  | .cpGath .. => true
  | .rdef .. => true
  | .rres .. => true
  | .rpub .. => true
  | .rpop .. => true
  | .rrel .. => true
  | .rstat .. => true
  | .binit .. => true
  | .barr .. => true
  | .bwait .. => true
  | .btest .. => true
  | .binval .. => true
  | .mkTas .. => true
  | .mkTasnb .. => true
  | .mkFadd .. => true
  | .mkRd .. => true
  | .mkWr .. => true
  | .mkClr .. => true
  | .dsTas .. => true
  | .dsFadd .. => true
  | .dsRd .. => true
  | .dsWr .. => true
  | .dsWeq .. => true
  | .bar .. => true
  | .fence .. => true
  | .twstart .. => true
  | .twret .. => true
  | .twstop => true
  | .twcut .. => true
  | .twadopt .. => true
  | .twdef .. => true
  | .twstat .. => true
  | .rdenter => true
  | .rdexit => true
  | .qsp => true
  | .gstart .. => true
  | .wgrace .. => true
  | .gpoll .. => true
  | .defer .. => true
  | .spawn .. => true
  | .join => true
  | .rgive n => decide (n ≠ 0)
  | .rclaim n => decide (n ≠ 0)
  | .mtsrp .. => true
  | .iret => true
  | .segld .. => true
  | .tlbinv .. => true
  | .halt => true
  | .instructionFetch .. => true
  | .powerOn => true
  | .firmwareAuthentication .. => true
  | .earlyServiceCompletion .. => true
  | .hostMemoryRead .. => true
  | .hostMemoryWrite .. => true
  | .notification .. => true
  | .queueMap .. => true
  | .queueUnmap .. => true
  | .queueTimeShareExpiry .. => true
  | .pendingBitService .. => true
  | .placement .. => true
  | .gangCompletion .. => true
  | .successorInsertion .. => true
  | .preemptionTimeout .. => true
  | .contextSave .. => true
  | .contextRestore .. => true
  | .ageQueueJoin .. => true
  | .sleepDeadline .. => true
  | .copyCompletion .. => true
  | .putPacketArrival .. => true
  | .putSignal .. => true
  | .tileCommandRetire .. => true
  | .nodePresentation .. => true
  | .mirrorUpdate .. => true
  | .replCommit => true
  | .graceCompletion .. => true
  | .freedRingRecheck .. => true
  | .slowGrace .. => true
  | .correctedError .. => true
  | .correctedErrorHoldExpiry .. => true
  | .uncorrectableRetry .. => true
  | .shadowDivergence .. => true
  | .barrierWatchdogExpiry .. => true
  | .gangKill .. => true
  | .flitReplay .. => true
  | .edgeDown .. => true
  | .iftStart .. => true
  | .iftTestBegin .. => true
  | .iftTestEnd .. => true
  | .keyLoad .. => true
  | .keyClear .. => true
  | .keyBadCommand .. => true
  | .keyCommandCompletion => true
  | .relSizeWrite .. => true
  | .relStatOvfClear .. => true
  | .policyDefaultWrite .. => true
  | .registerWrite .. => true
  | .registerUserQueue .. => true
  | .registerPrivilegedQueue .. => true
  | .unregisterQueue .. => true
  | .configurePartition .. => true
  | .partitionReset .. => true
  | .partitionTeardown .. => true
  | .assignAsid .. => true
  | .retireAsid .. => true
  | .retireCore .. => true
  | .restoreCore .. => true
  | .attestationReport .. => true
  | .clockStep .. => true
  | .setBarrierCounts .. => true
  | .openPutWindow .. => true
  | .closePutWindow .. => true
  | .setMod .. => true
  | .registerFreedRing .. => true
  | .invalidateTranslations .. => true
  | .answerFaultService .. => true
  | .resumeGangs .. => true
  | .killGangs .. => true
  | .illegalOp .. => true
  | .hcallReply .. => true
  | .powerRemoval => true
  | .unknownMailboxService .. => true

/-- Whether the constructor is an instruction word of R34 (an act is none). -/
def Instr.isWord : Instr → Bool
  | .add .. => true
  | .sub .. => true
  | .and .. => true
  | .or .. => true
  | .xor .. => true
  | .andn .. => true
  | .shl .. => true
  | .shr .. => true
  | .sar .. => true
  | .rol .. => true
  | .min .. => true
  | .max .. => true
  | .minu .. => true
  | .maxu .. => true
  | .mul .. => true
  | .mulh .. => true
  | .mulhu .. => true
  | .div .. => true
  | .divu .. => true
  | .rem .. => true
  | .remu .. => true
  | .slt .. => true
  | .sltu .. => true
  | .seq .. => true
  | .clz .. => true
  | .ctz .. => true
  | .popc .. => true
  | .bfe .. => true
  | .bfi .. => true
  | .addi .. => true
  | .andi .. => true
  | .ori .. => true
  | .xori .. => true
  | .shli .. => true
  | .shri .. => true
  | .sari .. => true
  | .slti .. => true
  | .sethi .. => true
  | .lit .. => true
  | .lit64 .. => true
  | .ld .. => true
  | .st .. => true
  | .beq .. => true
  | .bne .. => true
  | .blt .. => true
  | .bge .. => true
  | .bltu .. => true
  | .bgeu .. => true
  | .call .. => true
  | .jmp .. => true
  | .jr .. => true
  | .callr .. => true
  | .csel .. => true
  | .strip .. => true
  | .mfsr .. => true
  | .mtsr .. => true
  | .setvl .. => true
  | .trap .. => true
  | .hcall .. => true
  | .exit .. => true
  | .yield => true
  | .sleep .. => true
  | .fadd .. => true
  | .fsub .. => true
  | .fmul .. => true
  | .fdiv .. => true
  | .fsqrt .. => true
  | .fmin .. => true
  | .fmax .. => true
  | .flt .. => true
  | .feq .. => true
  | .fle .. => true
  | .fcvtF32Si .. => true
  | .fcvtSiF32 .. => true
  | .vbr .. => true
  | .vcall .. => true
  | .vjr .. => true
  | .vcallr .. => true
  | .vadd .. => true
  | .vsub .. => true
  | .vmul .. => true
  | .vmulh .. => true
  | .vmulhu .. => true
  | .vmin .. => true
  | .vmax .. => true
  | .vminu .. => true
  | .vmaxu .. => true
  | .vand .. => true
  | .vor .. => true
  | .vxor .. => true
  | .vandn .. => true
  | .vshl .. => true
  | .vshr .. => true
  | .vsar .. => true
  | .vaddVs .. => true
  | .vsubVs .. => true
  | .vmulVs .. => true
  | .vmulhVs .. => true
  | .vmulhuVs .. => true
  | .vminVs .. => true
  | .vmaxVs .. => true
  | .vminuVs .. => true
  | .vmaxuVs .. => true
  | .vandVs .. => true
  | .vorVs .. => true
  | .vxorVs .. => true
  | .vandnVs .. => true
  | .vshlVs .. => true
  | .vshrVs .. => true
  | .vsarVs .. => true
  | .vaddi .. => true
  | .vrsubi .. => true
  | .vshli .. => true
  | .vshri .. => true
  | .vsari .. => true
  | .vandi .. => true
  | .vfadd .. => true
  | .vfsub .. => true
  | .vfmul .. => true
  | .vfdiv .. => true
  | .vfsqrt .. => true
  | .vfmin .. => true
  | .vfmax .. => true
  | .vfabs .. => true
  | .vfneg .. => true
  | .vfcopysign .. => true
  | .vfrint .. => true
  | .vffloor .. => true
  | .vfceil .. => true
  | .vftrunc .. => true
  | .vffract .. => true
  | .vfaddVs .. => true
  | .vfsubVs .. => true
  | .vfmulVs .. => true
  | .vfminVs .. => true
  | .vfmaxVs .. => true
  | .vfma .. => true
  | .vfnma .. => true
  | .cvtF32Si .. => true
  | .cvtSiF32 .. => true
  | .cvtF32Ui .. => true
  | .cvtUiF32 .. => true
  | .pkBf16 .. => true
  | .upBf16Lo .. => true
  | .upBf16Hi .. => true
  | .pkF16 .. => true
  | .upF16Lo .. => true
  | .upF16Hi .. => true
  | .pkF8a .. => true
  | .pkF8b .. => true
  | .upF8a .. => true
  | .upF8b .. => true
  | .pkI8 .. => true
  | .upI8 .. => true
  | .vsin .. => true
  | .vcos .. => true
  | .vsinpi .. => true
  | .vcospi .. => true
  | .vexp2 .. => true
  | .vlog2 .. => true
  | .vrcp .. => true
  | .vrsqrt .. => true
  | .vtanh .. => true
  | .vsigm .. => true
  | .vcmpEq .. => true
  | .vcmpNe .. => true
  | .vcmpLt .. => true
  | .vcmpGe .. => true
  | .vcmpLtu .. => true
  | .vcmpGeu .. => true
  | .vfcmpEq .. => true
  | .vfcmpNe .. => true
  | .vfcmpLt .. => true
  | .vfcmpLe .. => true
  | .vfcmpGt .. => true
  | .vfcmpGe .. => true
  | .vfcmpUn .. => true
  | .vfcmpOrd .. => true
  | .kand .. => true
  | .kor .. => true
  | .kxor .. => true
  | .kandn .. => true
  | .knot .. => true
  | .kmov .. => true
  | .kall .. => true
  | .knone .. => true
  | .vsel .. => true
  | .vmov .. => true
  | .viota .. => true
  | .vbcast .. => true
  | .vextr .. => true
  | .kcnt .. => true
  | .kfst .. => true
  | .vperm .. => true
  | .vcompress .. => true
  | .vexpand .. => true
  | .vraddI .. => true
  | .vrmaxI .. => true
  | .vrminI .. => true
  | .vraddF .. => true
  | .vrmaxF .. => true
  | .vrminF .. => true
  | .vrand .. => true
  | .vror .. => true
  | .vscanAddI .. => true
  | .vscanAddF .. => true
  | .vscanMaxF .. => true
  | .vswz .. => true
  | .vswzg .. => true
  | .vldW .. => true
  | .vldH .. => true
  | .vldB .. => true
  | .vstW .. => true
  | .vstH .. => true
  | .vstB .. => true
  | .vatomG .. => true
  | .vatomD .. => true
  | .vatomQ .. => true
  | .tset .. => true
  | .tquery .. => true
  | .tzero .. => true
  | .tldw .. => true
  | .tmma .. => true
  | .tst .. => true
  | .tadd .. => true
  | .tsave .. => true
  | .trest .. => true
  | .tstb .. => true
  | .tvget .. => true
  | .tvset .. => true
  | .twait .. => true
  | .tfree .. => true
  | .cpLd .. => true
  | .cpSt .. => true
  | .cpPut .. => true
  | .cpLdr .. => true
  | .cpnestRun .. => true
  | .cpnestStop .. => true
  | .cpnestStat .. => true
  | .cpGath .. => true
  | .rdef .. => true
  | .rres .. => true
  | .rpub .. => true
  | .rpop .. => true
  | .rrel .. => true
  | .rstat .. => true
  | .binit .. => true
  | .barr .. => true
  | .bwait .. => true
  | .btest .. => true
  | .binval .. => true
  | .mkTas .. => true
  | .mkTasnb .. => true
  | .mkFadd .. => true
  | .mkRd .. => true
  | .mkWr .. => true
  | .mkClr .. => true
  | .dsTas .. => true
  | .dsFadd .. => true
  | .dsRd .. => true
  | .dsWr .. => true
  | .dsWeq .. => true
  | .bar .. => true
  | .fence .. => true
  | .twstart .. => true
  | .twret .. => true
  | .twstop => true
  | .twcut .. => true
  | .twadopt .. => true
  | .twdef .. => true
  | .twstat .. => true
  | .rdenter => true
  | .rdexit => true
  | .qsp => true
  | .gstart .. => true
  | .wgrace .. => true
  | .gpoll .. => true
  | .defer .. => true
  | .spawn .. => true
  | .join => true
  | .rgive .. => true
  | .rclaim .. => true
  | .mtsrp .. => true
  | .iret => true
  | .segld .. => true
  | .tlbinv .. => true
  | .halt => true
  | .instructionFetch .. => false
  | .powerOn => false
  | .firmwareAuthentication .. => false
  | .earlyServiceCompletion .. => false
  | .hostMemoryRead .. => false
  | .hostMemoryWrite .. => false
  | .notification .. => false
  | .queueMap .. => false
  | .queueUnmap .. => false
  | .queueTimeShareExpiry .. => false
  | .pendingBitService .. => false
  | .placement .. => false
  | .gangCompletion .. => false
  | .successorInsertion .. => false
  | .preemptionTimeout .. => false
  | .contextSave .. => false
  | .contextRestore .. => false
  | .ageQueueJoin .. => false
  | .sleepDeadline .. => false
  | .copyCompletion .. => false
  | .putPacketArrival .. => false
  | .putSignal .. => false
  | .tileCommandRetire .. => false
  | .nodePresentation .. => false
  | .mirrorUpdate .. => false
  | .replCommit => false
  | .graceCompletion .. => false
  | .freedRingRecheck .. => false
  | .slowGrace .. => false
  | .correctedError .. => false
  | .correctedErrorHoldExpiry .. => false
  | .uncorrectableRetry .. => false
  | .shadowDivergence .. => false
  | .barrierWatchdogExpiry .. => false
  | .gangKill .. => false
  | .flitReplay .. => false
  | .edgeDown .. => false
  | .iftStart .. => false
  | .iftTestBegin .. => false
  | .iftTestEnd .. => false
  | .keyLoad .. => false
  | .keyClear .. => false
  | .keyBadCommand .. => false
  | .keyCommandCompletion => false
  | .relSizeWrite .. => false
  | .relStatOvfClear .. => false
  | .policyDefaultWrite .. => false
  | .registerWrite .. => false
  | .registerUserQueue .. => false
  | .registerPrivilegedQueue .. => false
  | .unregisterQueue .. => false
  | .configurePartition .. => false
  | .partitionReset .. => false
  | .partitionTeardown .. => false
  | .assignAsid .. => false
  | .retireAsid .. => false
  | .retireCore .. => false
  | .restoreCore .. => false
  | .attestationReport .. => false
  | .clockStep .. => false
  | .setBarrierCounts .. => false
  | .openPutWindow .. => false
  | .closePutWindow .. => false
  | .setMod .. => false
  | .registerFreedRing .. => false
  | .invalidateTranslations .. => false
  | .answerFaultService .. => false
  | .resumeGangs .. => false
  | .killGangs .. => false
  | .illegalOp .. => false
  | .hcallReply .. => false
  | .powerRemoval => false
  | .unknownMailboxService .. => false

end Sys2Proof
end

