-- ==== Sys2Proof/Decode.lean ====
section
/-! DEFINITION. Decoding, total on any bytes, and the encoder (R29 to R38). The decoder takes a word as a number and its
fields by position; every word that R34 to R38 do not assign is refused by name.
Lean compiles no constructor with fields beyond the 245th of a type, so what builds such an instruction is marked noncomputable;
the kernel evaluates it. -/

namespace Sys2Proof

/-- Why bytes are no instruction. -/
inductive DecodeError where
  | short                     -- fewer than the bytes of a word are left
  | major (maj : Nat)         -- MAJ 0x0F or 0x3D to 0x3F, or an fn or code beyond the legal range (R34, R38)
  | function (maj fn : Nat)
  | code (maj : Nat)          -- a coded field holds an illegal value (R33, R38)
  | reserved (maj fn : Nat)   -- a field that must be 0 is not (R29, R35, R36, R38)
  | form                      -- a condition that joins fields fails (R35, R38)
  | literal                   -- lit or lit64 without its literal words (R17)
  deriving DecidableEq, Repr

/-- `len` bits of `w` from bit `lo` up. -/
def fld (w lo len : Nat) : Nat := w / 2 ^ lo % 2 ^ len

def fldS (w lo : Nat) : SReg := ⟨w / 2 ^ lo % 64, Nat.mod_lt _ (by decide)⟩
def fldV (w lo : Nat) : VReg := ⟨w / 2 ^ lo % 32, Nat.mod_lt _ (by decide)⟩
def fldK (w lo : Nat) : KReg := ⟨w / 2 ^ lo % 16, Nat.mod_lt _ (by decide)⟩
/-- A field of `k` bits as a number below `2 ^ k`. -/
def fldF (w lo k : Nat) : Fin (2 ^ k) := ⟨w / 2 ^ lo % 2 ^ k, Nat.mod_lt _ (Nat.two_pow_pos k)⟩
/-- A field of `k` bits as bits. -/
def fldI (w lo k : Nat) : BitVec k := BitVec.ofNat k (w / 2 ^ lo)
def fldB (w lo : Nat) : Bool := w / 2 ^ lo % 2 = 1

/-! ## The coded fields (R33) -/

def spaceCode : Space → Nat
  | .g => 0
  | .d => 1
  | .q => 2
  | .c => 3
  | .l => 4

def spaceOfCode : Nat → Option Space
  | 0 => some .g
  | 1 => some .d
  | 2 => some .q
  | 3 => some .c
  | 4 => some .l
  | _ => none

def sizeCode : Size → Nat
  | .b => 0
  | .bu => 1
  | .h => 2
  | .hu => 3
  | .w => 4
  | .wu => 5
  | .d => 6

def sizeOfCode : Nat → Option Size
  | 0 => some .b
  | 1 => some .bu
  | 2 => some .h
  | 3 => some .hu
  | 4 => some .w
  | 5 => some .wu
  | 6 => some .d
  | _ => none

def dimCode : Dim → Nat
  | .vl => 0
  | .m => 1
  | .n => 2
  | .k => 3

def dimOfCode : Nat → Option Dim
  | 0 => some .vl
  | 1 => some .m
  | 2 => some .n
  | 3 => some .k
  | _ => none

def boxCode : Box → Nat
  | .a => 0
  | .b => 1
  | .c => 2
  | .x => 3

def boxOfCode : Nat → Option Box
  | 0 => some .a
  | 1 => some .b
  | 2 => some .c
  | 3 => some .x
  | _ => none

def farCode : Far → Nat
  | .g => 0
  | .d => 1

def farOfCode : Nat → Option Far
  | 0 => some .g
  | 1 => some .d
  | _ => none

def fmCode : Fm → Nat
  | .bf16 => 0
  | .f16 => 1
  | .f8a => 2
  | .f8bf8a => 3
  | .f8af8b => 4
  | .f8b => 5
  | .i8 => 6
  | .bi8pw2 => 7
  | .bi8 => 8
  | .f32 => 9
  | .i4 => 10

def fmOfCode : Nat → Option Fm
  | 0 => some .bf16
  | 1 => some .f16
  | 2 => some .f8a
  | 3 => some .f8bf8a
  | 4 => some .f8af8b
  | 5 => some .f8b
  | 6 => some .i8
  | 7 => some .bi8pw2
  | 8 => some .bi8
  | 9 => some .f32
  | 10 => some .i4
  | _ => none

def atomOpCode : AtomOp → Nat
  | .add => 0
  | .min => 1
  | .max => 2
  | .minu => 3
  | .maxu => 4
  | .and => 5
  | .or => 6
  | .xor => 7
  | .xchg => 8
  | .cas => 9
  | .fadd => 10
  | .fmax => 11
  | .binc => 12

def atomOpOfCode : Nat → Option AtomOp
  | 0 => some .add
  | 1 => some .min
  | 2 => some .max
  | 3 => some .minu
  | 4 => some .maxu
  | 5 => some .and
  | 6 => some .or
  | 7 => some .xor
  | 8 => some .xchg
  | 9 => some .cas
  | 10 => some .fadd
  | 11 => some .fmax
  | 12 => some .binc
  | _ => none

def swzCode : Swz → Nat
  | .xor => 0
  | .up => 1
  | .down => 2
  | .bcast => 3

def swzOfCode : Nat → Option Swz
  | 0 => some .xor
  | 1 => some .up
  | 2 => some .down
  | 3 => some .bcast
  | _ => none

def scopeCode : Scope → Nat
  | .lane => 0
  | .core => 1
  | .quad => 2
  | .die => 3
  | .pkg => 4
  | .pod => 5

def scopeOfCode : Nat → Option Scope
  | 0 => some .lane
  | 1 => some .core
  | 2 => some .quad
  | 3 => some .die
  | 4 => some .pkg
  | 5 => some .pod
  | _ => none

def fKindCode : FKind → Nat
  | .acq => 0
  | .rel => 1
  | .ar => 2
  | .sc => 3

def fKindOfCode : Nat → Option FKind
  | 0 => some .acq
  | 1 => some .rel
  | 2 => some .ar
  | 3 => some .sc
  | _ => none

def barScopeCode : BarScope → Nat
  | .core => 1
  | .quad => 2
  | .die => 3
  | .pkg => 4

def barScopeOfCode : Nat → Option BarScope
  | 1 => some .core
  | 2 => some .quad
  | 3 => some .die
  | 4 => some .pkg
  | _ => none

def gScopeCode : GScope → Nat
  | .die => 3
  | .pkg => 4

def gScopeOfCode : Nat → Option GScope
  | 3 => some .die
  | 4 => some .pkg
  | _ => none

/-- vb and md of a vector access (R33): vb is in bits 13 to 9 and md in bits 1 and 0. -/
def vmodeCode : VMode → Nat
  | .unit => 0
  | .strided n => n.val * 2 ^ 9 + 1
  | .indexed vb => vb.val * 2 ^ 9 + 2
  | .scaled vb => vb.val * 2 ^ 9 + 3

def vmodeOfWord (w : Nat) : Option VMode :=
  match fld w 0 2 with
  | 0 => if fld w 9 5 = 0 then some .unit else none
  | 1 => if fld w 11 3 = 0 then some (.strided (fldF w 9 2)) else none
  | 2 => some (.indexed (fldV w 9))
  | _ => some (.scaled (fldV w 9))

/-- MAJ 0x00, format SR (R34). -/
def decode00 (w : Nat) : Except DecodeError Instr :=
  match fld w 0 7 with
  | 0 => .ok (.add (fldS w 19) (fldS w 13) (fldS w 7))
  | 1 => .ok (.sub (fldS w 19) (fldS w 13) (fldS w 7))
  | 2 => .ok (.and (fldS w 19) (fldS w 13) (fldS w 7))
  | 3 => .ok (.or (fldS w 19) (fldS w 13) (fldS w 7))
  | 4 => .ok (.xor (fldS w 19) (fldS w 13) (fldS w 7))
  | 5 => .ok (.andn (fldS w 19) (fldS w 13) (fldS w 7))
  | 6 => .ok (.shl (fldS w 19) (fldS w 13) (fldS w 7))
  | 7 => .ok (.shr (fldS w 19) (fldS w 13) (fldS w 7))
  | 8 => .ok (.sar (fldS w 19) (fldS w 13) (fldS w 7))
  | 9 => .ok (.rol (fldS w 19) (fldS w 13) (fldS w 7))
  | 10 => .ok (.min (fldS w 19) (fldS w 13) (fldS w 7))
  | 11 => .ok (.max (fldS w 19) (fldS w 13) (fldS w 7))
  | 12 => .ok (.minu (fldS w 19) (fldS w 13) (fldS w 7))
  | 13 => .ok (.maxu (fldS w 19) (fldS w 13) (fldS w 7))
  | 14 => .ok (.mul (fldS w 19) (fldS w 13) (fldS w 7))
  | 15 => .ok (.mulh (fldS w 19) (fldS w 13) (fldS w 7))
  | 16 => .ok (.mulhu (fldS w 19) (fldS w 13) (fldS w 7))
  | 17 => .ok (.div (fldS w 19) (fldS w 13) (fldS w 7))
  | 18 => .ok (.divu (fldS w 19) (fldS w 13) (fldS w 7))
  | 19 => .ok (.rem (fldS w 19) (fldS w 13) (fldS w 7))
  | 20 => .ok (.remu (fldS w 19) (fldS w 13) (fldS w 7))
  | 21 => .ok (.slt (fldS w 19) (fldS w 13) (fldS w 7))
  | 22 => .ok (.sltu (fldS w 19) (fldS w 13) (fldS w 7))
  | 23 => .ok (.seq (fldS w 19) (fldS w 13) (fldS w 7))
  | 24 => if fld w 7 6 = 0 then .ok (.clz (fldS w 19) (fldS w 13)) else .error (.reserved 0 24)
  | 25 => if fld w 7 6 = 0 then .ok (.ctz (fldS w 19) (fldS w 13)) else .error (.reserved 0 25)
  | 26 => if fld w 7 6 = 0 then .ok (.popc (fldS w 19) (fldS w 13)) else .error (.reserved 0 26)
  | 27 => .ok (.bfe (fldS w 19) (fldS w 13) (fldS w 7))
  | 28 => .ok (.bfi (fldS w 19) (fldS w 13) (fldS w 7))
  | n => .error (.function 0 n)

/-- MAJ 0x01, format SF (R34). -/
def decode01 (w : Nat) : Except DecodeError Instr :=
  match fld w 10 3 with
  | 0 => .ok (.addi (fldS w 19) (fldS w 13) (fldI w 0 10))
  | 1 => .ok (.andi (fldS w 19) (fldS w 13) (fldI w 0 10))
  | 2 => .ok (.ori (fldS w 19) (fldS w 13) (fldI w 0 10))
  | 3 => .ok (.xori (fldS w 19) (fldS w 13) (fldI w 0 10))
  | 4 => if fld w 6 4 = 0 then .ok (.shli (fldS w 19) (fldS w 13) (fldF w 0 6)) else .error (.reserved 1 4)
  | 5 => if fld w 6 4 = 0 then .ok (.shri (fldS w 19) (fldS w 13) (fldF w 0 6)) else .error (.reserved 1 5)
  | 6 => if fld w 6 4 = 0 then .ok (.sari (fldS w 19) (fldS w 13) (fldF w 0 6)) else .error (.reserved 1 6)
  | 7 => .ok (.slti (fldS w 19) (fldS w 13) (fldI w 0 10))
  | n => .error (.function 1 n)

/-- MAJ 0x02, format SL (R34). -/
def decode02 (w : Nat) : Except DecodeError Instr :=
  .ok (.sethi (fldS w 19) (fldI w 0 19))

/-- MAJ 0x03, format SL (R34). -/
def decode03 (w : Nat) (ls : List Word) : Except DecodeError Instr :=
  match fld w 0 19 with
  | 0 => match ls with | l0 :: _ => .ok (.lit (fldS w 19) l0) | _ => .error .literal
  | 1 => match ls with | l0 :: l1 :: _ => .ok (.lit64 (fldS w 19) (l1 ++ l0)) | _ => .error .literal
  | n => .error (.function 3 n)

/-- MAJ 0x04, format SM (R34). -/
def decode04 (w : Nat) : Except DecodeError Instr :=
  match spaceOfCode (fld w 10 3), sizeOfCode (fld w 7 3) with | some sp, some sz => .ok (.ld (fldS w 19) (fldS w 13) sp sz (fldI w 0 7)) | _, _ => .error (.code 4)

/-- MAJ 0x05, format SM (R34). -/
def decode05 (w : Nat) : Except DecodeError Instr :=
  match spaceOfCode (fld w 10 3), sizeOfCode (fld w 7 3) with | some sp, some sz => .ok (.st (fldS w 19) (fldS w 13) sp sz (fldI w 0 7)) | _, _ => .error (.code 5)

/-- MAJ 0x06, format BR (R34). -/
def decode06 (w : Nat) : Except DecodeError Instr :=
  match fld w 10 3 with
  | 0 => .ok (.beq (fldS w 19) (fldS w 13) (fldI w 0 10))
  | 1 => .ok (.bne (fldS w 19) (fldS w 13) (fldI w 0 10))
  | 2 => .ok (.blt (fldS w 19) (fldS w 13) (fldI w 0 10))
  | 3 => .ok (.bge (fldS w 19) (fldS w 13) (fldI w 0 10))
  | 4 => .ok (.bltu (fldS w 19) (fldS w 13) (fldI w 0 10))
  | 5 => .ok (.bgeu (fldS w 19) (fldS w 13) (fldI w 0 10))
  | n => .error (.function 6 n)

/-- MAJ 0x07, format BL (R34). -/
def decode07 (w : Nat) : Except DecodeError Instr :=
  if fld w 19 6 = 0 then .ok (.jmp (fldI w 0 19)) else .ok (.call (fldS w 19) (fldI w 0 19))

/-- MAJ 0x08, format SR (R34). -/
def decode08 (w : Nat) : Except DecodeError Instr :=
  match fld w 0 7 with
  | 0 => if fld w 7 6 = 0 ∧ fld w 19 6 = 0 then .ok (.jr (fldS w 13)) else .error (.reserved 8 0)
  | 1 => if fld w 7 6 = 0 then .ok (.callr (fldS w 19) (fldS w 13)) else .error (.reserved 8 1)
  | 2 => .ok (.csel (fldS w 19) (fldS w 13) (fldS w 7))
  | n => .error (.function 8 n)

/-- MAJ 0x09, format ST (R34). -/
def decode09 (w : Nat) : Except DecodeError Instr :=
  match dimOfCode (fld w 8 2) with | some dm => .ok (.strip (fldS w 19) (fldS w 13) (fldF w 10 3) dm (fldI w 0 8)) | _ => .error (.code 9)

/-- MAJ 0x0a, format XS (R34). -/
def decode0A (w : Nat) : Except DecodeError Instr :=
  match fld w 10 3 with
  | 0 => if fld w 13 6 = 0 then .ok (.mfsr (fldS w 19) (fldI w 0 10)) else .error (.reserved 10 0)
  | 1 => if fld w 19 6 = 0 then .ok (.mtsr (fldS w 13) (fldI w 0 10)) else .error (.reserved 10 1)
  | 2 => .ok (.setvl (fldS w 19) (fldS w 13) (fldI w 0 10))
  | n => .error (.function 10 n)

/-- MAJ 0x0b, format XS (R34). -/
def decode0B (w : Nat) : Except DecodeError Instr :=
  match fld w 10 3 with
  | 0 => if fld w 13 12 = 0 then .ok (.trap (fldI w 0 10)) else .error (.reserved 11 0)
  | 1 => .ok (.hcall (fldS w 19) (fldS w 13) (fldI w 0 10))
  | 2 => if fld w 0 10 = 0 ∧ fld w 19 6 = 0 then .ok (.exit (fldS w 13)) else .error (.reserved 11 2)
  | 3 => if fld w 0 10 = 0 ∧ fld w 13 12 = 0 then .ok (.yield) else .error (.reserved 11 3)
  | 4 => if fld w 19 6 = 0 then .ok (.sleep (fldS w 13) (fldI w 0 10)) else .error (.reserved 11 4)
  | n => .error (.function 11 n)

/-- MAJ 0x0c, format SR (R34). -/
def decode0C (w : Nat) : Except DecodeError Instr :=
  match fld w 0 7 with
  | 0 => .ok (.fadd (fldS w 19) (fldS w 13) (fldS w 7))
  | 1 => .ok (.fsub (fldS w 19) (fldS w 13) (fldS w 7))
  | 2 => .ok (.fmul (fldS w 19) (fldS w 13) (fldS w 7))
  | 3 => .ok (.fdiv (fldS w 19) (fldS w 13) (fldS w 7))
  | 4 => if fld w 7 6 = 0 then .ok (.fsqrt (fldS w 19) (fldS w 13)) else .error (.reserved 12 4)
  | 5 => .ok (.fmin (fldS w 19) (fldS w 13) (fldS w 7))
  | 6 => .ok (.fmax (fldS w 19) (fldS w 13) (fldS w 7))
  | 7 => .ok (.flt (fldS w 19) (fldS w 13) (fldS w 7))
  | 8 => .ok (.feq (fldS w 19) (fldS w 13) (fldS w 7))
  | 9 => .ok (.fle (fldS w 19) (fldS w 13) (fldS w 7))
  | 10 => if fld w 7 6 = 0 then .ok (.fcvtF32Si (fldS w 19) (fldS w 13)) else .error (.reserved 12 10)
  | 11 => if fld w 7 6 = 0 then .ok (.fcvtSiF32 (fldS w 19) (fldS w 13)) else .error (.reserved 12 11)
  | n => .error (.function 12 n)

/-- MAJ 0x0d, format KB (R34). -/
def decode0D (w : Nat) : Except DecodeError Instr :=
  match fld w 18 2 with
  | 0 => .ok (.vbr (fldK w 21) (fldB w 20) (fldI w 0 18))
  | 1 => .ok (.vcall (fldK w 21) (fldB w 20) (fldI w 0 18))
  | n => .error (.function 13 n)

/-- MAJ 0x0e, format VR (R34). -/
def decode0E (w : Nat) : Except DecodeError Instr :=
  match fld w 0 4 with
  | 0 => if fld w 4 11 = 0 ∧ fld w 20 5 = 0 then .ok (.vjr (fldV w 15)) else .error (.reserved 14 0)
  | 1 => if fld w 4 11 = 0 then .ok (.vcallr (fldV w 20) (fldV w 15)) else .error (.reserved 14 1)
  | n => .error (.function 14 n)

/-- MAJ 0x10, format VR (R34). -/
def decode10 (w : Nat) : Except DecodeError Instr :=
  match fld w 0 4 with
  | 0 => .ok (.vadd (fldV w 20) (fldV w 15) (fldV w 10) (fldK w 6) (fldB w 5) (fldB w 4))
  | 1 => .ok (.vsub (fldV w 20) (fldV w 15) (fldV w 10) (fldK w 6) (fldB w 5) (fldB w 4))
  | 2 => .ok (.vmul (fldV w 20) (fldV w 15) (fldV w 10) (fldK w 6) (fldB w 5) (fldB w 4))
  | 3 => .ok (.vmulh (fldV w 20) (fldV w 15) (fldV w 10) (fldK w 6) (fldB w 5) (fldB w 4))
  | 4 => .ok (.vmulhu (fldV w 20) (fldV w 15) (fldV w 10) (fldK w 6) (fldB w 5) (fldB w 4))
  | 5 => .ok (.vmin (fldV w 20) (fldV w 15) (fldV w 10) (fldK w 6) (fldB w 5) (fldB w 4))
  | 6 => .ok (.vmax (fldV w 20) (fldV w 15) (fldV w 10) (fldK w 6) (fldB w 5) (fldB w 4))
  | 7 => .ok (.vminu (fldV w 20) (fldV w 15) (fldV w 10) (fldK w 6) (fldB w 5) (fldB w 4))
  | 8 => .ok (.vmaxu (fldV w 20) (fldV w 15) (fldV w 10) (fldK w 6) (fldB w 5) (fldB w 4))
  | 9 => .ok (.vand (fldV w 20) (fldV w 15) (fldV w 10) (fldK w 6) (fldB w 5) (fldB w 4))
  | 10 => .ok (.vor (fldV w 20) (fldV w 15) (fldV w 10) (fldK w 6) (fldB w 5) (fldB w 4))
  | 11 => .ok (.vxor (fldV w 20) (fldV w 15) (fldV w 10) (fldK w 6) (fldB w 5) (fldB w 4))
  | 12 => .ok (.vandn (fldV w 20) (fldV w 15) (fldV w 10) (fldK w 6) (fldB w 5) (fldB w 4))
  | 13 => .ok (.vshl (fldV w 20) (fldV w 15) (fldV w 10) (fldK w 6) (fldB w 5) (fldB w 4))
  | 14 => .ok (.vshr (fldV w 20) (fldV w 15) (fldV w 10) (fldK w 6) (fldB w 5) (fldB w 4))
  | 15 => .ok (.vsar (fldV w 20) (fldV w 15) (fldV w 10) (fldK w 6) (fldB w 5) (fldB w 4))
  | n => .error (.function 16 n)

/-- MAJ 0x11, format VS (R34). -/
def decode11 (w : Nat) : Except DecodeError Instr :=
  match fld w 0 4 with
  | 0 => .ok (.vaddVs (fldV w 20) (fldV w 15) (fldS w 9) (fldK w 5) (fldB w 4))
  | 1 => .ok (.vsubVs (fldV w 20) (fldV w 15) (fldS w 9) (fldK w 5) (fldB w 4))
  | 2 => .ok (.vmulVs (fldV w 20) (fldV w 15) (fldS w 9) (fldK w 5) (fldB w 4))
  | 3 => .ok (.vmulhVs (fldV w 20) (fldV w 15) (fldS w 9) (fldK w 5) (fldB w 4))
  | 4 => .ok (.vmulhuVs (fldV w 20) (fldV w 15) (fldS w 9) (fldK w 5) (fldB w 4))
  | 5 => .ok (.vminVs (fldV w 20) (fldV w 15) (fldS w 9) (fldK w 5) (fldB w 4))
  | 6 => .ok (.vmaxVs (fldV w 20) (fldV w 15) (fldS w 9) (fldK w 5) (fldB w 4))
  | 7 => .ok (.vminuVs (fldV w 20) (fldV w 15) (fldS w 9) (fldK w 5) (fldB w 4))
  | 8 => .ok (.vmaxuVs (fldV w 20) (fldV w 15) (fldS w 9) (fldK w 5) (fldB w 4))
  | 9 => .ok (.vandVs (fldV w 20) (fldV w 15) (fldS w 9) (fldK w 5) (fldB w 4))
  | 10 => .ok (.vorVs (fldV w 20) (fldV w 15) (fldS w 9) (fldK w 5) (fldB w 4))
  | 11 => .ok (.vxorVs (fldV w 20) (fldV w 15) (fldS w 9) (fldK w 5) (fldB w 4))
  | 12 => .ok (.vandnVs (fldV w 20) (fldV w 15) (fldS w 9) (fldK w 5) (fldB w 4))
  | 13 => .ok (.vshlVs (fldV w 20) (fldV w 15) (fldS w 9) (fldK w 5) (fldB w 4))
  | 14 => .ok (.vshrVs (fldV w 20) (fldV w 15) (fldS w 9) (fldK w 5) (fldB w 4))
  | 15 => .ok (.vsarVs (fldV w 20) (fldV w 15) (fldS w 9) (fldK w 5) (fldB w 4))
  | n => .error (.function 17 n)

/-- MAJ 0x12, format VI (R34). -/
def decode12 (w : Nat) : Except DecodeError Instr :=
  match fld w 0 1 with
  | 0 => .ok (.vaddi (fldV w 20) (fldV w 15) (fldI w 6 9) (fldK w 2) (fldB w 1))
  | 1 => .ok (.vrsubi (fldV w 20) (fldV w 15) (fldI w 6 9) (fldK w 2) (fldB w 1))
  | n => .error (.function 18 n)

/-- MAJ 0x13, format VI (R34). -/
def decode13 (w : Nat) : Except DecodeError Instr :=
  match fld w 0 1 with
  | 0 => if fld w 11 4 = 0 then .ok (.vshli (fldV w 20) (fldV w 15) (fldF w 6 5) (fldK w 2) (fldB w 1)) else .error (.reserved 19 0)
  | 1 => if fld w 11 4 = 0 then .ok (.vshri (fldV w 20) (fldV w 15) (fldF w 6 5) (fldK w 2) (fldB w 1)) else .error (.reserved 19 1)
  | n => .error (.function 19 n)

/-- MAJ 0x14, format VI (R34). -/
def decode14 (w : Nat) : Except DecodeError Instr :=
  match fld w 0 1 with
  | 0 => if fld w 11 4 = 0 then .ok (.vsari (fldV w 20) (fldV w 15) (fldF w 6 5) (fldK w 2) (fldB w 1)) else .error (.reserved 20 0)
  | 1 => .ok (.vandi (fldV w 20) (fldV w 15) (fldI w 6 9) (fldK w 2) (fldB w 1))
  | n => .error (.function 20 n)

/-- MAJ 0x15, format VR (R34). -/
def decode15 (w : Nat) : Except DecodeError Instr :=
  match fld w 0 4 with
  | 0 => .ok (.vfadd (fldV w 20) (fldV w 15) (fldV w 10) (fldK w 6) (fldB w 5) (fldB w 4))
  | 1 => .ok (.vfsub (fldV w 20) (fldV w 15) (fldV w 10) (fldK w 6) (fldB w 5) (fldB w 4))
  | 2 => .ok (.vfmul (fldV w 20) (fldV w 15) (fldV w 10) (fldK w 6) (fldB w 5) (fldB w 4))
  | 3 => .ok (.vfdiv (fldV w 20) (fldV w 15) (fldV w 10) (fldK w 6) (fldB w 5) (fldB w 4))
  | 4 => if fld w 4 1 = 0 ∧ fld w 10 5 = 0 then .ok (.vfsqrt (fldV w 20) (fldV w 15) (fldK w 6) (fldB w 5)) else .error (.reserved 21 4)
  | 5 => .ok (.vfmin (fldV w 20) (fldV w 15) (fldV w 10) (fldK w 6) (fldB w 5) (fldB w 4))
  | 6 => .ok (.vfmax (fldV w 20) (fldV w 15) (fldV w 10) (fldK w 6) (fldB w 5) (fldB w 4))
  | 7 => if fld w 4 1 = 0 ∧ fld w 10 5 = 0 then .ok (.vfabs (fldV w 20) (fldV w 15) (fldK w 6) (fldB w 5)) else .error (.reserved 21 7)
  | 8 => if fld w 4 1 = 0 ∧ fld w 10 5 = 0 then .ok (.vfneg (fldV w 20) (fldV w 15) (fldK w 6) (fldB w 5)) else .error (.reserved 21 8)
  | 9 => .ok (.vfcopysign (fldV w 20) (fldV w 15) (fldV w 10) (fldK w 6) (fldB w 5) (fldB w 4))
  | 10 => if fld w 4 1 = 0 ∧ fld w 10 5 = 0 then .ok (.vfrint (fldV w 20) (fldV w 15) (fldK w 6) (fldB w 5)) else .error (.reserved 21 10)
  | 11 => if fld w 4 1 = 0 ∧ fld w 10 5 = 0 then .ok (.vffloor (fldV w 20) (fldV w 15) (fldK w 6) (fldB w 5)) else .error (.reserved 21 11)
  | 12 => if fld w 4 1 = 0 ∧ fld w 10 5 = 0 then .ok (.vfceil (fldV w 20) (fldV w 15) (fldK w 6) (fldB w 5)) else .error (.reserved 21 12)
  | 13 => if fld w 4 1 = 0 ∧ fld w 10 5 = 0 then .ok (.vftrunc (fldV w 20) (fldV w 15) (fldK w 6) (fldB w 5)) else .error (.reserved 21 13)
  | 14 => if fld w 4 1 = 0 ∧ fld w 10 5 = 0 then .ok (.vffract (fldV w 20) (fldV w 15) (fldK w 6) (fldB w 5)) else .error (.reserved 21 14)
  | n => .error (.function 21 n)

/-- MAJ 0x16, format VS (R34). -/
def decode16 (w : Nat) : Except DecodeError Instr :=
  match fld w 0 4 with
  | 0 => .ok (.vfaddVs (fldV w 20) (fldV w 15) (fldS w 9) (fldK w 5) (fldB w 4))
  | 1 => .ok (.vfsubVs (fldV w 20) (fldV w 15) (fldS w 9) (fldK w 5) (fldB w 4))
  | 2 => .ok (.vfmulVs (fldV w 20) (fldV w 15) (fldS w 9) (fldK w 5) (fldB w 4))
  | 3 => .ok (.vfminVs (fldV w 20) (fldV w 15) (fldS w 9) (fldK w 5) (fldB w 4))
  | 4 => .ok (.vfmaxVs (fldV w 20) (fldV w 15) (fldS w 9) (fldK w 5) (fldB w 4))
  | n => .error (.function 22 n)

/-- MAJ 0x17, format VF (R34). -/
def decode17 (w : Nat) : Except DecodeError Instr :=
  match fld w 0 1 with
  | 0 => .ok (.vfma (fldV w 20) (fldV w 15) (fldV w 10) (fldV w 5) (fldF w 2 3) (fldB w 1))
  | 1 => .ok (.vfnma (fldV w 20) (fldV w 15) (fldV w 10) (fldV w 5) (fldF w 2 3) (fldB w 1))
  | n => .error (.function 23 n)

/-- MAJ 0x18, format VR (R34). -/
def decode18 (w : Nat) : Except DecodeError Instr :=
  match fld w 0 4 with
  | 0 => if fld w 4 1 = 0 ∧ fld w 10 5 = 0 then .ok (.cvtF32Si (fldV w 20) (fldV w 15) (fldK w 6) (fldB w 5)) else .error (.reserved 24 0)
  | 1 => if fld w 4 1 = 0 ∧ fld w 10 5 = 0 then .ok (.cvtSiF32 (fldV w 20) (fldV w 15) (fldK w 6) (fldB w 5)) else .error (.reserved 24 1)
  | 2 => if fld w 4 1 = 0 ∧ fld w 10 5 = 0 then .ok (.cvtF32Ui (fldV w 20) (fldV w 15) (fldK w 6) (fldB w 5)) else .error (.reserved 24 2)
  | 3 => if fld w 4 1 = 0 ∧ fld w 10 5 = 0 then .ok (.cvtUiF32 (fldV w 20) (fldV w 15) (fldK w 6) (fldB w 5)) else .error (.reserved 24 3)
  | 4 => .ok (.pkBf16 (fldV w 20) (fldV w 15) (fldV w 10) (fldK w 6) (fldB w 5) (fldB w 4))
  | 5 => if fld w 4 1 = 0 ∧ fld w 10 5 = 0 then .ok (.upBf16Lo (fldV w 20) (fldV w 15) (fldK w 6) (fldB w 5)) else .error (.reserved 24 5)
  | 6 => if fld w 4 1 = 0 ∧ fld w 10 5 = 0 then .ok (.upBf16Hi (fldV w 20) (fldV w 15) (fldK w 6) (fldB w 5)) else .error (.reserved 24 6)
  | 7 => .ok (.pkF16 (fldV w 20) (fldV w 15) (fldV w 10) (fldK w 6) (fldB w 5) (fldB w 4))
  | 8 => if fld w 4 1 = 0 ∧ fld w 10 5 = 0 then .ok (.upF16Lo (fldV w 20) (fldV w 15) (fldK w 6) (fldB w 5)) else .error (.reserved 24 8)
  | 9 => if fld w 4 1 = 0 ∧ fld w 10 5 = 0 then .ok (.upF16Hi (fldV w 20) (fldV w 15) (fldK w 6) (fldB w 5)) else .error (.reserved 24 9)
  | 10 => .ok (.pkF8a (fldV w 20) (fldV w 15) (fldV w 10) (fldK w 6) (fldB w 5) (fldB w 4))
  | 11 => .ok (.pkF8b (fldV w 20) (fldV w 15) (fldV w 10) (fldK w 6) (fldB w 5) (fldB w 4))
  | 12 => .ok (.upF8a (fldV w 20) (fldV w 15) (fldV w 10) (fldK w 6) (fldB w 5) (fldB w 4))
  | 13 => .ok (.upF8b (fldV w 20) (fldV w 15) (fldV w 10) (fldK w 6) (fldB w 5) (fldB w 4))
  | 14 => .ok (.pkI8 (fldV w 20) (fldV w 15) (fldV w 10) (fldK w 6) (fldB w 5) (fldB w 4))
  | 15 => .ok (.upI8 (fldV w 20) (fldV w 15) (fldV w 10) (fldK w 6) (fldB w 5) (fldB w 4))
  | n => .error (.function 24 n)

/-- MAJ 0x19, format VR (R34). -/
def decode19 (w : Nat) : Except DecodeError Instr :=
  match fld w 0 4 with
  | 0 => if fld w 4 1 = 0 ∧ fld w 10 5 = 0 then .ok (.vsin (fldV w 20) (fldV w 15) (fldK w 6) (fldB w 5)) else .error (.reserved 25 0)
  | 1 => if fld w 4 1 = 0 ∧ fld w 10 5 = 0 then .ok (.vcos (fldV w 20) (fldV w 15) (fldK w 6) (fldB w 5)) else .error (.reserved 25 1)
  | 2 => if fld w 4 1 = 0 ∧ fld w 10 5 = 0 then .ok (.vsinpi (fldV w 20) (fldV w 15) (fldK w 6) (fldB w 5)) else .error (.reserved 25 2)
  | 3 => if fld w 4 1 = 0 ∧ fld w 10 5 = 0 then .ok (.vcospi (fldV w 20) (fldV w 15) (fldK w 6) (fldB w 5)) else .error (.reserved 25 3)
  | 4 => if fld w 4 1 = 0 ∧ fld w 10 5 = 0 then .ok (.vexp2 (fldV w 20) (fldV w 15) (fldK w 6) (fldB w 5)) else .error (.reserved 25 4)
  | 5 => if fld w 4 1 = 0 ∧ fld w 10 5 = 0 then .ok (.vlog2 (fldV w 20) (fldV w 15) (fldK w 6) (fldB w 5)) else .error (.reserved 25 5)
  | 6 => if fld w 4 1 = 0 ∧ fld w 10 5 = 0 then .ok (.vrcp (fldV w 20) (fldV w 15) (fldK w 6) (fldB w 5)) else .error (.reserved 25 6)
  | 7 => if fld w 4 1 = 0 ∧ fld w 10 5 = 0 then .ok (.vrsqrt (fldV w 20) (fldV w 15) (fldK w 6) (fldB w 5)) else .error (.reserved 25 7)
  | 8 => if fld w 4 1 = 0 ∧ fld w 10 5 = 0 then .ok (.vtanh (fldV w 20) (fldV w 15) (fldK w 6) (fldB w 5)) else .error (.reserved 25 8)
  | 9 => if fld w 4 1 = 0 ∧ fld w 10 5 = 0 then .ok (.vsigm (fldV w 20) (fldV w 15) (fldK w 6) (fldB w 5)) else .error (.reserved 25 9)
  | n => .error (.function 25 n)

/-- MAJ 0x1a, format VC (R34). -/
def decode1A (w : Nat) : Except DecodeError Instr :=
  match fld w 0 5 with
  | 0 => .ok (.vcmpEq (fldK w 21) (fldV w 16) (fldV w 11) (fldK w 7) (fldB w 6) (fldB w 5))
  | 1 => .ok (.vcmpNe (fldK w 21) (fldV w 16) (fldV w 11) (fldK w 7) (fldB w 6) (fldB w 5))
  | 2 => .ok (.vcmpLt (fldK w 21) (fldV w 16) (fldV w 11) (fldK w 7) (fldB w 6) (fldB w 5))
  | 3 => .ok (.vcmpGe (fldK w 21) (fldV w 16) (fldV w 11) (fldK w 7) (fldB w 6) (fldB w 5))
  | 4 => .ok (.vcmpLtu (fldK w 21) (fldV w 16) (fldV w 11) (fldK w 7) (fldB w 6) (fldB w 5))
  | 5 => .ok (.vcmpGeu (fldK w 21) (fldV w 16) (fldV w 11) (fldK w 7) (fldB w 6) (fldB w 5))
  | n => .error (.function 26 n)

/-- MAJ 0x1b, format VC (R34). -/
def decode1B (w : Nat) : Except DecodeError Instr :=
  match fld w 0 5 with
  | 0 => .ok (.vfcmpEq (fldK w 21) (fldV w 16) (fldV w 11) (fldK w 7) (fldB w 6) (fldB w 5))
  | 1 => .ok (.vfcmpNe (fldK w 21) (fldV w 16) (fldV w 11) (fldK w 7) (fldB w 6) (fldB w 5))
  | 2 => .ok (.vfcmpLt (fldK w 21) (fldV w 16) (fldV w 11) (fldK w 7) (fldB w 6) (fldB w 5))
  | 3 => .ok (.vfcmpLe (fldK w 21) (fldV w 16) (fldV w 11) (fldK w 7) (fldB w 6) (fldB w 5))
  | 4 => .ok (.vfcmpGt (fldK w 21) (fldV w 16) (fldV w 11) (fldK w 7) (fldB w 6) (fldB w 5))
  | 5 => .ok (.vfcmpGe (fldK w 21) (fldV w 16) (fldV w 11) (fldK w 7) (fldB w 6) (fldB w 5))
  | 6 => .ok (.vfcmpUn (fldK w 21) (fldV w 16) (fldV w 11) (fldK w 7) (fldB w 6) (fldB w 5))
  | 7 => .ok (.vfcmpOrd (fldK w 21) (fldV w 16) (fldV w 11) (fldK w 7) (fldB w 6) (fldB w 5))
  | n => .error (.function 27 n)

/-- MAJ 0x1c, format KL (R34). -/
def decode1C (w : Nat) : Except DecodeError Instr :=
  match fld w 9 4 with
  | 0 => if fld w 0 9 = 0 then .ok (.kand (fldK w 21) (fldK w 17) (fldK w 13)) else .error (.reserved 28 0)
  | 1 => if fld w 0 9 = 0 then .ok (.kor (fldK w 21) (fldK w 17) (fldK w 13)) else .error (.reserved 28 1)
  | 2 => if fld w 0 9 = 0 then .ok (.kxor (fldK w 21) (fldK w 17) (fldK w 13)) else .error (.reserved 28 2)
  | 3 => if fld w 0 9 = 0 then .ok (.kandn (fldK w 21) (fldK w 17) (fldK w 13)) else .error (.reserved 28 3)
  | 4 => if fld w 0 9 = 0 ∧ fld w 13 4 = 0 then .ok (.knot (fldK w 21) (fldK w 17)) else .error (.reserved 28 4)
  | 5 => if fld w 0 9 = 0 ∧ fld w 13 4 = 0 then .ok (.kmov (fldK w 21) (fldK w 17)) else .error (.reserved 28 5)
  | 6 => if fld w 0 9 = 0 ∧ fld w 13 8 = 0 then .ok (.kall (fldK w 21)) else .error (.reserved 28 6)
  | 7 => if fld w 0 9 = 0 ∧ fld w 13 8 = 0 then .ok (.knone (fldK w 21)) else .error (.reserved 28 7)
  | n => .error (.function 28 n)

/-- MAJ 0x1d, format VR (R34). -/
def decode1D (w : Nat) : Except DecodeError Instr :=
  match fld w 0 4 with
  | 0 => .ok (.vsel (fldV w 20) (fldV w 15) (fldV w 10) (fldK w 6) (fldB w 5) (fldB w 4))
  | 1 => if fld w 4 1 = 0 ∧ fld w 10 5 = 0 then .ok (.vmov (fldV w 20) (fldV w 15) (fldK w 6) (fldB w 5)) else .error (.reserved 29 1)
  | 2 => if fld w 4 2 = 0 ∧ fld w 10 10 = 0 then .ok (.viota (fldV w 20) (fldK w 6)) else .error (.reserved 29 2)
  | n => .error (.function 29 n)

/-- MAJ 0x1e, format VS (R34). -/
def decode1E (w : Nat) : Except DecodeError Instr :=
  match fld w 0 4 with
  | 0 => if fld w 4 1 = 0 ∧ fld w 15 5 = 0 then .ok (.vbcast (fldV w 20) (fldS w 9) (fldK w 5)) else .error (.reserved 30 0)
  | 1 => if fld w 5 4 = 0 then .ok (.vextr (fldF w 20 5) (fldV w 15) (fldS w 9) (fldB w 4)) else .error (.reserved 30 1)
  | 2 => if fld w 4 11 = 0 ∧ fld w 19 1 = 0 then .ok (.kcnt (fldF w 20 5) (fldK w 15)) else .error (.reserved 30 2)
  | 3 => if fld w 4 11 = 0 ∧ fld w 19 1 = 0 then .ok (.kfst (fldF w 20 5) (fldK w 15)) else .error (.reserved 30 3)
  | n => .error (.function 30 n)

/-- MAJ 0x1f, format VR (R34). -/
def decode1F (w : Nat) : Except DecodeError Instr :=
  match fld w 0 4 with
  | 0 => .ok (.vperm (fldV w 20) (fldV w 15) (fldV w 10) (fldK w 6) (fldB w 5) (fldB w 4))
  | 1 => if fld w 4 1 = 0 ∧ fld w 10 5 = 0 then .ok (.vcompress (fldV w 20) (fldV w 15) (fldK w 6) (fldB w 5)) else .error (.reserved 31 1)
  | 2 => if fld w 4 1 = 0 ∧ fld w 10 5 = 0 then .ok (.vexpand (fldV w 20) (fldV w 15) (fldK w 6) (fldB w 5)) else .error (.reserved 31 2)
  | n => .error (.function 31 n)

/-- MAJ 0x20, format VR (R34). -/
def decode20 (w : Nat) : Except DecodeError Instr :=
  match fld w 0 4 with
  | 0 => if fld w 4 1 = 0 ∧ fld w 10 5 = 0 then .ok (.vraddI (fldF w 20 5) (fldV w 15) (fldK w 6) (fldB w 5)) else .error (.reserved 32 0)
  | 1 => if fld w 4 1 = 0 ∧ fld w 10 5 = 0 then .ok (.vrmaxI (fldF w 20 5) (fldV w 15) (fldK w 6) (fldB w 5)) else .error (.reserved 32 1)
  | 2 => if fld w 4 1 = 0 ∧ fld w 10 5 = 0 then .ok (.vrminI (fldF w 20 5) (fldV w 15) (fldK w 6) (fldB w 5)) else .error (.reserved 32 2)
  | 3 => if fld w 4 1 = 0 ∧ fld w 10 5 = 0 then .ok (.vraddF (fldF w 20 5) (fldV w 15) (fldK w 6) (fldB w 5)) else .error (.reserved 32 3)
  | 4 => if fld w 4 1 = 0 ∧ fld w 10 5 = 0 then .ok (.vrmaxF (fldF w 20 5) (fldV w 15) (fldK w 6) (fldB w 5)) else .error (.reserved 32 4)
  | 5 => if fld w 4 1 = 0 ∧ fld w 10 5 = 0 then .ok (.vrminF (fldF w 20 5) (fldV w 15) (fldK w 6) (fldB w 5)) else .error (.reserved 32 5)
  | 6 => if fld w 4 1 = 0 ∧ fld w 10 5 = 0 then .ok (.vrand (fldF w 20 5) (fldV w 15) (fldK w 6) (fldB w 5)) else .error (.reserved 32 6)
  | 7 => if fld w 4 1 = 0 ∧ fld w 10 5 = 0 then .ok (.vror (fldF w 20 5) (fldV w 15) (fldK w 6) (fldB w 5)) else .error (.reserved 32 7)
  | n => .error (.function 32 n)

/-- MAJ 0x21, format VR (R34). -/
def decode21 (w : Nat) : Except DecodeError Instr :=
  match fld w 0 4 with
  | 0 => if fld w 4 1 = 0 ∧ fld w 10 5 = 0 then .ok (.vscanAddI (fldV w 20) (fldV w 15) (fldK w 6) (fldB w 5)) else .error (.reserved 33 0)
  | 1 => if fld w 4 1 = 0 ∧ fld w 10 5 = 0 then .ok (.vscanAddF (fldV w 20) (fldV w 15) (fldK w 6) (fldB w 5)) else .error (.reserved 33 1)
  | 2 => if fld w 4 1 = 0 ∧ fld w 10 5 = 0 then .ok (.vscanMaxF (fldV w 20) (fldV w 15) (fldK w 6) (fldB w 5)) else .error (.reserved 33 2)
  | n => .error (.function 33 n)

/-- MAJ 0x22, format VI (R34). -/
def decode22 (w : Nat) : Except DecodeError Instr :=
  match fld w 0 1 with
  | 0 => match swzOfCode (fld w 13 2) with | some md => .ok (.vswz (fldV w 20) (fldV w 15) md (fldI w 6 7) (fldK w 2) (fldB w 1)) | _ => .error (.code 34)
  | 1 => match swzOfCode (fld w 13 2) with | some md => .ok (.vswzg (fldV w 20) (fldV w 15) md (fldI w 6 7) (fldK w 2) (fldB w 1)) | _ => .error (.code 34)
  | n => .error (.function 34 n)

/-- MAJ 0x23, format VM (R34). -/
def decode23 (w : Nat) : Except DecodeError Instr :=
  match spaceOfCode (fld w 6 3), vmodeOfWord w with | some sp, some md => .ok (.vldW (fldV w 20) (fldS w 14) sp (fldK w 2) md) | _, _ => .error (.code 35)

/-- MAJ 0x24, format VM (R34). -/
def decode24 (w : Nat) : Except DecodeError Instr :=
  match spaceOfCode (fld w 6 3), vmodeOfWord w with | some sp, some md => .ok (.vldH (fldV w 20) (fldS w 14) sp (fldK w 2) md) | _, _ => .error (.code 36)

/-- MAJ 0x25, format VM (R34). -/
def decode25 (w : Nat) : Except DecodeError Instr :=
  match spaceOfCode (fld w 6 3), vmodeOfWord w with | some sp, some md => .ok (.vldB (fldV w 20) (fldS w 14) sp (fldK w 2) md) | _, _ => .error (.code 37)

/-- MAJ 0x26, format VM (R34). -/
def decode26 (w : Nat) : Except DecodeError Instr :=
  match spaceOfCode (fld w 6 3), vmodeOfWord w with | some sp, some md => .ok (.vstW (fldV w 20) (fldS w 14) sp (fldK w 2) md) | _, _ => .error (.code 38)

/-- MAJ 0x27, format VM (R34). -/
def decode27 (w : Nat) : Except DecodeError Instr :=
  match spaceOfCode (fld w 6 3), vmodeOfWord w with | some sp, some md => .ok (.vstH (fldV w 20) (fldS w 14) sp (fldK w 2) md) | _, _ => .error (.code 39)

/-- MAJ 0x28, format VM (R34). -/
def decode28 (w : Nat) : Except DecodeError Instr :=
  match spaceOfCode (fld w 6 3), vmodeOfWord w with | some sp, some md => .ok (.vstB (fldV w 20) (fldS w 14) sp (fldK w 2) md) | _, _ => .error (.code 40)

/-- MAJ 0x29, format AT (R34). -/
def decode29 (w : Nat) : Except DecodeError Instr :=
  match atomOpOfCode (fld w 0 4) with | some op => .ok (.vatomG (fldV w 20) (fldS w 4) (fldV w 15) (fldV w 10) op) | _ => .error (.code 41)

/-- MAJ 0x2a, format AT (R34). -/
def decode2A (w : Nat) : Except DecodeError Instr :=
  match atomOpOfCode (fld w 0 4) with | some op => .ok (.vatomD (fldV w 20) (fldS w 4) (fldV w 15) (fldV w 10) op) | _ => .error (.code 42)

/-- MAJ 0x2b, format AT (R34). -/
def decode2B (w : Nat) : Except DecodeError Instr :=
  match atomOpOfCode (fld w 0 4) with | some op => .ok (.vatomQ (fldV w 20) (fldS w 4) (fldV w 15) (fldV w 10) op) | _ => .error (.code 43)

/-- MAJ 0x2c, format TQ (R34). -/
def decode2C (w : Nat) : Except DecodeError Instr :=
  match fld w 0 2 with
  | 0 => match fmOfCode (fld w 2 5) with | some fm => .ok (.tset (fldS w 19) (fldS w 13) (fldS w 7) fm) | _ => .error (.code 44)
  | 1 => match fmOfCode (fld w 2 5) with | some fm => .ok (.tquery (fldS w 19) (fldS w 13) (fldS w 7) fm) | _ => .error (.code 44)
  | n => .error (.function 44 n)

/-- MAJ 0x2d, format TM (R34). -/
def decode2D (w : Nat) : Except DecodeError Instr :=
  match fld w 0 2 with
  | 0 => if fld w 17 6 = 0 then .ok (.tzero (fldF w 23 2) (fldF w 12 5) (fldF w 7 5) (fldF w 2 5)) else .error (.reserved 45 0)
  | 1 => if fld w 23 2 = 0 then .ok (.tldw (fldS w 17) (fldF w 12 5) (fldF w 7 5) (fldF w 2 5)) else .error (.reserved 45 1)
  | 2 => .ok (.tmma (fldF w 23 2) (fldS w 17) (fldF w 12 5) (fldF w 7 5) (fldF w 2 5))
  | 3 => .ok (.tst (fldF w 23 2) (fldS w 17) (fldF w 12 5) (fldF w 7 5) (fldF w 2 5))
  | n => .error (.function 45 n)

/-- MAJ 0x2e, format TM (R34). -/
def decode2E (w : Nat) : Except DecodeError Instr :=
  match fld w 0 2 with
  | 0 => .ok (.tadd (fldF w 23 2) (fldS w 17) (fldF w 12 5) (fldF w 7 5) (fldF w 2 5))
  | 1 => .ok (.tsave (fldF w 23 2) (fldS w 17) (fldF w 12 5) (fldF w 7 5) (fldF w 2 5))
  | 2 => .ok (.trest (fldF w 23 2) (fldS w 17) (fldF w 12 5) (fldF w 7 5) (fldF w 2 5))
  | 3 => .ok (.tstb (fldF w 23 2) (fldS w 17) (fldF w 12 5) (fldF w 7 5) (fldF w 2 5))
  | n => .error (.function 46 n)

/-- MAJ 0x2f, format TG (R34). -/
def decode2F (w : Nat) : Except DecodeError Instr :=
  match fld w 0 2 with
  | 0 => if fld w 2 5 = 0 then .ok (.tvget (fldV w 20) (fldF w 18 2) (fldS w 12) (fldF w 7 5)) else .error (.reserved 47 0)
  | 1 => if fld w 2 5 = 0 then .ok (.tvset (fldV w 20) (fldF w 18 2) (fldS w 12) (fldF w 7 5)) else .error (.reserved 47 1)
  | 2 => if fld w 2 5 = 0 ∧ fld w 12 13 = 0 then .ok (.twait (fldF w 7 5)) else .error (.reserved 47 2)
  | 3 => if fld w 2 5 = 0 ∧ fld w 12 6 = 0 ∧ fld w 20 5 = 0 then .ok (.tfree (fldF w 18 2) (fldF w 7 5)) else .error (.reserved 47 3)
  | n => .error (.function 47 n)

/-- MAJ 0x30, format CP (R34). -/
def decode30 (w : Nat) : Except DecodeError Instr :=
  match fld w 0 5 with
  | 0 => match boxOfCode (fld w 7 2), farOfCode (fld w 5 2) with | some bx, some xs => .ok (.cpLd (fldS w 19) (fldS w 13) (fldF w 9 4) bx xs) | _, _ => .error (.code 48)
  | 1 => match boxOfCode (fld w 7 2), farOfCode (fld w 5 2) with | some bx, some xs => .ok (.cpSt (fldS w 19) (fldS w 13) (fldF w 9 4) bx xs) | _, _ => .error (.code 48)
  | 2 => if fld w 5 2 = 2 then match boxOfCode (fld w 7 2) with | some bx => .ok (.cpPut (fldS w 19) (fldS w 13) (fldF w 9 4) bx) | _ => .error (.code 48) else .error (.reserved 48 2)
  | 3 => if fld w 12 1 = 0 then match boxOfCode (fld w 7 2), farOfCode (fld w 5 2) with | some bx, some xs => .ok (.cpLdr (fldS w 19) (fldS w 13) (fldF w 9 3) bx xs) | _, _ => .error (.code 48) else .error (.reserved 48 3)
  | n => .error (.function 48 n)

/-- MAJ 0x31, format XS (R34). -/
def decode31 (w : Nat) : Except DecodeError Instr :=
  match fld w 10 3 with
  | 0 => if fld w 4 6 = 0 then .ok (.cpnestRun (fldS w 19) (fldS w 13) (fldF w 0 4)) else .error (.reserved 49 0)
  | 1 => if fld w 0 10 = 0 ∧ fld w 19 6 = 0 then .ok (.cpnestStop (fldS w 13)) else .error (.reserved 49 1)
  | 2 => if fld w 0 10 = 0 then .ok (.cpnestStat (fldS w 19) (fldS w 13)) else .error (.reserved 49 2)
  | n => .error (.function 49 n)

/-- MAJ 0x32, format GA (R34). -/
def decode32 (w : Nat) : Except DecodeError Instr :=
  .ok (.cpGath (fldK w 21) (fldV w 16) (fldS w 10) (fldS w 4) (fldF w 0 4))

/-- MAJ 0x33, format XS (R34). -/
noncomputable def decode33 (w : Nat) : Except DecodeError Instr :=
  match fld w 10 3 with
  | 0 => if fld w 3 7 = 0 ∧ fld w 19 6 = 0 then .ok (.rdef (fldS w 13) (fldF w 0 3)) else .error (.reserved 51 0)
  | 1 => if fld w 3 7 = 0 then .ok (.rres (fldS w 19) (fldS w 13) (fldF w 0 3)) else .error (.reserved 51 1)
  | 2 => if fld w 3 7 = 0 ∧ fld w 19 6 = 0 then .ok (.rpub (fldS w 13) (fldF w 0 3)) else .error (.reserved 51 2)
  | 3 => if fld w 3 7 = 0 ∧ fld w 13 6 = 0 then .ok (.rpop (fldS w 19) (fldF w 0 3)) else .error (.reserved 51 3)
  | 4 => if fld w 3 7 = 0 ∧ fld w 19 6 = 0 then .ok (.rrel (fldS w 13) (fldF w 0 3)) else .error (.reserved 51 4)
  | 5 => if fld w 3 7 = 0 ∧ fld w 13 6 = 0 then .ok (.rstat (fldS w 19) (fldF w 0 3)) else .error (.reserved 51 5)
  | n => .error (.function 51 n)

/-- MAJ 0x34, format XS (R34). -/
noncomputable def decode34 (w : Nat) : Except DecodeError Instr :=
  match fld w 10 3 with
  | 0 => if fld w 4 6 = 0 ∧ fld w 19 6 = 0 then .ok (.binit (fldS w 13) (fldF w 0 4)) else .error (.reserved 52 0)
  | 1 => if fld w 4 6 = 0 ∧ fld w 13 12 = 0 then .ok (.barr (fldF w 0 4)) else .error (.reserved 52 1)
  | 2 => if fld w 4 6 = 0 then .ok (.bwait (fldS w 19) (fldS w 13) (fldF w 0 4)) else .error (.reserved 52 2)
  | 3 => if fld w 4 6 = 0 ∧ fld w 13 6 = 0 then .ok (.btest (fldS w 19) (fldF w 0 4)) else .error (.reserved 52 3)
  | 4 => if fld w 4 6 = 0 ∧ fld w 13 12 = 0 then .ok (.binval (fldF w 0 4)) else .error (.reserved 52 4)
  | n => .error (.function 52 n)

/-- MAJ 0x35, format XS (R34). -/
noncomputable def decode35 (w : Nat) : Except DecodeError Instr :=
  match fld w 10 3 with
  | 0 => if fld w 6 4 = 0 ∧ fld w 13 6 = 0 then .ok (.mkTas (fldS w 19) (fldF w 0 6)) else .error (.reserved 53 0)
  | 1 => if fld w 6 4 = 0 ∧ fld w 13 6 = 0 then .ok (.mkTasnb (fldS w 19) (fldF w 0 6)) else .error (.reserved 53 1)
  | 2 => if fld w 6 4 = 0 then .ok (.mkFadd (fldS w 19) (fldS w 13) (fldF w 0 6)) else .error (.reserved 53 2)
  | 3 => if fld w 6 4 = 0 ∧ fld w 13 6 = 0 then .ok (.mkRd (fldS w 19) (fldF w 0 6)) else .error (.reserved 53 3)
  | 4 => if fld w 6 4 = 0 ∧ fld w 19 6 = 0 then .ok (.mkWr (fldS w 13) (fldF w 0 6)) else .error (.reserved 53 4)
  | 5 => if fld w 6 4 = 0 ∧ fld w 13 12 = 0 then .ok (.mkClr (fldF w 0 6)) else .error (.reserved 53 5)
  | n => .error (.function 53 n)

/-- MAJ 0x36, format XS (R34). -/
noncomputable def decode36 (w : Nat) : Except DecodeError Instr :=
  match fld w 10 3 with
  | 0 => if fld w 13 6 = 0 then .ok (.dsTas (fldS w 19) (fldF w 0 10)) else .error (.reserved 54 0)
  | 1 => .ok (.dsFadd (fldS w 19) (fldS w 13) (fldF w 0 10))
  | 2 => if fld w 13 6 = 0 then .ok (.dsRd (fldS w 19) (fldF w 0 10)) else .error (.reserved 54 2)
  | 3 => if fld w 19 6 = 0 then .ok (.dsWr (fldS w 13) (fldF w 0 10)) else .error (.reserved 54 3)
  | 4 => if fld w 19 6 = 0 then .ok (.dsWeq (fldS w 13) (fldF w 0 10)) else .error (.reserved 54 4)
  | n => .error (.function 54 n)

/-- MAJ 0x37, format XS (R34). -/
noncomputable def decode37 (w : Nat) : Except DecodeError Instr :=
  match fld w 10 3 with
  | 0 => if fld w 5 2 = 0 ∧ fld w 13 12 = 0 then match barScopeOfCode (fld w 7 3) with | some sc => .ok (.bar sc (fldF w 0 5)) | _ => .error (.code 55) else .error (.reserved 55 0)
  | 1 => if fld w 2 5 = 0 ∧ fld w 13 12 = 0 then match scopeOfCode (fld w 7 3), fKindOfCode (fld w 0 2) with | some sc, some kd => .ok (.fence sc kd) | _, _ => .error (.code 55) else .error (.reserved 55 1)
  | n => .error (.function 55 n)

/-- MAJ 0x38, format VS (R34). -/
noncomputable def decode38 (w : Nat) : Except DecodeError Instr :=
  match fld w 0 4 with
  | 0 => if fld w 4 3 = 0 then .ok (.twstart (fldV w 20) (fldV w 15) (fldS w 9) (fldF w 7 2)) else .error (.reserved 56 0)
  | 1 => if fld w 4 11 = 0 ∧ fld w 20 5 = 0 then .ok (.twret (fldV w 15)) else .error (.reserved 56 1)
  | 2 => if fld w 4 21 = 0 then .ok (.twstop) else .error (.reserved 56 2)
  | 3 => if fld w 4 5 = 0 then .ok (.twcut (fldV w 20) (fldV w 15) (fldS w 9)) else .error (.reserved 56 3)
  | 4 => if fld w 4 5 = 0 ∧ fld w 15 5 = 0 then .ok (.twadopt (fldV w 20) (fldS w 9)) else .error (.reserved 56 4)
  | n => .error (.function 56 n)

/-- MAJ 0x39, format XS (R34). -/
noncomputable def decode39 (w : Nat) : Except DecodeError Instr :=
  match fld w 10 3 with
  | 0 => if fld w 3 7 = 0 ∧ fld w 19 6 = 0 then .ok (.twdef (fldS w 13) (fldB w 2) (fldF w 0 2)) else .error (.reserved 57 0)
  | 1 => if fld w 2 8 = 0 ∧ fld w 13 6 = 0 then .ok (.twstat (fldS w 19) (fldF w 0 2)) else .error (.reserved 57 1)
  | n => .error (.function 57 n)

/-- MAJ 0x3a, format XS (R34). -/
noncomputable def decode3A (w : Nat) : Except DecodeError Instr :=
  match fld w 10 3 with
  | 0 => if fld w 0 10 = 0 ∧ fld w 13 12 = 0 then .ok (.rdenter) else .error (.reserved 58 0)
  | 1 => if fld w 0 10 = 0 ∧ fld w 13 12 = 0 then .ok (.rdexit) else .error (.reserved 58 1)
  | 2 => if fld w 0 10 = 0 ∧ fld w 13 12 = 0 then .ok (.qsp) else .error (.reserved 58 2)
  | 3 => if fld w 0 7 = 0 ∧ fld w 13 6 = 0 then match gScopeOfCode (fld w 7 3) with | some sc => .ok (.gstart (fldS w 19) sc) | _ => .error (.code 58) else .error (.reserved 58 3)
  | 4 => if fld w 0 7 = 0 ∧ fld w 19 6 = 0 then match gScopeOfCode (fld w 7 3) with | some sc => .ok (.wgrace (fldS w 13) sc) | _ => .error (.code 58) else .error (.reserved 58 4)
  | 5 => if fld w 0 7 = 0 ∧ fld w 13 6 = 0 then match gScopeOfCode (fld w 7 3) with | some sc => .ok (.gpoll (fldS w 19) sc) | _ => .error (.code 58) else .error (.reserved 58 5)
  | 6 => match gScopeOfCode (fld w 7 3) with | some sc => .ok (.defer (fldS w 19) (fldS w 13) sc (fldI w 0 7)) | _ => .error (.code 58)
  | n => .error (.function 58 n)

/-- MAJ 0x3b, format XS (R34). -/
noncomputable def decode3B (w : Nat) : Except DecodeError Instr :=
  match fld w 10 3 with
  | 0 => if fld w 0 10 = 0 then .ok (.spawn (fldS w 19) (fldS w 13)) else .error (.reserved 59 0)
  | 1 => if fld w 0 10 = 0 ∧ fld w 13 12 = 0 then .ok (.join) else .error (.reserved 59 1)
  | 2 => if fld w 2 8 = 0 ∧ fld w 13 12 = 0 then .ok (.rgive (fldF w 0 2)) else .error (.reserved 59 2)
  | 3 => if fld w 2 8 = 0 ∧ fld w 13 12 = 0 then .ok (.rclaim (fldF w 0 2)) else .error (.reserved 59 3)
  | n => .error (.function 59 n)

/-- MAJ 0x3c, format XS (R34). -/
noncomputable def decode3C (w : Nat) : Except DecodeError Instr :=
  match fld w 10 3 with
  | 0 => if fld w 19 6 = 0 then .ok (.mtsrp (fldS w 13) (fldI w 0 10)) else .error (.reserved 60 0)
  | 1 => if fld w 0 10 = 0 ∧ fld w 13 12 = 0 then .ok (.iret) else .error (.reserved 60 1)
  | 2 => if fld w 3 7 = 0 then match spaceOfCode (fld w 0 3) with | some sp => .ok (.segld (fldS w 19) (fldS w 13) sp) | _ => .error (.code 60) else .error (.reserved 60 2)
  | 3 => if fld w 19 6 = 0 then .ok (.tlbinv (fldS w 13) (fldI w 0 10)) else .error (.reserved 60 3)
  | 4 => if fld w 0 10 = 0 ∧ fld w 13 12 = 0 then .ok (.halt) else .error (.reserved 60 4)
  | n => .error (.function 60 n)

/-- An instruction word by its MAJ (R29, R34), without the conditions of `wellFormed`; `ls` are the words after it in its
packet (R17). -/
noncomputable def decodeMaj (w : Nat) (ls : List Word) : Except DecodeError Instr :=
  match fld w 25 6 with
  | 0 => decode00 w
  | 1 => decode01 w
  | 2 => decode02 w
  | 3 => decode03 w ls
  | 4 => decode04 w
  | 5 => decode05 w
  | 6 => decode06 w
  | 7 => decode07 w
  | 8 => decode08 w
  | 9 => decode09 w
  | 10 => decode0A w
  | 11 => decode0B w
  | 12 => decode0C w
  | 13 => decode0D w
  | 14 => decode0E w
  | 16 => decode10 w
  | 17 => decode11 w
  | 18 => decode12 w
  | 19 => decode13 w
  | 20 => decode14 w
  | 21 => decode15 w
  | 22 => decode16 w
  | 23 => decode17 w
  | 24 => decode18 w
  | 25 => decode19 w
  | 26 => decode1A w
  | 27 => decode1B w
  | 28 => decode1C w
  | 29 => decode1D w
  | 30 => decode1E w
  | 31 => decode1F w
  | 32 => decode20 w
  | 33 => decode21 w
  | 34 => decode22 w
  | 35 => decode23 w
  | 36 => decode24 w
  | 37 => decode25 w
  | 38 => decode26 w
  | 39 => decode27 w
  | 40 => decode28 w
  | 41 => decode29 w
  | 42 => decode2A w
  | 43 => decode2B w
  | 44 => decode2C w
  | 45 => decode2D w
  | 46 => decode2E w
  | 47 => decode2F w
  | 48 => decode30 w
  | 49 => decode31 w
  | 50 => decode32 w
  | 51 => decode33 w
  | 52 => decode34 w
  | 53 => decode35 w
  | 54 => decode36 w
  | 55 => decode37 w
  | 56 => decode38 w
  | 57 => decode39 w
  | 58 => decode3A w
  | 59 => decode3B w
  | 60 => decode3C w
  | n => .error (.major n)

/-- The instruction that word `w` of a packet is, `ls` being the words after it in the packet. The tie bit is not looked at. -/
noncomputable def decodeWord (w : Word) (ls : List Word) : Except DecodeError Instr :=
  match decodeMaj w.toNat ls with
  | .ok i => if i.wellFormed then .ok i else .error .form
  | .error e => .error e

/-- How many words an instruction takes (R17, R83). -/
def Instr.words : Instr → Nat
  | .lit .. => 2
  | .lit64 .. => 3
  | _ => 1

/-- A little-endian word (R14). -/
def wordOf (b0 b1 b2 b3 : Byte) : Word := b3 ++ b2 ++ b1 ++ b0

/-- The little-endian words that whole groups of four bytes form. -/
def wordsOf : List Byte → List Word
  | b0 :: b1 :: b2 :: b3 :: r => wordOf b0 b1 b2 b3 :: wordsOf r
  | _ => []

/-- Decode the instruction at the start of a list of bytes and give the bytes after it. -/
noncomputable def decode (bs : List Byte) : Except DecodeError (Instr × List Byte) :=
  match wordsOf bs with
  | [] => .error .short
  | w :: ls =>
    match decodeWord w ls with
    | .ok i => .ok (i, bs.drop (4 * i.words))
    | .error e => .error e

/-- The `n` bytes of a number, least significant first. -/
def bytesOfNat : Nat → Nat → List Byte
  | 0, _ => []
  | n + 1, w => BitVec.ofNat 8 w :: bytesOfNat n (w / 256)

/-- What the decoder reads from an instruction whose bits are `w`, numbered as spec/opcode_table.json numbers them; bits above
`nbits`, up to the three words of the longest instruction, are 0. -/
noncomputable def decodeTableWord (nbits w : Nat) : Option Instr :=
  match decode (bytesOfNat 12 (w % 2 ^ nbits)) with
  | .ok (i, _) => some i
  | .error _ => none

/-! ## The encoder (R29 to R36) -/

/-- `v` added to `w` at bit `lo`. -/
def ins (w v lo : Nat) : Nat := w + v * 2 ^ lo

/-- The number of an instruction word with T = 0 (R29): MAJ, the function code and each field at its place. 0 for an act. -/
def encodeNat : Instr → Nat
  | .add sd sa sb => ins (ins (ins 0x00000000 sd.val 19) sa.val 13) sb.val 7
  | .sub sd sa sb => ins (ins (ins 0x00000001 sd.val 19) sa.val 13) sb.val 7
  | .and sd sa sb => ins (ins (ins 0x00000002 sd.val 19) sa.val 13) sb.val 7
  | .or sd sa sb => ins (ins (ins 0x00000003 sd.val 19) sa.val 13) sb.val 7
  | .xor sd sa sb => ins (ins (ins 0x00000004 sd.val 19) sa.val 13) sb.val 7
  | .andn sd sa sb => ins (ins (ins 0x00000005 sd.val 19) sa.val 13) sb.val 7
  | .shl sd sa sb => ins (ins (ins 0x00000006 sd.val 19) sa.val 13) sb.val 7
  | .shr sd sa sb => ins (ins (ins 0x00000007 sd.val 19) sa.val 13) sb.val 7
  | .sar sd sa sb => ins (ins (ins 0x00000008 sd.val 19) sa.val 13) sb.val 7
  | .rol sd sa sb => ins (ins (ins 0x00000009 sd.val 19) sa.val 13) sb.val 7
  | .min sd sa sb => ins (ins (ins 0x0000000A sd.val 19) sa.val 13) sb.val 7
  | .max sd sa sb => ins (ins (ins 0x0000000B sd.val 19) sa.val 13) sb.val 7
  | .minu sd sa sb => ins (ins (ins 0x0000000C sd.val 19) sa.val 13) sb.val 7
  | .maxu sd sa sb => ins (ins (ins 0x0000000D sd.val 19) sa.val 13) sb.val 7
  | .mul sd sa sb => ins (ins (ins 0x0000000E sd.val 19) sa.val 13) sb.val 7
  | .mulh sd sa sb => ins (ins (ins 0x0000000F sd.val 19) sa.val 13) sb.val 7
  | .mulhu sd sa sb => ins (ins (ins 0x00000010 sd.val 19) sa.val 13) sb.val 7
  | .div sd sa sb => ins (ins (ins 0x00000011 sd.val 19) sa.val 13) sb.val 7
  | .divu sd sa sb => ins (ins (ins 0x00000012 sd.val 19) sa.val 13) sb.val 7
  | .rem sd sa sb => ins (ins (ins 0x00000013 sd.val 19) sa.val 13) sb.val 7
  | .remu sd sa sb => ins (ins (ins 0x00000014 sd.val 19) sa.val 13) sb.val 7
  | .slt sd sa sb => ins (ins (ins 0x00000015 sd.val 19) sa.val 13) sb.val 7
  | .sltu sd sa sb => ins (ins (ins 0x00000016 sd.val 19) sa.val 13) sb.val 7
  | .seq sd sa sb => ins (ins (ins 0x00000017 sd.val 19) sa.val 13) sb.val 7
  | .clz sd sa => ins (ins 0x00000018 sd.val 19) sa.val 13
  | .ctz sd sa => ins (ins 0x00000019 sd.val 19) sa.val 13
  | .popc sd sa => ins (ins 0x0000001A sd.val 19) sa.val 13
  | .bfe sd sa sb => ins (ins (ins 0x0000001B sd.val 19) sa.val 13) sb.val 7
  | .bfi sd sa sb => ins (ins (ins 0x0000001C sd.val 19) sa.val 13) sb.val 7
  | .addi sd sa imm => ins (ins (ins 0x02000000 sd.val 19) sa.val 13) imm.toNat 0
  | .andi sd sa imm => ins (ins (ins 0x02000400 sd.val 19) sa.val 13) imm.toNat 0
  | .ori sd sa imm => ins (ins (ins 0x02000800 sd.val 19) sa.val 13) imm.toNat 0
  | .xori sd sa imm => ins (ins (ins 0x02000C00 sd.val 19) sa.val 13) imm.toNat 0
  | .shli sd sa sh => ins (ins (ins 0x02001000 sd.val 19) sa.val 13) sh.val 0
  | .shri sd sa sh => ins (ins (ins 0x02001400 sd.val 19) sa.val 13) sh.val 0
  | .sari sd sa sh => ins (ins (ins 0x02001800 sd.val 19) sa.val 13) sh.val 0
  | .slti sd sa imm => ins (ins (ins 0x02001C00 sd.val 19) sa.val 13) imm.toNat 0
  | .sethi sd imm => ins (ins 0x04000000 sd.val 19) imm.toNat 0
  | .lit sd _ => ins 0x06000000 sd.val 19
  | .lit64 sd _ => ins 0x06000001 sd.val 19
  | .ld sd sa sp sz off => ins (ins (ins (ins (ins 0x08000000 sd.val 19) sa.val 13) (spaceCode sp) 10) (sizeCode sz) 7) off.toNat 0
  | .st sd sa sp sz off => ins (ins (ins (ins (ins 0x0A000000 sd.val 19) sa.val 13) (spaceCode sp) 10) (sizeCode sz) 7) off.toNat 0
  | .beq sa sb off => ins (ins (ins 0x0C000000 sa.val 19) sb.val 13) off.toNat 0
  | .bne sa sb off => ins (ins (ins 0x0C000400 sa.val 19) sb.val 13) off.toNat 0
  | .blt sa sb off => ins (ins (ins 0x0C000800 sa.val 19) sb.val 13) off.toNat 0
  | .bge sa sb off => ins (ins (ins 0x0C000C00 sa.val 19) sb.val 13) off.toNat 0
  | .bltu sa sb off => ins (ins (ins 0x0C001000 sa.val 19) sb.val 13) off.toNat 0
  | .bgeu sa sb off => ins (ins (ins 0x0C001400 sa.val 19) sb.val 13) off.toNat 0
  | .call sl off => ins (ins 0x0E000000 sl.val 19) off.toNat 0
  | .jmp off => ins 0x0E000000 off.toNat 0
  | .jr sa => ins 0x10000000 sa.val 13
  | .callr sd sa => ins (ins 0x10000001 sd.val 19) sa.val 13
  | .csel sd sa sb => ins (ins (ins 0x10000002 sd.val 19) sa.val 13) sb.val 7
  | .strip sr pb np dm off => ins (ins (ins (ins (ins 0x12000000 sr.val 19) pb.val 13) np.val 10) (dimCode dm) 8) off.toNat 0
  | .mfsr sd num => ins (ins 0x14000000 sd.val 19) num.toNat 0
  | .mtsr sa num => ins (ins 0x14000400 sa.val 13) num.toNat 0
  | .setvl sd sa num => ins (ins (ins 0x14000800 sd.val 19) sa.val 13) num.toNat 0
  | .trap num => ins 0x16000000 num.toNat 0
  | .hcall sd sa num => ins (ins (ins 0x16000400 sd.val 19) sa.val 13) num.toNat 0
  | .exit sa => ins 0x16000800 sa.val 13
  | .yield => 0x16000C00
  | .sleep sa num => ins (ins 0x16001000 sa.val 13) num.toNat 0
  | .fadd sd sa sb => ins (ins (ins 0x18000000 sd.val 19) sa.val 13) sb.val 7
  | .fsub sd sa sb => ins (ins (ins 0x18000001 sd.val 19) sa.val 13) sb.val 7
  | .fmul sd sa sb => ins (ins (ins 0x18000002 sd.val 19) sa.val 13) sb.val 7
  | .fdiv sd sa sb => ins (ins (ins 0x18000003 sd.val 19) sa.val 13) sb.val 7
  | .fsqrt sd sa => ins (ins 0x18000004 sd.val 19) sa.val 13
  | .fmin sd sa sb => ins (ins (ins 0x18000005 sd.val 19) sa.val 13) sb.val 7
  | .fmax sd sa sb => ins (ins (ins 0x18000006 sd.val 19) sa.val 13) sb.val 7
  | .flt sd sa sb => ins (ins (ins 0x18000007 sd.val 19) sa.val 13) sb.val 7
  | .feq sd sa sb => ins (ins (ins 0x18000008 sd.val 19) sa.val 13) sb.val 7
  | .fle sd sa sb => ins (ins (ins 0x18000009 sd.val 19) sa.val 13) sb.val 7
  | .fcvtF32Si sd sa => ins (ins 0x1800000A sd.val 19) sa.val 13
  | .fcvtSiF32 sd sa => ins (ins 0x1800000B sd.val 19) sa.val 13
  | .vbr km ng off => ins (ins (ins 0x1A000000 km.val 21) ng.toNat 20) off.toNat 0
  | .vcall km ng off => ins (ins (ins 0x1A040000 km.val 21) ng.toNat 20) off.toNat 0
  | .vjr va => ins 0x1C000000 va.val 15
  | .vcallr vd va => ins (ins 0x1C000001 vd.val 20) va.val 15
  | .vadd vd va vb km ca cb => ins (ins (ins (ins (ins (ins 0x20000000 vd.val 20) va.val 15) vb.val 10) km.val 6) ca.toNat 5) cb.toNat 4
  | .vsub vd va vb km ca cb => ins (ins (ins (ins (ins (ins 0x20000001 vd.val 20) va.val 15) vb.val 10) km.val 6) ca.toNat 5) cb.toNat 4
  | .vmul vd va vb km ca cb => ins (ins (ins (ins (ins (ins 0x20000002 vd.val 20) va.val 15) vb.val 10) km.val 6) ca.toNat 5) cb.toNat 4
  | .vmulh vd va vb km ca cb => ins (ins (ins (ins (ins (ins 0x20000003 vd.val 20) va.val 15) vb.val 10) km.val 6) ca.toNat 5) cb.toNat 4
  | .vmulhu vd va vb km ca cb => ins (ins (ins (ins (ins (ins 0x20000004 vd.val 20) va.val 15) vb.val 10) km.val 6) ca.toNat 5) cb.toNat 4
  | .vmin vd va vb km ca cb => ins (ins (ins (ins (ins (ins 0x20000005 vd.val 20) va.val 15) vb.val 10) km.val 6) ca.toNat 5) cb.toNat 4
  | .vmax vd va vb km ca cb => ins (ins (ins (ins (ins (ins 0x20000006 vd.val 20) va.val 15) vb.val 10) km.val 6) ca.toNat 5) cb.toNat 4
  | .vminu vd va vb km ca cb => ins (ins (ins (ins (ins (ins 0x20000007 vd.val 20) va.val 15) vb.val 10) km.val 6) ca.toNat 5) cb.toNat 4
  | .vmaxu vd va vb km ca cb => ins (ins (ins (ins (ins (ins 0x20000008 vd.val 20) va.val 15) vb.val 10) km.val 6) ca.toNat 5) cb.toNat 4
  | .vand vd va vb km ca cb => ins (ins (ins (ins (ins (ins 0x20000009 vd.val 20) va.val 15) vb.val 10) km.val 6) ca.toNat 5) cb.toNat 4
  | .vor vd va vb km ca cb => ins (ins (ins (ins (ins (ins 0x2000000A vd.val 20) va.val 15) vb.val 10) km.val 6) ca.toNat 5) cb.toNat 4
  | .vxor vd va vb km ca cb => ins (ins (ins (ins (ins (ins 0x2000000B vd.val 20) va.val 15) vb.val 10) km.val 6) ca.toNat 5) cb.toNat 4
  | .vandn vd va vb km ca cb => ins (ins (ins (ins (ins (ins 0x2000000C vd.val 20) va.val 15) vb.val 10) km.val 6) ca.toNat 5) cb.toNat 4
  | .vshl vd va vb km ca cb => ins (ins (ins (ins (ins (ins 0x2000000D vd.val 20) va.val 15) vb.val 10) km.val 6) ca.toNat 5) cb.toNat 4
  | .vshr vd va vb km ca cb => ins (ins (ins (ins (ins (ins 0x2000000E vd.val 20) va.val 15) vb.val 10) km.val 6) ca.toNat 5) cb.toNat 4
  | .vsar vd va vb km ca cb => ins (ins (ins (ins (ins (ins 0x2000000F vd.val 20) va.val 15) vb.val 10) km.val 6) ca.toNat 5) cb.toNat 4
  | .vaddVs vd va sb km ca => ins (ins (ins (ins (ins 0x22000000 vd.val 20) va.val 15) sb.val 9) km.val 5) ca.toNat 4
  | .vsubVs vd va sb km ca => ins (ins (ins (ins (ins 0x22000001 vd.val 20) va.val 15) sb.val 9) km.val 5) ca.toNat 4
  | .vmulVs vd va sb km ca => ins (ins (ins (ins (ins 0x22000002 vd.val 20) va.val 15) sb.val 9) km.val 5) ca.toNat 4
  | .vmulhVs vd va sb km ca => ins (ins (ins (ins (ins 0x22000003 vd.val 20) va.val 15) sb.val 9) km.val 5) ca.toNat 4
  | .vmulhuVs vd va sb km ca => ins (ins (ins (ins (ins 0x22000004 vd.val 20) va.val 15) sb.val 9) km.val 5) ca.toNat 4
  | .vminVs vd va sb km ca => ins (ins (ins (ins (ins 0x22000005 vd.val 20) va.val 15) sb.val 9) km.val 5) ca.toNat 4
  | .vmaxVs vd va sb km ca => ins (ins (ins (ins (ins 0x22000006 vd.val 20) va.val 15) sb.val 9) km.val 5) ca.toNat 4
  | .vminuVs vd va sb km ca => ins (ins (ins (ins (ins 0x22000007 vd.val 20) va.val 15) sb.val 9) km.val 5) ca.toNat 4
  | .vmaxuVs vd va sb km ca => ins (ins (ins (ins (ins 0x22000008 vd.val 20) va.val 15) sb.val 9) km.val 5) ca.toNat 4
  | .vandVs vd va sb km ca => ins (ins (ins (ins (ins 0x22000009 vd.val 20) va.val 15) sb.val 9) km.val 5) ca.toNat 4
  | .vorVs vd va sb km ca => ins (ins (ins (ins (ins 0x2200000A vd.val 20) va.val 15) sb.val 9) km.val 5) ca.toNat 4
  | .vxorVs vd va sb km ca => ins (ins (ins (ins (ins 0x2200000B vd.val 20) va.val 15) sb.val 9) km.val 5) ca.toNat 4
  | .vandnVs vd va sb km ca => ins (ins (ins (ins (ins 0x2200000C vd.val 20) va.val 15) sb.val 9) km.val 5) ca.toNat 4
  | .vshlVs vd va sb km ca => ins (ins (ins (ins (ins 0x2200000D vd.val 20) va.val 15) sb.val 9) km.val 5) ca.toNat 4
  | .vshrVs vd va sb km ca => ins (ins (ins (ins (ins 0x2200000E vd.val 20) va.val 15) sb.val 9) km.val 5) ca.toNat 4
  | .vsarVs vd va sb km ca => ins (ins (ins (ins (ins 0x2200000F vd.val 20) va.val 15) sb.val 9) km.val 5) ca.toNat 4
  | .vaddi vd va imm km ca => ins (ins (ins (ins (ins 0x24000000 vd.val 20) va.val 15) imm.toNat 6) km.val 2) ca.toNat 1
  | .vrsubi vd va imm km ca => ins (ins (ins (ins (ins 0x24000001 vd.val 20) va.val 15) imm.toNat 6) km.val 2) ca.toNat 1
  | .vshli vd va sh km ca => ins (ins (ins (ins (ins 0x26000000 vd.val 20) va.val 15) sh.val 6) km.val 2) ca.toNat 1
  | .vshri vd va sh km ca => ins (ins (ins (ins (ins 0x26000001 vd.val 20) va.val 15) sh.val 6) km.val 2) ca.toNat 1
  | .vsari vd va sh km ca => ins (ins (ins (ins (ins 0x28000000 vd.val 20) va.val 15) sh.val 6) km.val 2) ca.toNat 1
  | .vandi vd va imm km ca => ins (ins (ins (ins (ins 0x28000001 vd.val 20) va.val 15) imm.toNat 6) km.val 2) ca.toNat 1
  | .vfadd vd va vb km ca cb => ins (ins (ins (ins (ins (ins 0x2A000000 vd.val 20) va.val 15) vb.val 10) km.val 6) ca.toNat 5) cb.toNat 4
  | .vfsub vd va vb km ca cb => ins (ins (ins (ins (ins (ins 0x2A000001 vd.val 20) va.val 15) vb.val 10) km.val 6) ca.toNat 5) cb.toNat 4
  | .vfmul vd va vb km ca cb => ins (ins (ins (ins (ins (ins 0x2A000002 vd.val 20) va.val 15) vb.val 10) km.val 6) ca.toNat 5) cb.toNat 4
  | .vfdiv vd va vb km ca cb => ins (ins (ins (ins (ins (ins 0x2A000003 vd.val 20) va.val 15) vb.val 10) km.val 6) ca.toNat 5) cb.toNat 4
  | .vfsqrt vd va km ca => ins (ins (ins (ins 0x2A000004 vd.val 20) va.val 15) km.val 6) ca.toNat 5
  | .vfmin vd va vb km ca cb => ins (ins (ins (ins (ins (ins 0x2A000005 vd.val 20) va.val 15) vb.val 10) km.val 6) ca.toNat 5) cb.toNat 4
  | .vfmax vd va vb km ca cb => ins (ins (ins (ins (ins (ins 0x2A000006 vd.val 20) va.val 15) vb.val 10) km.val 6) ca.toNat 5) cb.toNat 4
  | .vfabs vd va km ca => ins (ins (ins (ins 0x2A000007 vd.val 20) va.val 15) km.val 6) ca.toNat 5
  | .vfneg vd va km ca => ins (ins (ins (ins 0x2A000008 vd.val 20) va.val 15) km.val 6) ca.toNat 5
  | .vfcopysign vd va vb km ca cb => ins (ins (ins (ins (ins (ins 0x2A000009 vd.val 20) va.val 15) vb.val 10) km.val 6) ca.toNat 5) cb.toNat 4
  | .vfrint vd va km ca => ins (ins (ins (ins 0x2A00000A vd.val 20) va.val 15) km.val 6) ca.toNat 5
  | .vffloor vd va km ca => ins (ins (ins (ins 0x2A00000B vd.val 20) va.val 15) km.val 6) ca.toNat 5
  | .vfceil vd va km ca => ins (ins (ins (ins 0x2A00000C vd.val 20) va.val 15) km.val 6) ca.toNat 5
  | .vftrunc vd va km ca => ins (ins (ins (ins 0x2A00000D vd.val 20) va.val 15) km.val 6) ca.toNat 5
  | .vffract vd va km ca => ins (ins (ins (ins 0x2A00000E vd.val 20) va.val 15) km.val 6) ca.toNat 5
  | .vfaddVs vd va sb km ca => ins (ins (ins (ins (ins 0x2C000000 vd.val 20) va.val 15) sb.val 9) km.val 5) ca.toNat 4
  | .vfsubVs vd va sb km ca => ins (ins (ins (ins (ins 0x2C000001 vd.val 20) va.val 15) sb.val 9) km.val 5) ca.toNat 4
  | .vfmulVs vd va sb km ca => ins (ins (ins (ins (ins 0x2C000002 vd.val 20) va.val 15) sb.val 9) km.val 5) ca.toNat 4
  | .vfminVs vd va sb km ca => ins (ins (ins (ins (ins 0x2C000003 vd.val 20) va.val 15) sb.val 9) km.val 5) ca.toNat 4
  | .vfmaxVs vd va sb km ca => ins (ins (ins (ins (ins 0x2C000004 vd.val 20) va.val 15) sb.val 9) km.val 5) ca.toNat 4
  | .vfma vd va vb vc km ch => ins (ins (ins (ins (ins (ins 0x2E000000 vd.val 20) va.val 15) vb.val 10) vc.val 5) km.val 2) ch.toNat 1
  | .vfnma vd va vb vc km ch => ins (ins (ins (ins (ins (ins 0x2E000001 vd.val 20) va.val 15) vb.val 10) vc.val 5) km.val 2) ch.toNat 1
  | .cvtF32Si vd va km ca => ins (ins (ins (ins 0x30000000 vd.val 20) va.val 15) km.val 6) ca.toNat 5
  | .cvtSiF32 vd va km ca => ins (ins (ins (ins 0x30000001 vd.val 20) va.val 15) km.val 6) ca.toNat 5
  | .cvtF32Ui vd va km ca => ins (ins (ins (ins 0x30000002 vd.val 20) va.val 15) km.val 6) ca.toNat 5
  | .cvtUiF32 vd va km ca => ins (ins (ins (ins 0x30000003 vd.val 20) va.val 15) km.val 6) ca.toNat 5
  | .pkBf16 vd va vb km ca cb => ins (ins (ins (ins (ins (ins 0x30000004 vd.val 20) va.val 15) vb.val 10) km.val 6) ca.toNat 5) cb.toNat 4
  | .upBf16Lo vd va km ca => ins (ins (ins (ins 0x30000005 vd.val 20) va.val 15) km.val 6) ca.toNat 5
  | .upBf16Hi vd va km ca => ins (ins (ins (ins 0x30000006 vd.val 20) va.val 15) km.val 6) ca.toNat 5
  | .pkF16 vd va vb km ca cb => ins (ins (ins (ins (ins (ins 0x30000007 vd.val 20) va.val 15) vb.val 10) km.val 6) ca.toNat 5) cb.toNat 4
  | .upF16Lo vd va km ca => ins (ins (ins (ins 0x30000008 vd.val 20) va.val 15) km.val 6) ca.toNat 5
  | .upF16Hi vd va km ca => ins (ins (ins (ins 0x30000009 vd.val 20) va.val 15) km.val 6) ca.toNat 5
  | .pkF8a vd va vb km ca cb => ins (ins (ins (ins (ins (ins 0x3000000A vd.val 20) va.val 15) vb.val 10) km.val 6) ca.toNat 5) cb.toNat 4
  | .pkF8b vd va vb km ca cb => ins (ins (ins (ins (ins (ins 0x3000000B vd.val 20) va.val 15) vb.val 10) km.val 6) ca.toNat 5) cb.toNat 4
  | .upF8a vd va vb km ca cb => ins (ins (ins (ins (ins (ins 0x3000000C vd.val 20) va.val 15) vb.val 10) km.val 6) ca.toNat 5) cb.toNat 4
  | .upF8b vd va vb km ca cb => ins (ins (ins (ins (ins (ins 0x3000000D vd.val 20) va.val 15) vb.val 10) km.val 6) ca.toNat 5) cb.toNat 4
  | .pkI8 vd va vb km ca cb => ins (ins (ins (ins (ins (ins 0x3000000E vd.val 20) va.val 15) vb.val 10) km.val 6) ca.toNat 5) cb.toNat 4
  | .upI8 vd va vb km ca cb => ins (ins (ins (ins (ins (ins 0x3000000F vd.val 20) va.val 15) vb.val 10) km.val 6) ca.toNat 5) cb.toNat 4
  | .vsin vd va km ca => ins (ins (ins (ins 0x32000000 vd.val 20) va.val 15) km.val 6) ca.toNat 5
  | .vcos vd va km ca => ins (ins (ins (ins 0x32000001 vd.val 20) va.val 15) km.val 6) ca.toNat 5
  | .vsinpi vd va km ca => ins (ins (ins (ins 0x32000002 vd.val 20) va.val 15) km.val 6) ca.toNat 5
  | .vcospi vd va km ca => ins (ins (ins (ins 0x32000003 vd.val 20) va.val 15) km.val 6) ca.toNat 5
  | .vexp2 vd va km ca => ins (ins (ins (ins 0x32000004 vd.val 20) va.val 15) km.val 6) ca.toNat 5
  | .vlog2 vd va km ca => ins (ins (ins (ins 0x32000005 vd.val 20) va.val 15) km.val 6) ca.toNat 5
  | .vrcp vd va km ca => ins (ins (ins (ins 0x32000006 vd.val 20) va.val 15) km.val 6) ca.toNat 5
  | .vrsqrt vd va km ca => ins (ins (ins (ins 0x32000007 vd.val 20) va.val 15) km.val 6) ca.toNat 5
  | .vtanh vd va km ca => ins (ins (ins (ins 0x32000008 vd.val 20) va.val 15) km.val 6) ca.toNat 5
  | .vsigm vd va km ca => ins (ins (ins (ins 0x32000009 vd.val 20) va.val 15) km.val 6) ca.toNat 5
  | .vcmpEq kd va vb km ca cb => ins (ins (ins (ins (ins (ins 0x34000000 kd.val 21) va.val 16) vb.val 11) km.val 7) ca.toNat 6) cb.toNat 5
  | .vcmpNe kd va vb km ca cb => ins (ins (ins (ins (ins (ins 0x34000001 kd.val 21) va.val 16) vb.val 11) km.val 7) ca.toNat 6) cb.toNat 5
  | .vcmpLt kd va vb km ca cb => ins (ins (ins (ins (ins (ins 0x34000002 kd.val 21) va.val 16) vb.val 11) km.val 7) ca.toNat 6) cb.toNat 5
  | .vcmpGe kd va vb km ca cb => ins (ins (ins (ins (ins (ins 0x34000003 kd.val 21) va.val 16) vb.val 11) km.val 7) ca.toNat 6) cb.toNat 5
  | .vcmpLtu kd va vb km ca cb => ins (ins (ins (ins (ins (ins 0x34000004 kd.val 21) va.val 16) vb.val 11) km.val 7) ca.toNat 6) cb.toNat 5
  | .vcmpGeu kd va vb km ca cb => ins (ins (ins (ins (ins (ins 0x34000005 kd.val 21) va.val 16) vb.val 11) km.val 7) ca.toNat 6) cb.toNat 5
  | .vfcmpEq kd va vb km ca cb => ins (ins (ins (ins (ins (ins 0x36000000 kd.val 21) va.val 16) vb.val 11) km.val 7) ca.toNat 6) cb.toNat 5
  | .vfcmpNe kd va vb km ca cb => ins (ins (ins (ins (ins (ins 0x36000001 kd.val 21) va.val 16) vb.val 11) km.val 7) ca.toNat 6) cb.toNat 5
  | .vfcmpLt kd va vb km ca cb => ins (ins (ins (ins (ins (ins 0x36000002 kd.val 21) va.val 16) vb.val 11) km.val 7) ca.toNat 6) cb.toNat 5
  | .vfcmpLe kd va vb km ca cb => ins (ins (ins (ins (ins (ins 0x36000003 kd.val 21) va.val 16) vb.val 11) km.val 7) ca.toNat 6) cb.toNat 5
  | .vfcmpGt kd va vb km ca cb => ins (ins (ins (ins (ins (ins 0x36000004 kd.val 21) va.val 16) vb.val 11) km.val 7) ca.toNat 6) cb.toNat 5
  | .vfcmpGe kd va vb km ca cb => ins (ins (ins (ins (ins (ins 0x36000005 kd.val 21) va.val 16) vb.val 11) km.val 7) ca.toNat 6) cb.toNat 5
  | .vfcmpUn kd va vb km ca cb => ins (ins (ins (ins (ins (ins 0x36000006 kd.val 21) va.val 16) vb.val 11) km.val 7) ca.toNat 6) cb.toNat 5
  | .vfcmpOrd kd va vb km ca cb => ins (ins (ins (ins (ins (ins 0x36000007 kd.val 21) va.val 16) vb.val 11) km.val 7) ca.toNat 6) cb.toNat 5
  | .kand kd ka kb => ins (ins (ins 0x38000000 kd.val 21) ka.val 17) kb.val 13
  | .kor kd ka kb => ins (ins (ins 0x38000200 kd.val 21) ka.val 17) kb.val 13
  | .kxor kd ka kb => ins (ins (ins 0x38000400 kd.val 21) ka.val 17) kb.val 13
  | .kandn kd ka kb => ins (ins (ins 0x38000600 kd.val 21) ka.val 17) kb.val 13
  | .knot kd ka => ins (ins 0x38000800 kd.val 21) ka.val 17
  | .kmov kd ka => ins (ins 0x38000A00 kd.val 21) ka.val 17
  | .kall kd => ins 0x38000C00 kd.val 21
  | .knone kd => ins 0x38000E00 kd.val 21
  | .vsel vd va vb km ca cb => ins (ins (ins (ins (ins (ins 0x3A000000 vd.val 20) va.val 15) vb.val 10) km.val 6) ca.toNat 5) cb.toNat 4
  | .vmov vd va km ca => ins (ins (ins (ins 0x3A000001 vd.val 20) va.val 15) km.val 6) ca.toNat 5
  | .viota vd km => ins (ins 0x3A000002 vd.val 20) km.val 6
  | .vbcast vd sb km => ins (ins (ins 0x3C000000 vd.val 20) sb.val 9) km.val 5
  | .vextr sd va sb ca => ins (ins (ins (ins 0x3C000001 sd.val 20) va.val 15) sb.val 9) ca.toNat 4
  | .kcnt sd ka => ins (ins 0x3C000002 sd.val 20) ka.val 15
  | .kfst sd ka => ins (ins 0x3C000003 sd.val 20) ka.val 15
  | .vperm vd va vb km ca cb => ins (ins (ins (ins (ins (ins 0x3E000000 vd.val 20) va.val 15) vb.val 10) km.val 6) ca.toNat 5) cb.toNat 4
  | .vcompress vd va km ca => ins (ins (ins (ins 0x3E000001 vd.val 20) va.val 15) km.val 6) ca.toNat 5
  | .vexpand vd va km ca => ins (ins (ins (ins 0x3E000002 vd.val 20) va.val 15) km.val 6) ca.toNat 5
  | .vraddI sd va km ca => ins (ins (ins (ins 0x40000000 sd.val 20) va.val 15) km.val 6) ca.toNat 5
  | .vrmaxI sd va km ca => ins (ins (ins (ins 0x40000001 sd.val 20) va.val 15) km.val 6) ca.toNat 5
  | .vrminI sd va km ca => ins (ins (ins (ins 0x40000002 sd.val 20) va.val 15) km.val 6) ca.toNat 5
  | .vraddF sd va km ca => ins (ins (ins (ins 0x40000003 sd.val 20) va.val 15) km.val 6) ca.toNat 5
  | .vrmaxF sd va km ca => ins (ins (ins (ins 0x40000004 sd.val 20) va.val 15) km.val 6) ca.toNat 5
  | .vrminF sd va km ca => ins (ins (ins (ins 0x40000005 sd.val 20) va.val 15) km.val 6) ca.toNat 5
  | .vrand sd va km ca => ins (ins (ins (ins 0x40000006 sd.val 20) va.val 15) km.val 6) ca.toNat 5
  | .vror sd va km ca => ins (ins (ins (ins 0x40000007 sd.val 20) va.val 15) km.val 6) ca.toNat 5
  | .vscanAddI vd va km ca => ins (ins (ins (ins 0x42000000 vd.val 20) va.val 15) km.val 6) ca.toNat 5
  | .vscanAddF vd va km ca => ins (ins (ins (ins 0x42000001 vd.val 20) va.val 15) km.val 6) ca.toNat 5
  | .vscanMaxF vd va km ca => ins (ins (ins (ins 0x42000002 vd.val 20) va.val 15) km.val 6) ca.toNat 5
  | .vswz vd va md amt km ca => ins (ins (ins (ins (ins (ins 0x44000000 vd.val 20) va.val 15) (swzCode md) 13) amt.toNat 6) km.val 2) ca.toNat 1
  | .vswzg vd va md amt km ca => ins (ins (ins (ins (ins (ins 0x44000001 vd.val 20) va.val 15) (swzCode md) 13) amt.toNat 6) km.val 2) ca.toNat 1
  | .vldW vd sa sp km md => ins (ins (ins (ins (ins 0x46000000 vd.val 20) sa.val 14) (spaceCode sp) 6) km.val 2) (vmodeCode md) 0
  | .vldH vd sa sp km md => ins (ins (ins (ins (ins 0x48000000 vd.val 20) sa.val 14) (spaceCode sp) 6) km.val 2) (vmodeCode md) 0
  | .vldB vd sa sp km md => ins (ins (ins (ins (ins 0x4A000000 vd.val 20) sa.val 14) (spaceCode sp) 6) km.val 2) (vmodeCode md) 0
  | .vstW vd sa sp km md => ins (ins (ins (ins (ins 0x4C000000 vd.val 20) sa.val 14) (spaceCode sp) 6) km.val 2) (vmodeCode md) 0
  | .vstH vd sa sp km md => ins (ins (ins (ins (ins 0x4E000000 vd.val 20) sa.val 14) (spaceCode sp) 6) km.val 2) (vmodeCode md) 0
  | .vstB vd sa sp km md => ins (ins (ins (ins (ins 0x50000000 vd.val 20) sa.val 14) (spaceCode sp) 6) km.val 2) (vmodeCode md) 0
  | .vatomG vd sa va vb op => ins (ins (ins (ins (ins 0x52000000 vd.val 20) sa.val 4) va.val 15) vb.val 10) (atomOpCode op) 0
  | .vatomD vd sa va vb op => ins (ins (ins (ins (ins 0x54000000 vd.val 20) sa.val 4) va.val 15) vb.val 10) (atomOpCode op) 0
  | .vatomQ vd sa va vb op => ins (ins (ins (ins (ins 0x56000000 vd.val 20) sa.val 4) va.val 15) vb.val 10) (atomOpCode op) 0
  | .tset sa sb sc fm => ins (ins (ins (ins 0x58000000 sa.val 19) sb.val 13) sc.val 7) (fmCode fm) 2
  | .tquery sa sb sc fm => ins (ins (ins (ins 0x58000001 sa.val 19) sb.val 13) sc.val 7) (fmCode fm) 2
  | .tzero ad id p1 p2 => ins (ins (ins (ins 0x5A000000 ad.val 23) id.val 12) p1.val 7) p2.val 2
  | .tldw sa id p1 p2 => ins (ins (ins (ins 0x5A000001 sa.val 17) id.val 12) p1.val 7) p2.val 2
  | .tmma ad sa id p1 p2 => ins (ins (ins (ins (ins 0x5A000002 ad.val 23) sa.val 17) id.val 12) p1.val 7) p2.val 2
  | .tst ad sa id p1 p2 => ins (ins (ins (ins (ins 0x5A000003 ad.val 23) sa.val 17) id.val 12) p1.val 7) p2.val 2
  | .tadd ad sa id p1 p2 => ins (ins (ins (ins (ins 0x5C000000 ad.val 23) sa.val 17) id.val 12) p1.val 7) p2.val 2
  | .tsave ad sa id p1 p2 => ins (ins (ins (ins (ins 0x5C000001 ad.val 23) sa.val 17) id.val 12) p1.val 7) p2.val 2
  | .trest ad sa id p1 p2 => ins (ins (ins (ins (ins 0x5C000002 ad.val 23) sa.val 17) id.val 12) p1.val 7) p2.val 2
  | .tstb ad sa id p1 p2 => ins (ins (ins (ins (ins 0x5C000003 ad.val 23) sa.val 17) id.val 12) p1.val 7) p2.val 2
  | .tvget vd ad sb id => ins (ins (ins (ins 0x5E000000 vd.val 20) ad.val 18) sb.val 12) id.val 7
  | .tvset vd ad sb id => ins (ins (ins (ins 0x5E000001 vd.val 20) ad.val 18) sb.val 12) id.val 7
  | .twait id => ins 0x5E000002 id.val 7
  | .tfree ad id => ins (ins 0x5E000003 ad.val 18) id.val 7
  | .cpLd sa sb nb bx xs => ins (ins (ins (ins (ins 0x60000000 sa.val 19) sb.val 13) nb.val 9) (boxCode bx) 7) (farCode xs) 5
  | .cpSt sa sb nb bx xs => ins (ins (ins (ins (ins 0x60000001 sa.val 19) sb.val 13) nb.val 9) (boxCode bx) 7) (farCode xs) 5
  | .cpPut sa sb nb bx => ins (ins (ins (ins 0x60000042 sa.val 19) sb.val 13) nb.val 9) (boxCode bx) 7
  | .cpLdr sa sb rg bx xs => ins (ins (ins (ins (ins 0x60000003 sa.val 19) sb.val 13) rg.val 9) (boxCode bx) 7) (farCode xs) 5
  | .cpnestRun sd sa nb => ins (ins (ins 0x62000000 sd.val 19) sa.val 13) nb.val 0
  | .cpnestStop sa => ins 0x62000400 sa.val 13
  | .cpnestStat sd sa => ins (ins 0x62000800 sd.val 19) sa.val 13
  | .cpGath kd vb sa sb nb => ins (ins (ins (ins (ins 0x64000000 kd.val 21) vb.val 16) sa.val 10) sb.val 4) nb.val 0
  | .rdef sa rg => ins (ins 0x66000000 sa.val 13) rg.val 0
  | .rres sd sa rg => ins (ins (ins 0x66000400 sd.val 19) sa.val 13) rg.val 0
  | .rpub sa rg => ins (ins 0x66000800 sa.val 13) rg.val 0
  | .rpop sd rg => ins (ins 0x66000C00 sd.val 19) rg.val 0
  | .rrel sa rg => ins (ins 0x66001000 sa.val 13) rg.val 0
  | .rstat sd rg => ins (ins 0x66001400 sd.val 19) rg.val 0
  | .binit sa nb => ins (ins 0x68000000 sa.val 13) nb.val 0
  | .barr nb => ins 0x68000400 nb.val 0
  | .bwait sd sa nb => ins (ins (ins 0x68000800 sd.val 19) sa.val 13) nb.val 0
  | .btest sd nb => ins (ins 0x68000C00 sd.val 19) nb.val 0
  | .binval nb => ins 0x68001000 nb.val 0
  | .mkTas sd mk => ins (ins 0x6A000000 sd.val 19) mk.val 0
  | .mkTasnb sd mk => ins (ins 0x6A000400 sd.val 19) mk.val 0
  | .mkFadd sd sa mk => ins (ins (ins 0x6A000800 sd.val 19) sa.val 13) mk.val 0
  | .mkRd sd mk => ins (ins 0x6A000C00 sd.val 19) mk.val 0
  | .mkWr sa mk => ins (ins 0x6A001000 sa.val 13) mk.val 0
  | .mkClr mk => ins 0x6A001400 mk.val 0
  | .dsTas sd ds => ins (ins 0x6C000000 sd.val 19) ds.val 0
  | .dsFadd sd sa ds => ins (ins (ins 0x6C000400 sd.val 19) sa.val 13) ds.val 0
  | .dsRd sd ds => ins (ins 0x6C000800 sd.val 19) ds.val 0
  | .dsWr sa ds => ins (ins 0x6C000C00 sa.val 13) ds.val 0
  | .dsWeq sa ds => ins (ins 0x6C001000 sa.val 13) ds.val 0
  | .bar sc n => ins (ins 0x6E000000 (barScopeCode sc) 7) n.val 0
  | .fence sc kd => ins (ins 0x6E000400 (scopeCode sc) 7) (fKindCode kd) 0
  | .twstart vd va sb tw => ins (ins (ins (ins 0x70000000 vd.val 20) va.val 15) sb.val 9) tw.val 7
  | .twret va => ins 0x70000001 va.val 15
  | .twstop => 0x70000002
  | .twcut vd va sb => ins (ins (ins 0x70000003 vd.val 20) va.val 15) sb.val 9
  | .twadopt vd sb => ins (ins 0x70000004 vd.val 20) sb.val 9
  | .twdef sa g tw => ins (ins (ins 0x72000000 sa.val 13) g.toNat 2) tw.val 0
  | .twstat sd tw => ins (ins 0x72000400 sd.val 19) tw.val 0
  | .rdenter => 0x74000000
  | .rdexit => 0x74000400
  | .qsp => 0x74000800
  | .gstart sd sc => ins (ins 0x74000C00 sd.val 19) (gScopeCode sc) 7
  | .wgrace sa sc => ins (ins 0x74001000 sa.val 13) (gScopeCode sc) 7
  | .gpoll sd sc => ins (ins 0x74001400 sd.val 19) (gScopeCode sc) 7
  | .defer sd sa sc cls => ins (ins (ins (ins 0x74001800 sd.val 19) sa.val 13) (gScopeCode sc) 7) cls.toNat 0
  | .spawn sd sa => ins (ins 0x76000000 sd.val 19) sa.val 13
  | .join => 0x76000400
  | .rgive n => ins 0x76000800 n.val 0
  | .rclaim n => ins 0x76000C00 n.val 0
  | .mtsrp sa num => ins (ins 0x78000000 sa.val 13) num.toNat 0
  | .iret => 0x78000400
  | .segld sd sa sp => ins (ins (ins 0x78000800 sd.val 19) sa.val 13) (spaceCode sp) 0
  | .tlbinv sa asid => ins (ins 0x78000C00 sa.val 13) asid.toNat 0
  | .halt => 0x78001000
  | .instructionFetch .. => 0
  | .powerOn => 0
  | .firmwareAuthentication .. => 0
  | .earlyServiceCompletion .. => 0
  | .hostMemoryRead .. => 0
  | .hostMemoryWrite .. => 0
  | .notification .. => 0
  | .queueMap .. => 0
  | .queueUnmap .. => 0
  | .queueTimeShareExpiry .. => 0
  | .pendingBitService .. => 0
  | .placement .. => 0
  | .gangCompletion .. => 0
  | .successorInsertion .. => 0
  | .preemptionTimeout .. => 0
  | .contextSave .. => 0
  | .contextRestore .. => 0
  | .ageQueueJoin .. => 0
  | .sleepDeadline .. => 0
  | .copyCompletion .. => 0
  | .putPacketArrival .. => 0
  | .putSignal .. => 0
  | .tileCommandRetire .. => 0
  | .nodePresentation .. => 0
  | .mirrorUpdate .. => 0
  | .replCommit => 0
  | .graceCompletion .. => 0
  | .freedRingRecheck .. => 0
  | .slowGrace .. => 0
  | .correctedError .. => 0
  | .correctedErrorHoldExpiry .. => 0
  | .uncorrectableRetry .. => 0
  | .shadowDivergence .. => 0
  | .barrierWatchdogExpiry .. => 0
  | .gangKill .. => 0
  | .flitReplay .. => 0
  | .edgeDown .. => 0
  | .iftStart .. => 0
  | .iftTestBegin .. => 0
  | .iftTestEnd .. => 0
  | .keyLoad .. => 0
  | .keyClear .. => 0
  | .keyBadCommand .. => 0
  | .keyCommandCompletion => 0
  | .relSizeWrite .. => 0
  | .relStatOvfClear .. => 0
  | .policyDefaultWrite .. => 0
  | .registerWrite .. => 0
  | .registerUserQueue .. => 0
  | .registerPrivilegedQueue .. => 0
  | .unregisterQueue .. => 0
  | .configurePartition .. => 0
  | .partitionReset .. => 0
  | .partitionTeardown .. => 0
  | .assignAsid .. => 0
  | .retireAsid .. => 0
  | .retireCore .. => 0
  | .restoreCore .. => 0
  | .attestationReport .. => 0
  | .clockStep .. => 0
  | .setBarrierCounts .. => 0
  | .openPutWindow .. => 0
  | .closePutWindow .. => 0
  | .setMod .. => 0
  | .registerFreedRing .. => 0
  | .invalidateTranslations .. => 0
  | .answerFaultService .. => 0
  | .resumeGangs .. => 0
  | .killGangs .. => 0
  | .illegalOp .. => 0
  | .hcallReply .. => 0
  | .powerRemoval => 0
  | .unknownMailboxService .. => 0

/-- The words of an instruction (R14, R17): the low literal word of lit64 comes first (R83). No word for an act. -/
def encode (i : Instr) : List Word :=
  if i.isWord then
    BitVec.ofNat 32 (encodeNat i) ::
      match i with
      | .lit _ v => [v]
      | .lit64 _ v => [v.extractLsb' 0 32, v.extractLsb' 32 32]
      | _ => []
  else []

end Sys2Proof
end

