-- ==== Sys2Proof/Machine/Aes.lean ====
section
/-! DEFINITION. AES-256 (FIPS 197) in the XTS mode of IEEE 1619 over a data unit of 32 bytes, as R180 names them, with the keys
as the KDATA registers hold them (R357). A block is its 16 bytes in order; byte 4 c + r stands in row r of column c. -/

namespace Sys2Proof.Machine

/-- The number that bytes form, least significant first (R21). -/
def leNat : List Byte → Nat
  | [] => 0
  | b :: bs => b.toNat + 256 * leNat bs

/-- The S-box and its inverse as numbers of 256 bytes, entry 0 least significant. -/
def aesBox : Nat := 0x16bb54b00f2d99416842e6bf0d89a18cdf2855cee9871e9b948ed9691198f8e19e1dc186b95735610ef6034866b53e708a8bbd4b1f74dde8c6b4a61c2e2578ba08ae7a65eaf4566ca94ed58d6d37c8e779e4959162acd3c25c2406490a3a32e0db0b5ede14b8ee4688902a22dc4f816073195d643d7ea7c41744975fec130ccdd2f3ff1021dab6bcf5389d928f40a351a89f3c507f02f94585334d43fbaaefd0cf584c4a39becb6a5bb1fc20ed00d153842fe329b3d63b52a05a6e1b1a2c830975b227ebe28012079a059618c323c7041531d871f1e5a534ccf73f362693fdb7c072a49cafa2d4adf04759fa7dc982ca76abd7fe2b670130c56f6bf27b777c63

def aesBoxInv : Nat := 0x7d0c2155631469e126d677ba7e042b17619953833cbbebc8b0f52aae4d3be0a0ef9cc9939f7ae52d0d4ab519a97f51605fec8027591012b131c7078833a8dd1ff45acd78fec0db9a2079d2c64b3e56fc1bbe18aa0e62b76f89c5291d711af1476edf751ce837f9e28535ade72274ac9673e6b4f0cecff297eadc674f4111913a6b8a130103bdafc1020f3fca8f1e2cd00645b3b80558e4f70ad3bc8c00abd890849d8da75746155edab9edfd5048706c92b6655dcc5ca4d41698688664f6f87225d18b6d49a25b76b224d92866a12e084ec3fa420b954cee3d23c2a632947b54cbe9dec444438e3487ff2f9b8239e37cfbd7f3819ea340bf38a53630d56a0952

/-- Entry `b` of a table of 256 bytes. -/
def aesSub (table : Nat) (b : Byte) : Byte := BitVec.ofNat 8 (table >>> (8 * b.toNat))

/-- `b` times x in the field of 256 elements. -/
def aesTimes (b : Byte) : Byte := (b <<< 1) ^^^ (if b.msb then 0x1B else 0)

/-- `b` times `k`, of which four bits count. -/
def aesMul (k : Nat) (b : Byte) : Byte :=
  let b2 := aesTimes b
  let b4 := aesTimes b2
  (if k.testBit 0 then b else 0) ^^^ (if k.testBit 1 then b2 else 0) ^^^ (if k.testBit 2 then b4 else 0) ^^^
  (if k.testBit 3 then aesTimes b4 else 0)

def xorBytes (x y : List Byte) : List Byte := List.zipWith (· ^^^ ·) x y

/-- Row r moves left by r columns, or by `4 - r` in the inverse. -/
def aesShift (back : Bool) (b : List Byte) : List Byte :=
  (List.range 16).map (fun i =>
    let r := i % 4
    b.getD (r + 4 * ((i / 4 + (if back then 4 - r else r)) % 4)) 0)

/-- Each column times the circulant matrix whose first row is `c`. -/
def aesMix (c : List Nat) (b : List Byte) : List Byte :=
  (List.range 16).map (fun i =>
    (List.range 4).foldl (fun x j => x ^^^ aesMul (c.getD ((j + 4 - i % 4) % 4) 0) (b.getD (4 * (i / 4) + j) 0)) 0)

/-- One more word of the key schedule; the words made so far are listed newest first. -/
def aesNextWord (ws : List (List Byte)) : List (List Byte) :=
  let i := ws.length
  let p := ws.headD []
  let t :=
    if i % 8 = 0 then xorBytes ((p.drop 1 ++ p.take 1).map (aesSub aesBox)) [BitVec.ofNat 8 (2 ^ (i / 8 - 1)), 0, 0, 0]
    else if i % 8 = 4 then p.map (aesSub aesBox)
    else p
  xorBytes (ws.getD 7 []) t :: ws

/-- The 15 round keys of a key of 32 bytes. -/
def aesRoundKeys (key : List Byte) : List (List Byte) :=
  let first := (List.range 8).map (fun i => (key.drop (4 * i)).take 4)
  let ws := ((List.range 52).foldl (fun ws _ => aesNextWord ws) first.reverse).reverse
  (List.range 15).map (fun r => ((ws.drop (4 * r)).take 4).flatten)

/-- Encrypt a block under round keys. -/
def aesEncrypt (ks : List (List Byte)) (b : List Byte) : List Byte :=
  (List.range 14).foldl (fun x r =>
    let y := aesShift false (x.map (aesSub aesBox))
    xorBytes (if r = 13 then y else aesMix [2, 3, 1, 1] y) (ks.getD (r + 1) [])) (xorBytes b (ks.getD 0 []))

/-- Decrypt a block under round keys. -/
def aesDecrypt (ks : List (List Byte)) (b : List Byte) : List Byte :=
  (List.range 14).foldr (fun r x =>
    let y := xorBytes x (ks.getD (r + 1) [])
    (aesShift true (if r = 13 then y else aesMix [14, 11, 13, 9] y)).map (aesSub aesBoxInv)) b
  |> xorBytes (ks.getD 0 [])

/-- The next block's tweak. -/
def xtsNext (t : List Byte) : List Byte :=
  let n := leNat t
  bytesOfNat 16 ((2 * n) ^^^ (if n.testBit 127 then 0x87 else 0))

/-- XTS of one unit of 32 bytes at physical address `a`: the data key is KDATA0 to KDATA3, the tweak key KDATA4 to KDATA7, each
least significant byte first (R180, R357; log entry 21). -/
def xtsUnit (decrypt : Bool) (key : List DWord) (a : Nat) (bs : List Byte) : List Byte :=
  let kb := fun (ks : List DWord) => aesRoundKeys (ks.flatMap (fun k => bytesOfNat 8 k.toNat))
  let data := kb (key.take 4)
  let t0 := aesEncrypt (kb ((key.drop 4).take 4)) (bytesOfNat 16 a)
  let block := fun (t x : List Byte) =>
    xorBytes ((if decrypt then aesDecrypt data else aesEncrypt data) (xorBytes x t)) t
  block t0 (bs.take 16) ++ block (xtsNext t0) (bs.drop 16)

end Sys2Proof.Machine
end

