-- ==== Sys2Proof/Machine/State.lean ====
section
/-! DEFINITION. The state of the package: everything the spec gives the machine, as plain data, and the machine right after
reset. Numbers that the spec adds, shifts or shows as a word are bit vectors of the spec's width; counts, times and
addresses that are being computed are natural numbers. INVENTORY.md lists each field with its rule and its reset value. -/

namespace Sys2Proof.Machine

/-- Memory: pairs of address and byte, addresses rising, no byte 0 listed; an unlisted address reads 0 (R166; log entry 4). -/
abbrev Mem := List Host.Cell

/-! ## Bytes on their way -/

/-- Where a run of bytes lies: device physical memory under a key, with whether its page has replicas (R174, R178, R180), host memory,
die memory, or a scratchpad. The empty list stands for no key. -/
inductive Place where
  | phys (pa : Nat) (key : List DWord) (repl : Bool)
  | host (pa : Nat)
  | die (d : Fin 4) (a : Nat)
  | scratch (d : Fin 4) (q : Fin 36) (a : Nat)
  deriving DecidableEq, Repr

/-- A reliability record (R331) without its time. -/
structure Record where
  type   : BitVec 16
  sev    : BitVec 8
  flags  : BitVec 8
  count  : BitVec 32
  loc    : Loc
  asid   : BitVec 16
  part   : BitVec 8
  policy : BitVec 8
  task   : DWord
  wave   : BitVec 32
  pc     : BitVec 32
  addr   : DWord
  data0  : DWord
  data1  : DWord
  deriving DecidableEq, Repr

/-- A store of a wave that its lanes have executed and that is not yet performed for other agents (R109, R199): the lanes whose event it
is, its place and bytes, the record that it makes where it covers part of a poisoned granule, the vector words issued since, and whether a load of the wave has seen it
(R201). -/
structure LateStore where
  lanes : BitVec 64
  place : Place
  bytes : List Byte
  note  : Record
  steps : Nat
  seen  : Bool
  deriving DecidableEq, Repr

/-- An element of a vector load that its lane may still perform anew, no word having named its register since (R109, R199; log entry 89): where
its bytes lie, and the vector words issued since. -/
structure LateLoad where
  lane  : Lane
  vd    : VReg
  place : Place
  len   : Nat
  steps : Nat
  deriving DecidableEq, Repr

/-- A lasting shadow divergence that is due (R311, R328): its %tinfo, and the address of the word of a vector event. -/
structure ShadowDue where
  info : BitVec 64
  pc   : Option DWord
  deriving DecidableEq, Repr

/-- A 32-byte line of an L1 (R173): the key under which it was read and its bytes. -/
structure L1Line where
  key   : List DWord
  bytes : List Byte
  deriving DecidableEq, Repr

/-! ## A wave -/

/-- One of a wave's five segments (R164). -/
structure Segment where
  base  : DWord
  limit : DWord
  deriving DecidableEq, Repr

structure Segments where
  g : Segment
  d : Segment
  q : Segment
  c : Segment
  l : Segment
  deriving DecidableEq, Repr

/-- What a blocked run waits for (R102, R279), with the operands its effect needs. -/
inductive Wait where
  | mkTas (sd : SReg) (mk : Fin 64)
  | dsWeq (ds : Fin 1024) (v : Word)
  | bwait (sd : SReg) (nb : Fin 16) (t : BitVec 16)
  | rres (sd : SReg) (rg : Fin 8) (n : Nat)
  | rpop (sd : SReg) (rg : Fin 8)
  | twait (id : Fin 32)
  | wgrace (sc : GScope) (t : Word)
  | join
  | rclaim (n : Nat)
  | lock (owner : Option Nat)   -- the interlock entry of a walk of the wave, or any of its eight (R279)
  | commits         -- atomics of the run on REPL pages, whose results are there once they are committed (R203)
  | withdrawn       -- saved or frozen as blocked: the word is executed again on resumption (R113, R312)
  deriving DecidableEq, Repr

/-- A wait in progress: its place in the order of arrival, and the time at which its watchdog timer started (R335). -/
structure Waiting where
  what  : Wait
  order : Nat
  start : Nat
  deriving DecidableEq, Repr

/-- Kinds of PC table entries (R98). -/
inductive Kind where
  | normal | handler | walk
  deriving DecidableEq, Repr

/-- The three words of a packet, as fetched and patched (R14, R22, R57). -/
structure Packet where
  w0 : Word
  w1 : Word
  w2 : Word
  deriving DecidableEq, Repr

/-- An entry of the PC table (R98). `buf` holds the entry's packet once it is fetched (R22); `tied` says that the entry stands
inside a tie group whose earlier words have issued (R15). -/
structure Entry where
  pc   : DWord
  kind : Kind
  mask : BitVec 64
  wait : Option Waiting
  buf  : Option Packet
  tied : Bool
  deriving DecidableEq, Repr

/-- The mode bit (R12). -/
inductive Mode where
  | normal | handler
  deriving DecidableEq, Repr

/-- Waits that block the whole wave (R102, R316). -/
inductive WaveWait where
  | none
  | sleep (deadline : Nat)
  | hcall (sd : SReg)
  | bar (sc : BarScope) (n : Fin 32) (start : Nat)
  | service (tag : BitVec 16)
  | stopped           -- an undelivered trap has stopped the wave (R28)
  | declined (cause : BitVec 8) (va : Nat) (hidden : Bool)   -- answered while swapped out: the trap follows on restoration (R318)
  deriving DecidableEq, Repr

/-- Special registers that a wave holds (R37). The ones that follow from the wave's place or the partition are computed. -/
structure Special where
  vl     : BitVec 7
  vstart : BitVec 16
  slip   : BitVec 3
  cvt    : BitVec 24
  flags  : BitVec 6
  lfm    : BitVec 64
  pmask  : BitVec 64
  st     : Vector DWord 4
  reqM   : DWord
  reqN   : DWord
  reqK   : DWord
  gf     : BitVec 5
  gm     : BitVec 9
  gn     : BitVec 9
  gk     : BitVec 9
  vm     : BitVec 9
  vn     : BitVec 9
  vk     : BitVec 9
  tlda   : DWord
  tldb   : DWord
  tldc   : DWord
  bx0    : BitVec 48
  bx1    : DWord
  cpld   : DWord
  cprow  : BitVec 32
  sig0   : DWord
  sig1   : BitVec 32
  twd    : BitVec 32
  rdep   : BitVec 8
  thb    : DWord
  tcause : BitVec 8
  tpc    : DWord
  tinfo  : DWord
  tmask  : DWord
  deriving DecidableEq, Repr

/-- Identity and placement registers (R145, R309), and where the wave physically is. -/
structure Ident where
  wave   : Fin 16
  wg     : Fin 4
  role   : Fin 16
  task   : DWord
  asid   : BitVec 16
  depth  : BitVec 4
  part   : Fin 8
  priv   : Bool
  eff    : BitVec 4
  quad   : Fin 64       -- logical quad
  die    : Fin 4        -- logical die
  place  : CoreId       -- physical core
  slot   : Fin 16
  gang   : Nat
  eprio  : Fin 8
  deriving DecidableEq, Repr

/-- A range of bytes in one space as the interlock table compares them (R225). -/
structure Range where
  sp : Space
  die : Nat     -- the segment's die, for .d
  lo : Nat
  hi : Nat
  deriving DecidableEq, Repr

/-- An entry of the interlock table: the transfer that holds it and its two ranges (R225). -/
structure Interlock where
  owner : Nat
  src   : Option Range
  dst   : Option Range
  deriving DecidableEq, Repr

/-- Tile commands as the sequencer takes them (R251): those that go on row by row, and those that take effect in one step, the last being
those of format TG. -/
inductive TileOp where
  | ldw | mma | st | stb | one | reg
  deriving DecidableEq, Repr

/-- Where R256 stopped a command: the element, and what is held of its row below it: the codes, the block scales, and whether a granule
read was poisoned (R257). -/
structure HeldRow where
  elem : Nat
  kept : List Nat
  pois : Bool
  deriving DecidableEq, Repr

/-- A tile command in flight (R251, R253): its word and address, its id, the numbers of the commands that it depends on, what it latched, its row steps and how many of
them it has taken, the flags of those rows, which are merged when it retires, and whether it has an interlock entry to free. -/
structure TileCmd where
  num   : Nat
  op    : TileOp
  word  : Word
  pc    : DWord
  id    : Fin 32
  deps  : List Nat
  base  : DWord
  geom  : List Nat
  cvt   : BitVec 24
  rows  : Nat
  next  : Nat
  flags : BitVec 6
  lock  : Bool
  held  : Option HeldRow
  deriving DecidableEq, Repr

/-- A node type of a latched layout table (R273). -/
structure NodeType where
  enter   : BitVec 32
  prune   : BitVec 32
  leave   : BitVec 32
  wide    : Bool
  counted : Bool
  nchild  : Nat
  cntOff  : Nat
  ptrOff  : Nat
  pstride : Nat
  keyOff  : Nat
  keyLen  : Nat
  deriving DecidableEq, Repr

/-- A bound tree slot: its latched table (R272) and its counts (R289). -/
structure TreeSlot where
  tagW     : Nat
  tagOff   : Nat
  inD      : Bool
  cap      : Nat
  codeBase : DWord
  treeBase : DWord
  types    : List NodeType
  enters   : BitVec 16
  prunes   : BitVec 16
  leaves   : BitVec 16
  skipped  : BitVec 16
  deriving DecidableEq, Repr

/-- Where a lane's walk stands (R279 to R283). -/
inductive WalkPhase where
  | idle                    -- not in a walk; the object stays bound
  | due                     -- the engine owes the lane its next Step
  | enter | prune (c : Fin 32) | leave   -- presented, waiting for `twret`
  deriving DecidableEq, Repr

/-- The bound object of a lane (R275) and its pending step (R291). -/
structure WalkLane where
  obj   : Nat
  cap   : Nat
  vd    : VReg
  slot  : Fin 4
  lock  : Nat
  back  : DWord             -- address of the `twstart` or `twadopt`
  kind  : Kind              -- kind of the entry that executed it
  phase : WalkPhase
  child : Nat               -- in enter: the present children; in prune: the child's node offset, its type above bit 32
  stall : Option (BitVec 16)
  deriving DecidableEq, Repr

/-! ## The matrix unit -/

inductive AccType where
  | f32 | i32
  deriving DecidableEq, Repr

/-- An accumulator (R249); `el` has key 64 * row + column. -/
structure Accum where
  live : Bool
  type : AccType
  hm   : Nat
  hn   : Nat
  pois : Bool
  el   : List (Nat × Word)
  deriving DecidableEq, Repr

/-- A weight bank (R250); `w` and `sc` have key 256 * row + column. -/
structure Bank where
  complete : Bool
  wf    : Nat
  lgk   : Nat
  lgn   : Nat
  lvk   : Nat
  lvn   : Nat
  pois  : Bool
  w     : List (Nat × Nat)
  sc    : List (Nat × Nat)
  deriving DecidableEq, Repr

/-- What the check of R327 needs of the sums that a `tmma` of a block format has made in one step: the command's number, its first row, and the
elements of its accumulator before them. -/
structure BlockSums where
  num : Nat
  row : Nat
  el  : List (Nat × Word)
  deriving DecidableEq, Repr

/-- The accumulators (R249), weight banks (R250) and pending release (R248) of a matrix unit. -/
structure MatrixState where
  acc     : Vector Accum 4
  shadow  : Bank
  active  : Bank
  fresh   : Bool
  turned  : Nat
  freeing : Bool
  deriving DecidableEq, Repr

/-- A TLB entry (R315): the ASID, the page's virtual base and size, and the leaf. -/
structure TlbEntry where
  asid : Nat
  va   : Nat
  size : Nat
  pte  : DWord
  deriving DecidableEq, Repr

/-- A word of a wave's lane groups that some of them have still to execute (R109; log entry 104): the instruction and its word, its address and kind of
run, those lanes, the scalar registers and the translations of its issue, and the vector words issued since. -/
structure LagWord where
  ins   : Instr
  word  : Word
  pc    : DWord
  kind  : Kind
  lanes : BitVec 64
  s     : Vector DWord 64
  tlb   : List TlbEntry
  steps : Nat
  deriving DecidableEq, Repr

structure Wave where
  live   : Bool
  s      : Vector DWord 64
  k      : Vector (BitVec 64) 16
  v      : Vector (Vector Word 64) 32
  run    : Entry                -- the entry that issues; of no meaning when `live` is false
  rest   : List Entry           -- the other entries of the PC table
  mode   : Mode
  sr     : Special
  id     : Ident
  seg    : Segments
  blocks : Fin 5
  dirty  : BitVec 32
  hw     : Vector (Fin 64) 32
  locks  : List Interlock
  tiles  : List TileCmd         -- oldest first
  slots  : List (Nat × TreeSlot)
  walks  : List (Nat × WalkLane)
  kids   : BitVec 16            -- outstanding children (R161)
  exit   : BitVec 32
  wait   : WaveWait
  held   : Bool                 -- the last tie group could not issue (R20)
  ready  : Nat                  -- cycles ready without being chosen, at most 4,096 (R160)
  begun  : Bool                 -- a packet has been fetched since the wave started (R13)
  shadow : List ShadowDue       -- divergences that are due: of an array at the next tie group, else at their word (R311)
  unit   : Option MatrixState   -- the matrix unit's state while the gang is swapped out (R320, R321)
  late   : List LateStore       -- stores of its lanes not yet performed, oldest first (R109, R199)
  loads  : List LateLoad        -- loads of its lanes that may still be performed (R109, R199)
  lag    : List LagWord         -- words that some of its lane groups have still to execute, oldest first (R109)
  deriving DecidableEq, Repr

/-! ## Gangs -/

/-- The fields of a task record that the device reads (R146). -/
structure TaskRecord where
  entry   : DWord
  patch   : DWord
  npatch  : Nat
  profile : Nat
  cls     : Nat
  prio    : Nat
  policy  : Nat
  flags   : BitVec 16
  wg      : Nat
  waves   : Nat
  vlreq   : Nat
  vregs   : Nat
  rings   : Nat
  nbars   : Nat
  zero1   : Nat
  scratch : Nat
  rolemap : BitVec 64
  arglen  : BitVec 32
  args    : DWord
  gbase   : DWord
  glim    : DWord
  dbase   : DWord
  dlim    : DWord
  lbase   : DWord
  llim    : DWord
  preds   : Nat
  nsucc   : Nat
  zero2   : Nat
  succ    : DWord
  compl   : DWord
  asid    : Nat
  part    : Nat
  homedie : Nat
  zero3   : Nat
  thb     : DWord
  twd     : BitVec 32
  zero4   : Nat
  cbase   : DWord
  clim    : DWord
  deriving DecidableEq, Repr

/-- A named barrier (R216). -/
structure NamedBar where
  valid : Bool
  exp   : BitVec 16
  arr   : BitVec 16
  phase : BitVec 16
  pend  : BitVec 16
  deriving DecidableEq, Repr

/-- States of a ring slot (R237). -/
inductive SlotState where
  | free | reserved | filling | published | popped | released
  deriving DecidableEq, Repr

/-- A ring (R237). -/
structure Ring where
  made  : Bool
  slots : Nat
  bytes : Nat
  base  : Nat
  res   : BitVec 14
  fill  : BitVec 14
  con   : BitVec 14
  free  : BitVec 14
  err   : Bool
  st    : List (Nat × SlotState)
  ldr   : Nat
  deriving DecidableEq, Repr

/-- An entry of the patch table in force (R55). -/
structure Patch where
  word  : Nat
  kind  : Nat
  value : DWord
  deriving DecidableEq, Repr

/-- A wave that has exited: its exit code and final %lfm (R148). -/
structure Exited where
  wg   : Nat
  wave : Nat
  code : BitVec 32
  lfm  : BitVec 64
  deriving DecidableEq, Repr

structure Gang where
  live    : Bool
  record  : TaskRecord
  task    : DWord
  asid    : Nat
  part    : Fin 8
  depth   : Nat
  priv    : Bool
  parent  : Option Nat          -- the wave that spawned the task
  stash   : Nat                 -- number of the task's Stash entry
  place   : Option (Fin 4 × Fin 36 × List (Fin 4))   -- die, quad, core of each workgroup; none while swapped out
  qbase   : Nat
  segDie  : Fin 4               -- physical die of the .d segment (R169)
  start   : Option Nat               -- when it issued first, from which CYCLES counts (R148, R341)
  insert  : Nat
  eprio   : Fin 8
  seq     : Nat                 -- order of placement; while swapped out, of saving
  bars    : List (Nat × NamedBar)    -- key 16 * workgroup + barrier
  rings   : List (Nat × Ring)
  pool    : List (Nat × Nat)         -- free blocks of each workgroup
  hwm     : Nat                      -- .q high-water mark
  patches : List Patch
  frozen  : Bool
  halt    : Option (BitVec 16)       -- cause of a freeze that waits until the gang has stopped and drained (R312, R333)
  contain : Option (BitVec 16)       -- cause of the containment event that decided (R333)
  relaunched : Bool
  exits   : List Exited
  last    : Nat                      -- when its last wave exited
  image   : Option (Nat × Nat)       -- address and size of the context image while swapped out (R320)
  qsave   : Mem                      -- its .q bytes while swapped out
  qpois   : List (Nat × Bool)        -- and the poison of their words
  issued  : Bool                     -- the gang has issued since its launch or restoration (R338)
  stopping : Option Nat              -- the task for which it is being pre-empted (R159)
  kill    : Option (BitVec 16 × BitVec 8)   -- cause and policy of a kill that is under way (R334)
  release : Option Nat               -- the next successor, once the completion record is written (R154)
  stall   : Option (BitVec 16)       -- the successor step waits for the host (R154, R316)
  deriving DecidableEq, Repr

/-! ## Cores, quads, dies -/

structure Core where
  groups : BitVec 4            -- the physical lane groups that work (R108)
  half   : Bool
  owner  : Option Nat
  freeing : Bool               -- the owner has given the unit up; it is free when its commands have retired (R248)
  acc    : Vector Accum 4
  shadow : Bank
  active : Bank
  fresh  : Bool                -- the shadow bank is the latest `tldw`, not yet made active (R250)
  turned : Nat                 -- the number of the `tmma` that made the active bank active: those before it read the other one (R250)
  sums   : Option BlockSums    -- of the latest such command of the unit
  ageq   : List Nat
  order  : List Nat             -- the slots of the round robins of R160, the one that issued last at the back; a slot that is not listed comes first
  l1     : List (Nat × L1Line)  -- key: 32-byte line (R173)
  tlb    : List TlbEntry
  deriving DecidableEq, Repr

/-- A stream of a quad copy engine (R227): the transfer it carries, or what the last nest left (R235). -/
structure Stream where
  busy  : Option Nat
  gang  : Nat
  boxes : BitVec 32
  stat  : Fin 4
  deriving DecidableEq, Repr

structure Quad where
  marks   : List (Nat × Word)
  scratch : Mem
  clean   : List (Nat × Bool)     -- key: 256-byte block
  poison  : List (Nat × Bool)     -- key: word
  streams : List (Nat × Stream)
  served  : Nat                   -- the stream whose row moved last: the round robin of R227
  placed  : BitVec 32             -- COUNT of the dispatch log (R337)
  tpass   : BitVec 64             -- TPASS; the log itself lies in device memory
  testReq : Bool
  testing : Bool
  deriving DecidableEq, Repr

/-- A corrected error held for merging (R330): its place and address, the time of the first, and the record's other fields. -/
structure HeldError where
  loc   : Loc
  addr  : Nat
  time  : Nat
  count : BitVec 32
  data  : BitVec 64
  synd  : BitVec 64
  deriving DecidableEq, Repr

/-- An entry of the selvedge buffer (R338). -/
structure Selvedge where
  time  : BitVec 64
  seq   : BitVec 32
  kind  : BitVec 8
  cause : BitVec 8
  asid  : BitVec 16
  loc   : BitVec 32
  wave  : BitVec 32
  task  : BitVec 64
  deriving DecidableEq, Repr

structure Die where
  state   : BitVec 8
  rev     : BitVec 8
  fused   : BitVec 144
  retired : BitVec 144
  topo    : BitVec 34
  relBase : BitVec 42
  relSize : BitVec 5
  relHead : BitVec 32
  relTail : BitVec 32
  ovf     : Bool
  dropped : BitVec 32
  ovfBefore : Bool
  held    : List HeldError
  selvBase : BitVec 33
  selv    : List Selvedge         -- newest first, at most 256
  selvSeq : BitVec 32
  policy  : BitVec 2
  iftQuad : BitVec 6
  iftLast : BitVec 6
  iftFail : Bool
  iftPass : Bool
  iftBusy : Bool
  kop     : BitVec 2
  kpart   : BitVec 3
  kslot   : BitVec 14
  kresult : BitVec 3
  kbusy   : Bool
  kdata   : Vector DWord 8
  fwMeas  : List Byte
  mem     : Mem
  poison  : List (Nat × Bool)     -- key: word
  deriving DecidableEq, Repr

/-! ## Partitions, queues, the Stash, graces -/

/-- A new value of a die sync register on its way to the mirror on a logical die (R212): the number of its home operation, the logical dies
whose agents have seen it, so that their releases at .pkg wait for it (R194, R202), and whether it must arrive before the step is over. -/
structure Update where
  num   : Nat
  die   : Nat
  reg   : Nat
  value : Word
  seen  : List Nat
  force : Bool
  deriving DecidableEq, Repr

/-- A reset, or where `down` is set a teardown, that waits for its kills, and the TAG of the request for it; a reset that an edge makes has none
(R346, R351). -/
structure Ending where
  tag  : Option (BitVec 16)
  down : Bool
  deriving DecidableEq, Repr

structure Partition where
  made    : Bool
  cfg     : PartConfig
  early   : Bool
  gen     : BitVec 32
  pkgBar  : List (Nat × BitVec 16)
  dieBar  : List (Nat × BitVec 16)    -- key 32 * die + barrier
  gwarn   : BitVec 32
  ds      : List (Nat × Word)
  mirror  : List (Nat × Word)         -- key 1024 * die + register
  updates : List Update               -- on the way, oldest first
  windows : List PutWindow
  ending  : List Ending               -- oldest first
  deriving DecidableEq, Repr

structure Queue where
  desc    : Nat
  asid    : Nat
  part    : Fin 8
  priv    : Bool
  mapped  : Bool
  joining : Bool                      -- its mapping has still to read and clear NOTIFYW (R150)
  pending : Bool
  dead    : Bool                      -- unmapped by R151 until registered again
  mapTime : Nat
  emptyAt : Nat
  expired : Bool                      -- its time share is over: unmapped at the next entry boundary (R152)
  upto    : Option (BitVec 32)        -- the WIDX read, while entries below it are being inserted (R151)
  stall   : Option (BitVec 16)
  deriving DecidableEq, Repr

/-- A task in the Stash (R153). `gang` is the gang placed from it, for a lifeline or a swapped-out gang. -/
structure Task where
  num     : Nat
  record  : TaskRecord
  task    : DWord
  asid    : Nat
  part    : Fin 8
  depth   : Nat
  priv    : Bool
  parent  : Option Nat
  insert  : Nat
  unplaced : Nat                      -- since when it has been unplaceable (R159)
  target  : Option (Fin 4 × Fin 36)   -- the quad on which gangs are pre-empted for it (R159)
  gang    : Option Nat
  resident : Bool
  relaunched : Bool
  stall   : Option (BitVec 16)
  deriving DecidableEq, Repr

structure Asid where
  live : Bool
  root : Nat
  part : Fin 8
  save : Nat
  retiring : List (BitVec 16)         -- the TAGs of the requests to retire it that wait for its graces (R306, R354)
  deriving DecidableEq, Repr

/-- An entry of a frog queue (R303). -/
structure Frog where
  addr  : DWord
  cls   : BitVec 7
  grace : BitVec 32
  deriving DecidableEq, Repr

/-- A grace in progress (R300): the waves it holds, when it started and whether R305 has reported it. -/
structure Grace where
  held : List Nat
  start : Nat
  told : Bool
  deriving DecidableEq, Repr

/-- A grace domain (R298, R299, R304). -/
structure Domain where
  c       : BitVec 32
  now     : Option Grace
  pending : Bool
  frogs   : List Frog
  ring    : Option (Nat × Nat)        -- FRBASE, LOG2N
  stuck   : Bool                      -- posting stopped by a PROTECT or key failure
  stall   : Option (BitVec 16)
  deriving DecidableEq, Repr

/-! ## Service requests, transfers, keys, links, messages -/

/-- Who stalls on a fault-service request (R316). -/
inductive Stalled where
  | wave (w : Nat)
  | hidden (w : Nat)      -- a .c or .l access of a wave (R176)
  | stream (t : Nat)
  | lane (w : Nat) (l : Nat)
  | queue (q : Nat)
  | task (n : Nat)
  | successor (g : Nat) (i : Nat)
  | domain (d : Nat)
  deriving DecidableEq, Repr

structure Request where
  tag   : BitVec 16
  who   : Stalled
  asid  : Nat
  part  : Fin 8
  kind  : Nat
  cause : BitVec 8
  va    : Nat
  task  : DWord
  deriving DecidableEq, Repr

/-- What a transfer is (R231, R234, R236). -/
inductive XferKind where
  | ld | st | put
  | ldr (rg : Fin 8) (slot : Nat)
  | nest (load : Bool)
  | gath
  deriving DecidableEq, Repr

/-- One box of a copy as latched at issue: its first .q offset and its first far-side offset, with their row strides (R230, R231).
`es` is the element size in half bytes. -/
structure BoxGeom where
  rows  : Nat
  elems : Nat
  es    : Nat
  vrows : Nat
  velems : Nat
  q     : DWord
  qstr  : DWord
  f     : DWord
  fstr  : DWord
  also  : List DWord        -- further .q offsets that receive the same row (R236)
  lanes : List Nat          -- of a row of a gather, the lanes that receive it; else none
  deriving DecidableEq, Repr

structure Transfer where
  wave   : Nat
  gang   : Nat
  die    : Fin 4
  quad   : Fin 36
  stream : Fin 16
  kind   : XferKind
  far    : Far
  asid   : Nat
  part   : Fin 8
  segDie : Fin 4
  nb     : Fin 16
  pc     : DWord                      -- the word that issued it
  qbase  : Nat                        -- the bases of the two segments
  fbase  : Nat
  boxes  : List BoxGeom               -- still to be moved
  row    : Nat                        -- rows of the first of them already moved (R227)
  begun  : Bool                       -- that box has been begun (R235)
  stop   : Bool
  out    : Bool                       -- a byte of a put has an address outside every window (R232)
  sig    : DWord
  dec    : Word
  stall  : Option (BitVec 16)
  deriving DecidableEq, Repr

/-- A key slot that is loaded (R180). -/
structure KeySlot where
  owner : Fin 8
  key   : List DWord
  deriving DecidableEq, Repr

structure KeyCmd where
  die  : Fin 4
  op   : BitVec 2
  part : Fin 8
  slot : Nat
  deriving DecidableEq, Repr

/-- A REPL store that the home has taken and that is not yet committed (R203): the wave that made it, if one did, its physical address
at the home, its key, the bytes, whether they come from a poisoned granule, the record that it makes where it covers part of a
poisoned granule, and whether every replica line is locked. -/
structure ReplCommit where
  wave  : Option Nat
  addr  : Nat
  key   : List DWord
  bytes : List Byte
  bad   : Bool
  note  : Record
  locked : Bool
  deriving DecidableEq, Repr

/-- A completion record, or the NOTIFYW of a queue, that could not be written because a key command was running on the slot of its page: it is
written, or judged, when the command has completed (R357). -/
structure Owed where
  asid  : Nat
  part  : Fin 8
  die   : Fin 4
  va    : Nat
  bytes : List Byte
  deriving DecidableEq, Repr

/-- A mailbox request whose access to memory a key command, or a commit, keeps waiting: it is judged when that has completed (R357). -/
inductive Deferred where
  | queue (tag : BitVec 16) (desc asid : Nat) (part : Fin 8) (priv : Bool)
  | freedRing (tag : BitVec 16) (part : Fin 8) (asid scope die base log2n : Nat)
  deriving DecidableEq, Repr

/-- A link whose flits are replayed (R325, R351): failed replays in a row, and whether it is down. -/
structure Edge where
  failed : Nat
  down   : Bool
  deriving DecidableEq, Repr

/-- What the device sends (R354, R355, R232). -/
inductive Message where
  | readReply (die : Fin 4) (bytes : List Byte)
  | mailbox (bytes : List Byte)                          -- the 64 bytes of a mailbox message
  | interrupt (die : Fin 4) (cause : BitVec 16)
  | hcall (num : Nat) (arg : DWord) (task : DWord) (wave : Nat)
  | put (p : PutPacket)
  | signal (p : PutSig)
  deriving DecidableEq, Repr

/-- The machine. -/
structure State where
  cur      : Nat
  ir       : Word
  inbox    : List Instr
  schedule : List CoreId
  fresh    : Nat
  seq      : Nat
  outbox   : List Message
  power    : Bool
  time     : Nat
  waves    : List (Nat × Wave)
  gangs    : List (Nat × Gang)
  cores    : List (Nat × Core)
  quads    : List (Nat × Quad)
  dies     : List (Nat × Die)
  parts    : List (Nat × Partition)
  queues   : List (Nat × Queue)
  stash    : List Task
  heirs    : List Task                -- successors waiting outside the Stash (R153)
  turns    : List (Nat × Nat)         -- per die: the partition served last (R156)
  asids    : List (Nat × Asid)
  domains  : List (Nat × Domain)
  requests : List Request
  transfers : List (Nat × Transfer)
  keys     : List (Nat × KeySlot)
  keyCmds  : List KeyCmd
  gddr     : Mem
  host     : Mem
  gddrPoison : List (Nat × Bool)      -- key: 32-byte unit
  unitKey  : List (Nat × List DWord)  -- the key under which a unit was written (R180)
  repl     : List ReplCommit          -- in order of arrival at the home
  relief   : List Stalled             -- what stalled on a locked line, which tries again before the next lock (R203)
  owed     : List Owed                -- oldest first
  deferred : List Deferred            -- oldest first
  full     : Bool                     -- full service has begun (step 5 of R359)
  edges    : List (Nat × Edge)         -- key: 4 * lower die + higher die; 16 + die for host links; 32 + port
  module   : Fin 64
  clock    : Nat
  deriving DecidableEq, Repr

/-! ## The state after reset (step 1 of R359), and the values that unlisted keys of the tables read as -/

def Segment.empty : Segment := ⟨0, 0⟩

def Segments.empty : Segments := ⟨.empty, .empty, .empty, .empty, .empty⟩

/-- R37 and the register maps it names; the values are those of a launch where the spec gives one (log entry 1). -/
def Special.reset : Special where
  vl := 0; vstart := 0; slip := 2; cvt := 0; flags := 0; lfm := 0; pmask := 0
  st := Vector.replicate 4 0
  reqM := 0; reqN := 0; reqK := 0; gf := 0; gm := 0; gn := 0; gk := 0; vm := 0; vn := 0; vk := 0
  tlda := 0; tldb := 0; tldc := 0; bx0 := 0; bx1 := 0; cpld := 0; cprow := 0; sig0 := 0; sig1 := 0
  twd := 0; rdep := 0; thb := 0; tcause := 0; tpc := 0; tinfo := 0; tmask := 0

def Ident.reset : Ident where
  wave := 0; wg := 0; role := 0; task := 0; asid := 0; depth := 0; part := 0; priv := false; eff := 0
  quad := 0; die := 0; place := .zero; slot := 0; gang := 0; eprio := 0

def Entry.reset : Entry := { pc := 0, kind := .normal, mask := 0, wait := none, buf := none, tied := false }

/-- A wave slot that holds no wave (log entry 1). -/
def Wave.vacant : Wave where
  live := false
  s := Vector.replicate 64 0
  k := Vector.replicate 16 0
  v := Vector.replicate 32 (Vector.replicate 64 0)
  run := .reset; rest := []; mode := .normal; sr := .reset; id := .reset; seg := .empty; blocks := 0
  dirty := 0; hw := Vector.replicate 32 0
  locks := []; tiles := []; slots := []; walks := []; kids := 0; exit := 0; wait := .none; held := false; ready := 0
  begun := false; shadow := []; unit := none; late := []; loads := []; lag := []

def TaskRecord.zero : TaskRecord where
  entry := 0; patch := 0; npatch := 0; profile := 0; cls := 0; prio := 0; policy := 0; flags := 0; wg := 0; waves := 0
  vlreq := 0; vregs := 0; rings := 0; nbars := 0; zero1 := 0; scratch := 0; rolemap := 0; arglen := 0; args := 0
  gbase := 0; glim := 0; dbase := 0; dlim := 0; lbase := 0; llim := 0; preds := 0; nsucc := 0; zero2 := 0; succ := 0
  compl := 0; asid := 0; part := 0; homedie := 0; zero3 := 0; thb := 0; twd := 0; zero4 := 0; cbase := 0; clim := 0

def Gang.none : Gang where
  live := false; record := .zero; task := 0; asid := 0; part := 0; depth := 0; priv := false; parent := .none; stash := 0
  place := .none; qbase := 0; segDie := 0; start := .none; insert := 0; eprio := 0; seq := 0; bars := []; rings := []; pool := []
  hwm := 0; patches := []; frozen := false; halt := .none; contain := .none; relaunched := false; exits := []; last := 0; image := .none
  qsave := []; qpois := []; issued := false; stopping := .none; kill := .none; release := .none; stall := .none

/-- A named barrier at launch (R216). -/
def NamedBar.launch : NamedBar := ⟨false, 0, 0, 0, 0⟩

/-- A ring at launch: not defined (R237). -/
def Ring.launch : Ring :=
  { made := false, slots := 1, bytes := 4, base := 0, res := 0, fill := 0, con := 0, free := 0, err := false, st := [], ldr := 0 }

def Accum.dead : Accum := { live := false, type := .f32, hm := 0, hn := 0, pois := false, el := [] }

def Bank.empty : Bank :=
  { complete := false, wf := 0, lgk := 0, lgn := 0, lvk := 0, lvn := 0, pois := false, w := [], sc := [] }

/-- A core after reset; the fused lane groups are all working and no array is in half mode (log entry 6). -/
def Core.reset (ecore : Bool) : Core where
  groups := if ecore then 3 else 15
  half := false; owner := none; freeing := false; acc := Vector.replicate 4 .dead; shadow := .empty; active := .empty; fresh := false; turned := 0; sums := none
  ageq := []; order := []; l1 := []; tlb := []

def Stream.idle : Stream := { busy := none, gang := 0, boxes := 0, stat := 0 }

def Quad.reset : Quad where
  marks := []; scratch := []; clean := []; poison := []; streams := []; served := 0; placed := 0; tpass := 0
  testReq := false; testing := false

def Die.reset : Die where
  state := 0; rev := 0; fused := 0; retired := 0; topo := 0
  relBase := 0; relSize := 0; relHead := 0; relTail := 0; ovf := false; dropped := 0; ovfBefore := false; held := []
  selvBase := 0; selv := []; selvSeq := 0; policy := 0; iftQuad := 0; iftLast := 0; iftFail := false; iftPass := false
  iftBusy := false; kop := 0; kpart := 0; kslot := 0; kresult := 0; kbusy := false; kdata := Vector.replicate 8 0
  fwMeas := []; mem := []; poison := []

/-- A partition that is not configured; %gwarn as R305 gives it. -/
def Partition.reset : Partition where
  made := false; cfg := .none; early := false; gen := 0; pkgBar := []; dieBar := []; gwarn := 10000000
  ds := []; mirror := []; updates := []; windows := []; ending := []

def Queue.none : Queue where
  desc := 0; asid := 0; part := 0; priv := false; mapped := false; joining := false; pending := false; dead := true; mapTime := 0; emptyAt := 0
  expired := false; upto := .none; stall := .none

def Asid.none : Asid := { live := false, root := 0, part := 0, save := 0, retiring := [] }

/-- A domain of an ASID that has just been assigned (R299). -/
def Domain.reset : Domain :=
  { c := 0, now := none, pending := false, frogs := [], ring := none, stuck := false, stall := none }

def Edge.up : Edge := { failed := 0, down := false }

def Transfer.none : Transfer where
  wave := 0; gang := 0; die := 0; quad := 0; stream := 0; kind := .ld; far := .g; asid := 0; part := 0; segDie := 0; nb := 0
  boxes := []; row := 0; begun := false; stop := false; out := false; sig := 0; dec := 0; stall := .none; pc := 0; qbase := 0; fbase := 0

/-- The package when power comes on (R359, step 1): no wave, no gang, nothing configured, every table empty, time 0. -/
def State.reset : State where
  cur := 0; ir := 0; inbox := []; schedule := []; fresh := 0; seq := 0; outbox := []; power := true; time := 0
  waves := []; gangs := []; cores := []; quads := []; dies := []; parts := []; queues := []; stash := []; heirs := []
  turns := []; asids := []; domains := []; requests := []; transfers := []; keys := []; keyCmds := []
  gddr := []; host := []; gddrPoison := []; unitKey := []; repl := []; relief := []; owed := []; deferred := []; full := false; edges := []; module := 0; clock := 0

/-! ## How a step can stop -/

/-- A stuck machine. -/
inductive Fault where
  /-- Raised by `step` when package power has been removed and no POWER_ON is to come (R4): nothing can happen. Safe. -/
  | noPower
  deriving DecidableEq, Repr

/-- A refusal. -/
inductive Refusal where
  /-- Raised by an arm of `exec` whose instruction has no meaning yet. Safe: the machine stops. -/
  | notModelled (mnemonic : String)
  deriving DecidableEq, Repr

end Sys2Proof.Machine
end

