-- ==== Sys2Proof/Machine/Store.lean ====
section
/-! DEFINITION. Memory as bytes in canonical form, the tables of State by key, and device physical memory with its keys and
poison (R166, R170 to R174, R180, R356). -/

namespace Sys2Proof.Machine

abbrev Out := Host.Outcome State Fault Refusal

/-! ## Bytes -/

/-- The byte at `a`; a byte that is not listed reads 0. -/
def memRead : Mem → Nat → Byte
  | [], _ => 0
  | (k, b) :: m, a => if k = a then b else memRead m a

/-- Store one byte, keeping the canonical form. -/
def memWrite : Mem → Nat → Byte → Mem
  | [], a, b => if b = 0 then [] else [(a, b)]
  | (k, x) :: m, a, b =>
    if k = a then (if b = 0 then m else (k, b) :: m)
    else if a < k then (if b = 0 then (k, x) :: m else (a, b) :: (k, x) :: m)
    else (k, x) :: memWrite m a b

/-- Addresses rising and no byte 0 listed. -/
def Mem.wf : Mem → Bool
  | [] => true
  | [(_, b)] => b != 0
  | (a, b) :: (c, d) :: m => b != 0 && decide (a < c) && Mem.wf ((c, d) :: m)

def memReads (m : Mem) (a : Nat) : Nat → List Byte
  | 0 => []
  | n + 1 => memRead m a :: memReads m (a + 1) n

def memWrites (m : Mem) (a : Nat) : List Byte → Mem
  | [] => m
  | b :: bs => memWrites (memWrite m a b) (a + 1) bs

/-! ## The tables of State -/

def CoreId.key (c : CoreId) : Nat := c.die.val * 144 + c.quad.val * 4 + c.core.val

/-- Cores 2 and 3 of a quad are E-cores (R145). -/
def CoreId.isE (c : CoreId) : Bool := 2 ≤ c.core.val

def quadKey (d : Fin 4) (q : Fin 36) : Nat := d.val * 36 + q.val

def State.wave (s : State) (n : Nat) : Wave := look .vacant s.waves n
def State.setWave (s : State) (n : Nat) (w : Wave) : State := { s with waves := put s.waves n w }

/-- The wave whose run issues. -/
def State.me (s : State) : Wave := s.wave s.cur
def State.setMe (s : State) (w : Wave) : State := s.setWave s.cur w

def State.gang (s : State) (n : Nat) : Gang := look .none s.gangs n
def State.setGang (s : State) (n : Nat) (g : Gang) : State := { s with gangs := put s.gangs n g }
def State.core (s : State) (c : CoreId) : Core := look (.reset (CoreId.isE c)) s.cores (CoreId.key c)
def State.setCore (s : State) (c : CoreId) (x : Core) : State := { s with cores := put s.cores (CoreId.key c) x }
def State.quad (s : State) (d : Fin 4) (q : Fin 36) : Quad := look .reset s.quads (quadKey d q)
def State.setQuad (s : State) (d : Fin 4) (q : Fin 36) (x : Quad) : State := { s with quads := put s.quads (quadKey d q) x }
def State.die (s : State) (d : Fin 4) : Die := look .reset s.dies d.val
def State.setDie (s : State) (d : Fin 4) (x : Die) : State := { s with dies := put s.dies d.val x }
def State.partn (s : State) (p : Fin 8) : Partition := look .reset s.parts p.val
def State.setPartn (s : State) (p : Fin 8) (x : Partition) : State := { s with parts := put s.parts p.val x }
def State.queue (s : State) (q : Nat) : Queue := look .none s.queues q
def State.setQueue (s : State) (q : Nat) (x : Queue) : State := { s with queues := put s.queues q x }
def State.asid (s : State) (a : Nat) : Asid := look .none s.asids a
def State.domain (s : State) (d : Nat) : Domain := look .reset s.domains d
def State.setDomain (s : State) (d : Nat) (x : Domain) : State := { s with domains := put s.domains d x }
def State.xfer (s : State) (t : Nat) : Transfer := look .none s.transfers t
def State.send (s : State) (m : Message) : State := { s with outbox := s.outbox ++ [m] }

/-- A mailbox message (R354): SERVICE, TAG, LEN, zero, and the payload, which ends in zeros. -/
def mailBytes (service tag : BitVec 16) (len : Nat) (payload : List Byte) : List Byte :=
  bytesOfNat 2 service.toNat ++ bytesOfNat 2 tag.toNat ++ bytesOfNat 2 len ++ [0, 0] ++ payload ++ List.replicate (56 - payload.length) 0

/-- Send a payload of `len` bytes in messages of at most 56 bytes of it each (log entry 81). `fuel` bounds the messages. -/
def State.mailRest (service tag : BitVec 16) (len : Nat) : Nat → State → List Byte → State
  | 0, s, _ => s
  | fuel + 1, s, bs =>
    let s1 := s.send (.mailbox (mailBytes service tag len (bs.take 56)))
    if bs.length ≤ 56 then s1 else State.mailRest service tag len fuel s1 (bs.drop 56)

/-- Send a mailbox message with a payload. -/
def State.mail (s : State) (service tag : BitVec 16) (payload : List Byte) : State :=
  State.mailRest service tag payload.length (payload.length / 56 + 1) s payload

/-- The next number of the package's counter, for gangs, transfers, commands, requests and orders of arrival. -/
def State.next (s : State) : State := { s with seq := s.seq + 1 }

/-- The key of a grace domain: the .pkg domain of an ASID, or its .die domain on a logical die (R298). -/
def domKey (asid : Nat) (die : Option (Fin 4)) : Nat :=
  asid * 8 + match die with
    | none => 0
    | some d => d.val + 1

def DomainKey.key (k : DomainKey) : Nat := domKey k.asid k.die

/-- The gangs that exist, with their numbers. -/
def State.liveGangs (s : State) : List (Nat × Gang) := s.gangs.filter (fun e => e.2.live)

/-- The waves that exist, with their numbers. -/
def State.liveWaves (s : State) : List (Nat × Wave) := s.waves.filter (fun e => e.2.live)

/-- The number of wave `i` of workgroup `g` of a gang. -/
def waveNum (gang wg i : Nat) : Nat := gang * 64 + wg * 16 + i

/-- Physical die of a logical die of a partition, and back (R345). -/
def Partition.dieList (p : Partition) : List (Fin 4) :=
  [0, 1, 2, 3].filter (fun d => p.cfg.quads.any (fun e => e.1 = d))

def Partition.ndie (p : Partition) : Nat := p.dieList.length

def Partition.physDie (p : Partition) (l : Nat) : Fin 4 := p.dieList.getD l 0

def Partition.logDie (p : Partition) (d : Fin 4) : Nat := p.dieList.findIdx (· = d)

/-- The physical quads of a partition on a die, ascending (R345). -/
def Partition.quadsOn (p : Partition) (d : Fin 4) : List (Fin 36) :=
  (List.finRange 36).filter (fun q => p.cfg.quads.any (fun e => e.1 = d ∧ e.2 = q))

def Partition.logQuad (p : Partition) (d : Fin 4) (q : Fin 36) : Nat := (p.quadsOn d).findIdx (· = q)

/-- The drop map of a die: fused off or retired (R343). -/
def Die.dropMap (d : Die) : BitVec 144 := d.fused ||| d.retired

/-! ## Device physical memory (R174, R356) -/

/-- GDDR-7-backed memory ends at 256 GiB. -/
def gddrEnd : Nat := 2 ^ 38

/-- What the bytes of the unit at physical address `a`, held as their plaintext under key `k`, read as under key `j`: they are
encrypted under `k` and decrypted under `j`; the empty list is no key (R180, log entry 21). -/
def rekeyed (k j : List DWord) (a : Nat) (bs : List Byte) : List Byte :=
  let c := if k = [] then bs else xtsUnit false k a bs
  if j = [] then c else xtsUnit true j a c

/-- Byte `a` of a unit as it reads under `key`: the byte itself under the key it was written with (R180). -/
def State.gddrByte (s : State) (key : List DWord) (a : Nat) : Byte :=
  let u := a / 32
  let k := look [] s.unitKey u
  if k = key then memRead s.gddr a
  else (rekeyed k key (u * 32) (memReads s.gddr (u * 32) 32)).getD (a % 32) 0

/-- A byte of device physical memory: GDDR-7, and 0 everywhere else (R356). -/
def State.physByte (s : State) (key : List DWord) (a : Nat) : Byte :=
  if a < gddrEnd then s.gddrByte key a else 0

def State.physBytes (s : State) (key : List DWord) (a : Nat) : Nat → List Byte
  | 0 => []
  | n + 1 => s.physByte key a :: s.physBytes key (a + 1) n

/-- Whether any of `n` bytes from `a` lies in a poisoned 32-byte granule (R172). -/
def State.gddrPoisoned (s : State) (a : Nat) : Nat → Bool
  | 0 => false
  | n + 1 => look false s.gddrPoison (a / 32) || s.gddrPoisoned (a + 1) n

/-- Write the bytes `bs` from `a`, all inside unit `u`, under `key`; the rest of the unit keeps what it reads as (R180). -/
def State.unitWrite (s : State) (key : List DWord) (a : Nat) (bs : List Byte) : State :=
  let u := a / 32
  if look [] s.unitKey u = key then { s with gddr := memWrites s.gddr a bs }
  else
    { s with
      gddr := memWrites (memWrites s.gddr (u * 32) (s.physBytes key (u * 32) 32)) a bs
      unitKey := if key = [] then drop s.unitKey u else put s.unitKey u key }

/-- Store bytes to device physical memory, unit by unit; a store that covers a poisoned granule clears it, one that covers
part of it writes nothing there (R172). Answers the addresses at which that happened. Stores outside GDDR-7 are
discarded (R356). `fuel` bounds the units. -/
def State.physStoreLoop : Nat → State → List DWord → Nat → List Byte → State × List Nat
  | 0, s, _, _, _ => (s, [])
  | fuel + 1, s, key, a, bs =>
    if bs = [] then (s, [])
    else
      let room := 32 - a % 32
      let now := bs.take room
      let u := a / 32
      let r :=
        if gddrEnd ≤ a then (s, [])
        else if look false s.gddrPoison u then
          if now.length = 32 then
            ({ s with gddrPoison := put s.gddrPoison u false }.unitWrite key a now, [])
          else (s, [a])
        else (s.unitWrite key a now, [])
      let t := State.physStoreLoop fuel r.1 key (a + now.length) (bs.drop room)
      (t.1, r.2 ++ t.2)

def State.physStore (s : State) (key : List DWord) (a : Nat) (bs : List Byte) : State × List Nat :=
  State.physStoreLoop (bs.length / 32 + 2) s key a bs

/-- A store of records, which cover the 32-byte units they touch (R331, R338), so that no store of theirs is partial: no key. -/
def State.physWrite (s : State) (a : Nat) (bs : List Byte) : State := (s.physStore [] a bs).1

/-! ## Die memory and scratchpad (R166, R170 to R172) -/

/-- Whether any of the `n` bytes from `a` lies in a poisoned word. -/
def wordPoisoned (p : List (Nat × Bool)) (a : Nat) : Nat → Bool
  | 0 => false
  | n + 1 => look false p (a / 4) || wordPoisoned p (a + 1) n

/-- Store bytes word by word under the poison rule of R172; the addresses of partial stores to poison are answered. -/
def wordStoreLoop : Nat → Mem → List (Nat × Bool) → Nat → List Byte → Mem × List (Nat × Bool) × List Nat
  | 0, m, p, _, _ => (m, p, [])
  | fuel + 1, m, p, a, bs =>
    if bs = [] then (m, p, [])
    else
      let room := 4 - a % 4
      let now := bs.take room
      let r : Mem × List (Nat × Bool) × List Nat :=
        if look false p (a / 4) then
          if now.length = 4 then (memWrites m a now, put p (a / 4) false, []) else (m, p, [a])
        else (memWrites m a now, p, [])
      let t := wordStoreLoop fuel r.1 r.2.1 (a + now.length) (bs.drop room)
      (t.1, t.2.1, r.2.2 ++ t.2.2)

def wordStore (m : Mem) (p : List (Nat × Bool)) (a : Nat) (bs : List Byte) : Mem × List (Nat × Bool) × List Nat :=
  wordStoreLoop (bs.length / 4 + 2) m p a bs

/-- A byte of the scratchpad: 0 in a block whose clean bit is set (R166). -/
def Quad.byte (q : Quad) (a : Nat) : Byte :=
  if look false q.clean (a / 256) then 0 else memRead q.scratch a

def Quad.bytes (q : Quad) (a : Nat) : Nat → List Byte
  | 0 => []
  | n + 1 => q.byte a :: q.bytes (a + 1) n

def Quad.poisoned (q : Quad) (a n : Nat) : Bool := wordPoisoned q.poison a n

/-- Zero the 256-byte block and clear its clean bit, if the bit is set: the first write to a clean block (R166). -/
def Quad.wake (q : Quad) (b : Nat) : Quad :=
  if look false q.clean b then
    { q with
      scratch := memWrites q.scratch (b * 256) (List.replicate 256 0)
      poison := q.poison.filter (fun e => e.1 / 64 ≠ b)
      clean := put q.clean b false }
  else q

def Quad.wakes (q : Quad) (b : Nat) : Nat → Quad
  | 0 => q
  | n + 1 => (q.wake b).wakes (b + 1) n

/-- Store bytes in the scratchpad. -/
def Quad.store (q : Quad) (a : Nat) (bs : List Byte) : Quad × List Nat :=
  if bs = [] then (q, [])
  else
    let q1 := q.wakes (a / 256) ((a + bs.length - 1) / 256 - a / 256 + 1)
    let r := wordStore q1.scratch q1.poison a bs
    ({ q1 with scratch := r.1, poison := r.2.1 }, r.2.2)

def Die.bytes (d : Die) (a n : Nat) : List Byte := memReads d.mem a n

def Die.poisoned (d : Die) (a n : Nat) : Bool := wordPoisoned d.poison a n

def Die.store (d : Die) (a : Nat) (bs : List Byte) : Die × List Nat :=
  let r := wordStore d.mem d.poison a bs
  ({ d with mem := r.1, poison := r.2.1 }, r.2.2)

end Sys2Proof.Machine
end

