-- ==== Sys2Proof/Machine/Records.lean ====
section
/-! DEFINITION. The selvedge buffer (R338) and the reliability engine's records (R329 to R332), and the engine of R330. -/

namespace Sys2Proof.Machine

/-- LOC of R331: die, quad, core, unit, bank or lane group. -/
def locBits (l : Loc) : BitVec 32 :=
  BitVec.ofNat 32 (l.die.val * 2 ^ 30 + l.quad % 64 * 2 ^ 24 + l.core.val * 2 ^ 22 + l.unit % 64 * 2 ^ 16 + l.bank % 2 ^ 16)

/-- The place of a unit outside quads: quad 0x3F (R331). -/
def dieLoc (die : Fin 4) (unit bank : Nat) : Loc := ⟨die, 0x3F, 0, unit, bank⟩

/-- The place of a unit of a core. -/
def coreLoc (c : CoreId) (unit bank : Nat) : Loc := ⟨c.die, c.quad.val, c.core, unit, bank⟩

def quadLoc (d : Fin 4) (q : Fin 36) (unit bank : Nat) : Loc := ⟨d, q.val, 0, unit, bank⟩

/-- WAVE of R331. -/
def waveBits (w : Wave) : BitVec 32 := BitVec.ofNat 32 (w.id.wave.val + w.id.wg.val * 16)

/-- WAVE where there is none (R331). -/
def noWave : BitVec 32 := 0xFFFFFFFF

/-- The 32 bytes of a selvedge entry (R338). -/
def selvedgeBytes (e : Selvedge) : List Byte :=
  bytesOfNat 8 e.time.toNat ++ bytesOfNat 4 e.seq.toNat ++ bytesOfNat 1 e.kind.toNat ++ bytesOfNat 1 e.cause.toNat ++
  bytesOfNat 2 e.asid.toNat ++ bytesOfNat 4 e.loc.toNat ++ bytesOfNat 4 e.wave.toNat ++ bytesOfNat 8 e.task.toNat

/-- Add an entry to a die's selvedge buffer, which keeps the last 256, and write it through to the region at SELV_BASE
unless that is 0 (R338). -/
def State.selvedge (s : State) (die : Fin 4) (kind cause : BitVec 8) (asid : BitVec 16) (loc : Loc) (wave : BitVec 32)
    (task : DWord) : State :=
  let d := s.die die
  let e : Selvedge := { time := BitVec.ofNat 64 s.time, seq := d.selvSeq, kind, cause, asid, loc := locBits loc, wave, task }
  let s1 := s.setDie die { d with selv := (e :: d.selv).take 256, selvSeq := d.selvSeq + 1 }
  if d.selvBase = 0 then s1
  else s1.physWrite (d.selvBase.toNat * 2 ^ 15 + 32 * (d.selvSeq.toNat % 1024)) (selvedgeBytes e)

/-- A record whose fields hold the values of R331 for none. -/
def Record.blank (type : BitVec 16) (sev : BitVec 8) (loc : Loc) : Record where
  type := type; sev := sev; flags := 0; count := 1; loc := loc; asid := 0xFFFF; part := 0xFF; policy := 0xFF
  task := 0; wave := noWave; pc := 0; addr := 0; data0 := 0; data1 := 0

/-- A record about a wave: its ASID, partition, task, number and word address. -/
def Record.ofWave (r : Record) (w : Wave) : Record :=
  { r with
    asid := w.id.asid
    part := BitVec.ofNat 8 w.id.part.val
    task := w.id.task
    wave := waveBits w
    pc := w.run.pc.truncate 32 }

/-- A record about a gang. -/
def Record.ofGang (r : Record) (g : Gang) : Record :=
  { r with asid := BitVec.ofNat 16 g.asid, part := BitVec.ofNat 8 g.part.val, task := g.task }

/-- The 64 bytes of a record (R331). -/
def recordBytes (r : Record) (time : BitVec 64) (flags : BitVec 8) : List Byte :=
  bytesOfNat 2 r.type.toNat ++ bytesOfNat 1 r.sev.toNat ++ bytesOfNat 1 flags.toNat ++ bytesOfNat 4 r.count.toNat ++
  bytesOfNat 8 time.toNat ++ bytesOfNat 4 (locBits r.loc).toNat ++ bytesOfNat 2 r.asid.toNat ++
  bytesOfNat 1 r.part.toNat ++ bytesOfNat 1 r.policy.toNat ++ bytesOfNat 8 r.task.toNat ++ bytesOfNat 4 r.wave.toNat ++
  bytesOfNat 4 r.pc.toNat ++ bytesOfNat 8 r.addr.toNat ++ bytesOfNat 8 r.data0.toNat ++ bytesOfNat 8 r.data1.toNat

/-- `x + 1`, staying at the largest value (R329, DROPPED). -/
def satSucc (x : BitVec 32) : BitVec 32 := if x = 0xFFFFFFFF then x else x + 1

/-- The part of R330 that the ring does: write the record, advance HEAD and send the interrupt, or drop it. -/
def State.ringRecord (s : State) (die : Fin 4) (r : Record) (time : BitVec 64) : State :=
  let d := s.die die
  let size := 2 ^ d.relSize.toNat
  let used := (d.relHead - d.relTail).toNat
  if d.relSize = 0 ∨ used = size then
    s.setDie die { d with ovf := true, dropped := satSucc d.dropped, ovfBefore := true }
  else
    let flags := if d.ovfBefore then r.flags ||| 0x10 else r.flags
    let s1 := s.physWrite (d.relBase.toNat * 64 + 64 * (d.relHead.toNat % size)) (recordBytes r time flags)
    let d1 := s1.die die
    let s2 := s1.setDie die { d1 with relHead := d1.relHead + 1, ovfBefore := false }
    if used = 0 ∨ 2 ≤ r.sev.toNat then s2.send (.interrupt die 1) else s2

/-- The reliability engine makes a record: the selvedge entry of R338, then the ring (R330). -/
def State.reportAt (s : State) (die : Fin 4) (r : Record) (time : BitVec 64) : State :=
  let s1 :=
    if r.type = 0x0030 ∨ r.type = 0x0031 then s
    else s.selvedge die (if r.type = 0x0050 then 5 else 4) (r.type.truncate 8) r.asid r.loc r.wave r.task
  s1.ringRecord die r time

/-- The record of the corrected errors that are held for one place and address, with the time of the first (R330). -/
def HeldError.record (h : HeldError) : Record :=
  { Record.blank 0x0001 1 h.loc with count := h.count, addr := BitVec.ofNat 64 h.addr, data0 := h.data, data1 := h.synd }

/-- The corrected errors that a die's engine holds for a place are written: no later record of the place comes before them (R330). -/
def State.flushHeld (s : State) (die : Fin 4) (loc : Loc) : State :=
  let d := s.die die
  match d.held.filter (fun h => h.loc = loc) with
  | [] => s
  | hs => hs.foldl (fun s h => s.reportAt die h.record (BitVec.ofNat 64 h.time))
      (s.setDie die { d with held := d.held.filter (fun h => h.loc ≠ loc) })

/-- Write a record of an event that happens now. -/
def State.report (s : State) (die : Fin 4) (r : Record) : State :=
  (s.flushHeld die r.loc).reportAt die r (BitVec.ofNat 64 s.time)

/-- What a record of a partial store to poison says beside its place and address (R172): type 0x0060 with DATA1[0] = 1. -/
def Record.partialStore (loc : Loc) : Record := { Record.blank 0x0060 2 loc with data1 := 1 }

/-- One such record for each address. -/
def State.reportPartial (s : State) (note : Record) (loc : Loc) : List Nat → State
  | [] => s
  | a :: as => (s.report loc.die { note with loc, addr := BitVec.ofNat 64 a }).reportPartial note loc as

/-- A store to GDDR-7 by the host or by the device itself, with a record of each partial store to poison, placed at the GDDR-7
interface of the die that serves the address (R172). -/
def State.gddrPut (s : State) (a : Nat) (bs : List Byte) : State :=
  let r := s.physStore [] a (bs.take (gddrEnd - a))
  r.2.foldl (fun s x => s.reportPartial (Record.partialStore (dieLoc 0 3 0)) (dieLoc (Fin.ofNat 4 (x / 2 ^ 36)) 3 0) [x]) r.1

end Sys2Proof.Machine
end

