-- ==== Sys2Proof/Machine/Ops.lean ====
section
/-! DEFINITION. The named operations on a wave that the meanings share: registers, the PC table, packets and tie groups,
holding and blocking, quiescent points, requests to the host, taking a trap and returning from one, and containment. -/

namespace Sys2Proof.Machine

/-! ## Trap causes (R311) -/

def causeIllegalOp : BitVec 8 := 0x01
def causeIllegalPacket : BitVec 8 := 0x02
def causePrivileged : BitVec 8 := 0x03
def causeMisaligned : BitVec 8 := 0x04
def causeSegment : BitVec 8 := 0x05
def causeXlate : BitVec 8 := 0x06
def causeProtect : BitVec 8 := 0x07
def causeCow : BitVec 8 := 0x08
def causeReservedCode : BitVec 8 := 0x09
def causePoison : BitVec 8 := 0x0A
def causeShadow : BitVec 8 := 0x0B
def causeBarBusy : BitVec 8 := 0x0D
def causeBarInvalid : BitVec 8 := 0x0E
def causeGraceInRead : BitVec 8 := 0x0F
def causeTileOperand : BitVec 8 := 0x10
def causeRegRange : BitVec 8 := 0x11
def causeStack : BitVec 8 := 0x12
def causeSpawnDepth : BitVec 8 := 0x13
def causeDiverged : BitVec 8 := 0x14
def causeTwReentry : BitVec 8 := 0x15
def causeTrap : BitVec 8 := 0x80

/-! ## Scalar registers -/

/-- s0 reads as zero (R12). -/
def Wave.rs (w : Wave) (r : SReg) : DWord := if r = 0 then 0 else w.s[r]

/-- A write to s0 is discarded (R12). -/
def Wave.setS (w : Wave) (r : SReg) (x : DWord) : Wave := if r = 0 then w else { w with s := w.s.set r x }

/-- A vector register field that names a scalar names s0 to s31 (R30). -/
def lowS (r : Fin 32) : SReg := ⟨r.val, by omega⟩

/-! ## Vector and predicate registers -/

/-- Element `l` of a vector register. -/
def Wave.rv (w : Wave) (r : VReg) (l : Lane) : Word := w.v[r][l]

/-- An element write: the register is dirty, and HW rises to the element when that is higher (R323). -/
def Wave.setV (w : Wave) (r : VReg) (l : Lane) (x : Word) : Wave :=
  { w with
    v := w.v.set r (w.v[r].set l x)
    dirty := w.dirty ||| (1 : BitVec 32) <<< r.val
    hw := if w.dirty.getLsbD r.val ∧ l ≤ w.hw[r] then w.hw else w.hw.set r l }

def Wave.rk (w : Wave) (r : KReg) : BitVec 64 := w.k[r]

def Wave.setK (w : Wave) (r : KReg) (x : BitVec 64) : Wave := { w with k := w.k.set r x }

/-! ## Packets and tie groups (R14 to R19) -/

/-- The pipe of a major opcode; none where the MAJ is illegal (R19). -/
inductive Pipe where
  | s | v | m | l | x
  deriving DecidableEq, Repr

def pipeOf (maj : Nat) : Option Pipe :=
  if maj ≤ 0x03 ∨ (0x06 ≤ maj ∧ maj ≤ 0x09) ∨ (0x0C ≤ maj ∧ maj ≤ 0x0E) then some .s
  else if 0x10 ≤ maj ∧ maj ≤ 0x22 then some .v
  else if 0x2C ≤ maj ∧ maj ≤ 0x2F then some .m
  else if maj = 0x04 ∨ maj = 0x05 ∨ (0x23 ≤ maj ∧ maj ≤ 0x2B) ∨ maj = 0x30 ∨ maj = 0x32 then some .l
  else if maj = 0x0A ∨ maj = 0x0B ∨ maj = 0x31 ∨ (0x33 ≤ maj ∧ maj ≤ 0x3C) then some .x
  else none

def wordMaj (w : Word) : Nat := fld w.toNat 25 6

/-- The tie bit (R15). -/
def tieBit (w : Word) : Bool := w.getLsbD 31

/-- Whether two words of one tie group repeat a pipe (R16, R19). -/
def samePipe (a b : Word) : Bool := pipeOf (wordMaj a) = pipeOf (wordMaj b) ∧ pipeOf (wordMaj a) ≠ none

/-- How many literal words a word takes when it is decoded as an instruction (R17). -/
def litWords (w : Word) : Nat :=
  if wordMaj w = 3 then
    if fld w.toNat 0 19 = 0 then 1 else if fld w.toNat 0 19 = 1 then 2 else 0
  else 0

def Packet.word (p : Packet) : Nat → Word
  | 0 => p.w0
  | 1 => p.w1
  | _ => p.w2

/-- Whether the decode from word 0 marks word `i` literal (R16, R17). -/
def Packet.literal (p : Packet) (i : Nat) : Bool :=
  match i with
  | 0 => false
  | 1 => litWords p.w0 ≠ 0
  | _ => litWords p.w0 = 2 ∨ (litWords p.w0 = 0 ∧ litWords p.w1 = 1)

/-- The packet check of R16 and R17. -/
def Packet.legal (p : Packet) : Bool :=
  match litWords p.w0 with
  | 2 => !tieBit p.w0
  | 1 => !tieBit p.w0 && !tieBit p.w2 && litWords p.w2 = 0
  | _ =>
    match litWords p.w1 with
    | 2 => false
    | 1 => !tieBit p.w1 && !(tieBit p.w0 && samePipe p.w0 p.w1)
    | _ =>
      !tieBit p.w2 && litWords p.w2 = 0 && !(tieBit p.w0 && samePipe p.w0 p.w1) &&
      !(tieBit p.w1 && samePipe p.w1 p.w2) && !(tieBit p.w0 && tieBit p.w1 && samePipe p.w0 p.w2)

/-- Whether the word after word `i` belongs to the same tie group; a word marked literal is a group of its own (R15, R17). -/
def Packet.tiedAfter (p : Packet) (i : Nat) : Bool := tieBit (p.word i) && !p.literal i

/-- Which word of its packet an address is. -/
def wordIndex (pc : DWord) : Nat := pc.toNat % 12 / 4

/-- The start of the packet that holds an address (R14). -/
def packetStart (pc : DWord) : DWord := BitVec.ofNat 64 (pc.toNat - pc.toNat % 12)

/-! ## The PC table (R98 to R101) -/

/-- The run moves past a word of `n` words. At a packet's end a new fetch is due. -/
def Entry.past (e : Entry) (n : Nat) : Entry :=
  let pc := e.pc + BitVec.ofNat 64 (4 * n)
  if pc.toNat % 12 = 0 then { e with pc, wait := none, buf := none, tied := false }
  else { e with pc, wait := none, tied := match e.buf with
                              | some p => p.tiedAfter (wordIndex e.pc)
                              | none => false }

/-- The run moves to `t`: the packet is fetched again and a new tie group begins (R18, R27). -/
def Entry.to (e : Entry) (t : DWord) : Entry := { e with pc := t, wait := none, buf := none, tied := false }

def Wave.past (w : Wave) (n : Nat) : Wave := { w with run := w.run.past n }
def Wave.to (w : Wave) (t : DWord) : Wave := { w with run := w.run.to t }

/-- The target of a branch by `off` packets (R14, R29). -/
def Wave.target {n : Nat} (w : Wave) (off : BitVec n) : DWord := packetStart w.run.pc + 12 * off.signExtend 64

def kindOrder : Kind → Nat
  | .handler => 0
  | .normal => 1
  | .walk => 2

/-- Whether entry `a` stands before `b` in the table (R98). -/
def Entry.before (a b : Entry) : Bool := a.pc.toNat < b.pc.toNat ∨ (a.pc = b.pc ∧ kindOrder a.kind < kindOrder b.kind)

/-- Two entries are one run: they have one PC and one kind (R98). -/
def Entry.meets (a b : Entry) : Bool := decide (a.pc = b.pc) && decide (a.kind = b.kind)

/-- Insert an entry in table order, merging it into the one that it meets, whatever that one's state (R101). -/
def insertEntry (e : Entry) : List Entry → List Entry
  | [] => [e]
  | x :: t =>
    if x.meets e then { x with mask := x.mask ||| e.mask } :: t
    else if e.before x then e :: x :: t
    else x :: insertEntry e t

/-- The whole PC table of a wave in table order. -/
def Wave.table (w : Wave) : List Entry := if w.live then insertEntry w.run w.rest else []

/-- Put a table back into a wave; the wave has exited when it is empty (R101). -/
def Wave.setTable (w : Wave) : List Entry → Wave
  | [] => { w with live := false, rest := [] }
  | e :: t => { w with run := e, rest := t }

/-- Merge the running entry with an entry it has met: of the two, the one that is blocked gives the state (R101). The running entry stays
the one that issues. -/
def Wave.merge (w : Wave) : Wave :=
  match w.rest.find? (fun x => x.meets w.run) with
  | none => w
  | some x =>
    { w with
      run := { (if x.wait.isSome then x else w.run) with mask := x.mask ||| w.run.mask }
      rest := w.rest.filter (fun y => !y.meets w.run) }

/-- Lanes arrive as entry `e`: they join the entry that it meets, whatever its state, or make a new one (R101, R102). -/
def Wave.join (w : Wave) (e : Entry) : Wave :=
  if w.run.meets e then { w with run := { w.run with mask := w.run.mask ||| e.mask } }
  else { w with rest := insertEntry e w.rest }

/-! ## Lanes -/

def bit64 (i : Nat) : BitVec 64 := (1 : BitVec 64) <<< i

/-- Lanes 0 to `n - 1`. -/
def lowLanes (n : Nat) : BitVec 64 := BitVec.ofNat 64 (2 ^ n - 1)

/-- The lanes of a mask, in ascending order. -/
def lanesOf (m : BitVec 64) : List Lane := (List.finRange 64).filter (fun l => m.getLsbD l.val)

/-- Act: the lanes of the current run below %vl (R114). -/
def Wave.act (w : Wave) : BitVec 64 := w.run.mask &&& lowLanes w.sr.vl.toNat

/-! ## %vstart (R116) -/

/-- %vstart ← e. -/
def Wave.setStart (w : Wave) (e : BitVec 16) : Wave := { w with sr := { w.sr with vstart := e } }

/-- An element-wise instruction that completes, and an indivisible one, leave %vstart at 0 (R116). -/
def Wave.clearStart (w : Wave) : Wave := w.setStart 0

/-! ## Completing, holding and blocking -/

/-- The word completes: the wave is as `w`, and the run moves to the next word. -/
def State.done (s : State) (w : Wave) : Out := .next (s.setMe (w.past 1))

/-- Wave `n` goes to the back of the round robin of its core (R95, R160). -/
def State.toBack (s : State) (n : Nat) : State :=
  let c := (s.wave n).id.place
  let i := (s.wave n).id.slot.val
  s.setCore c { s.core c with order := (s.core c).order.filter (· ≠ i) ++ [i] }

/-- The tie group waits: nothing changes but the mark (R20). -/
def State.hold (s : State) : Out := .next (s.setMe { s.me with held := true })

/-- Take wave `n` out of the waves that graces hold: a quiescent point (R297, R300). -/
def State.release (s : State) (n : Nat) : State :=
  { s with domains := s.domains.map (fun e =>
      (e.1, { e.2 with now := e.2.now.map (fun g => { g with held := g.held.filter (· ≠ n) }) })) }

/-- The quiescent point that a blocking wait of wave `n` is when its %rdep is 0 (R297). -/
def State.quiesce (s : State) (n : Nat) : State := if (s.wave n).sr.rdep = 0 then s.release n else s

/-- The run of the issuing wave blocks in `what`; it joins the back of the object's queue (R102, R209). -/
def State.block (s : State) (what : Wait) : Out :=
  let w := s.me
  let w1 := { w with run := { w.run with wait := some { what, order := s.seq, start := s.time } } }
  .next ((s.next.setMe w1).quiesce s.cur)

/-- An acquire at .quad or wider on a core: its L1 is emptied (R173). -/
def State.acquire (s : State) (c : CoreId) : State :=
  if (s.core c).l1 = [] then s else s.setCore c { s.core c with l1 := [] }

/-- The place of the issuing wave's core. -/
def State.here (s : State) : CoreId := s.me.id.place

/-- %info for an offset: the space code in bits 63 to 61 (R25). -/
def spaceInfo (sp : Space) (o : Nat) : DWord := BitVec.ofNat 64 (o % 2 ^ 61 + spaceCode sp * 2 ^ 61)

def wordInfo (w : Word) : DWord := w.zeroExtend 64

/-! ## Containment (R333) -/

/-- The policy in force for a gang: its record's, or POLICY_DEFAULT of its die once it has been relaunched (R334). -/
def State.policyOf (s : State) (g : Gang) : Nat :=
  if g.relaunched then
    match g.place with
    | some (d, _, _) => (s.die d).policy.toNat
    | none => 0
  else g.record.policy

/-- A gang whose waves may issue: resident, and not frozen, stopping or being killed. -/
def Gang.runs (g : Gang) : Bool :=
  g.live && !g.frozen && g.place.isSome && g.stopping.isNone && g.kill.isNone && g.halt.isNone

/-- A wait of R102, which a save shows as blocked; runs that wait for an interlock entry (R279) and those whose atomics are on their way to the
replicas (R203) are not blocked. -/
def Wait.blocks : Wait → Bool
  | .lock _ => false
  | .commits => false
  | _ => true

def Waiting.withdraw (x : Waiting) : Waiting :=
  if x.what.blocks then { x with what := .withdrawn } else x

def Entry.withdraw (e : Entry) : Entry := { e with wait := e.wait.map Waiting.withdraw }

/-- The wave waits at a scope barrier. -/
def Wave.inBar (w : Wave) : Bool :=
  match w.wait with
  | .bar _ _ _ => true
  | _ => false

/-- Step 2 of R318 for one wave: blocked runs leave their queues and are kept as blocked; an arrival at a scope barrier is
withdrawn, and its run is kept as blocked: it executes `bar` again later (R113, R214). -/
def Wave.withdraw (w : Wave) : Wave :=
  { w with
    run := if w.inBar then { w.run with wait := some { what := .withdrawn, order := 0, start := 0 } } else w.run.withdraw
    rest := w.rest.map Entry.withdraw
    loads := []
    wait := if w.inBar then .none else w.wait }

/-- Withdraw every wave of gang `g`. -/
def State.withdrawGang (s : State) (g : Nat) : State :=
  { s with waves := s.waves.map (fun e => if e.1 / 64 = g ∧ e.2.live then (e.1, e.2.withdraw) else e) }

/-- A gang begins to be frozen, as steps 1 and 2 of R318 stop it; it is frozen once `endHalt` finds it stopped and drained (R312, R333). One
that has begun already goes on with the cause that began it. -/
def State.beginHalt (s : State) (g : Nat) (cause : BitVec 16) : State :=
  if (s.gang g).halt.isSome then s else (s.setGang g { s.gang g with halt := some cause }).withdrawGang g

/-- A gang is held frozen for the host and reported (R312, R333, R354): the message of SERVICE 0x8002, with %task, the partition and the
cause (log entry 81), and its interrupt. -/
def State.freeze (s : State) (g : Nat) (cause : BitVec 16) : State :=
  let x := s.gang g
  let s1 := (s.withdrawGang g).setGang g { x with frozen := true, halt := none }
  let die := match x.place with
    | some (d, _, _) => d
    | none => 0
  (s1.mail 0x8002 0 (bytesOfNat 8 x.task.toNat ++ bytesOfNat 1 x.part.val ++ [0] ++ bytesOfNat 2 cause.toNat)).send (.interrupt die 2)

/-- A containment event of gang `g` (R333). The first decides: under policy 0 the gang begins to be frozen; under policy 1 or 2
it stops, and GANG_KILL takes the other steps of R334 once its transfers have drained. -/
def State.contain (s : State) (g : Nat) (cause : BitVec 16) : State :=
  let x := s.gang g
  if x.contain.isSome ∨ x.kill.isSome ∨ ¬ x.live then s
  else
    let pol := s.policyOf x
    if pol = 0 then (s.setGang g { x with contain := some cause }).beginHalt g cause
    else (s.setGang g { x with contain := some cause, kill := some (cause, BitVec.ofNat 8 pol) }).withdrawGang g

/-- Whether an event of gang `g` would be the one that decides its containment (R333). -/
def State.decides (s : State) (g : Nat) : Bool :=
  let x := s.gang g
  x.live && x.contain.isNone && x.kill.isNone

/-- FLAGS[3] and POLICY of an event's record, which tell the event that decides (R331, R333). -/
def State.policyMark (s : State) (g : Nat) (r : Record) : Record :=
  if s.decides g then { r with flags := r.flags ||| 8, policy := BitVec.ofNat 8 (s.policyOf (s.gang g)) } else r

/-- Write an event's record for gang `g` and contain the gang. -/
def State.containWith (s : State) (g : Nat) (cause : BitVec 16) (r : Record) : State :=
  (s.report r.loc.die (s.policyMark g r)).contain g cause

/-! ## Taking a trap and returning from one (R26 to R28, R105) -/

/-- A fault that ends the wave as an undelivered trap of `cause` (R28, R176, R228); a wave that waits keeps its wait, from which it goes on
if the host resumes its gang (R333). -/
def State.lose (s : State) (n : Nat) (cause : BitVec 8) : State :=
  let w := s.wave n
  let s1 := s.selvedge w.id.place.die 3 cause w.id.asid (coreLoc w.id.place 0x3F 0) (waveBits w) w.id.task
  (s1.setWave n { w with wait := if w.wait = .none then .stopped else w.wait }).contain w.id.gang (0x100 + cause.zeroExtend 16)

/-- Take the trap `cause` with `info` at word address `pc`, for the running entry of wave `n`. Entry as R26 gives it; in handler
mode, or without a handler, the trap is not delivered and the wave stops (R28). Either way R338 makes a selvedge entry. -/
def State.trapAt (s : State) (n : Nat) (cause : BitVec 8) (info pc : DWord) : State :=
  let w := s.wave n
  if w.mode = .handler ∨ w.sr.thb = 0 then s.lose n cause
  else
    (s.selvedge w.id.place.die 3 cause w.id.asid (coreLoc w.id.place 0x3F 0) (waveBits w) w.id.task).setWave n
      { w with
        mode := .handler
        sr := { w.sr with tcause := cause, tinfo := info, tpc := pc, tmask := w.run.mask }
        run := { w.run with pc := w.sr.thb, kind := .handler, wait := none, buf := none, tied := false } }

/-- The issuing wave takes a trap at its word (R26). -/
def State.trap (s : State) (cause : BitVec 8) (info : DWord) : Out := .next (s.trapAt s.cur cause info s.me.run.pc)

/-- A trap whose %tinfo is the word (R25). -/
def State.trapWord (s : State) (cause : BitVec 8) : Out := s.trap cause (wordInfo s.ir)

/-- An element-wise instruction traps at element `e`: %vstart holds it (R116). -/
def State.trapElem (s : State) (w : Wave) (e : Nat) (cause : BitVec 8) (info : DWord) : Out :=
  (s.setMe { w with sr := { w.sr with vstart := BitVec.ofNat 16 e } }).trap cause info

/-- Whether a lane of the entry is in a routine of a walk (R279). -/
def Wave.inRoutine (w : Wave) (m : BitVec 64) : Bool :=
  w.walks.any (fun e => m.getLsbD e.1 ∧ e.2.phase ≠ .idle ∧ e.2.phase ≠ .due)

/-- `iret` (R27): the handler entry's lanes become normal, or walk, again at %tpc; the wave returns to normal mode when no
handler entry is left (R105). In normal mode, which only a privileged context meets, PC ← %tpc (R312). -/
def Wave.iret (w : Wave) : Wave :=
  let kind := if w.run.kind = .handler then (if w.inRoutine w.run.mask then Kind.walk else .normal) else w.run.kind
  { w with
    run := { (w.run.to w.sr.tpc) with kind }
    mode := if w.rest.any (fun e => e.kind = .handler) then w.mode else .normal }

/-! ## Requests to the host (R316) -/

/-- The payload of a fault-service request. -/
def faultPayload (asid : Nat) (part : Fin 8) (kind : Nat) (cause : BitVec 8) (va : Nat) (task : DWord) : List Byte :=
  bytesOfNat 2 asid ++ bytesOfNat 1 part.val ++ bytesOfNat 1 kind ++ bytesOfNat 1 cause.toNat ++ [0, 0, 0] ++ bytesOfNat 8 va ++
  bytesOfNat 8 task.toNat

/-- Report a stall to the host: the request of SERVICE 0x8001 with a tag of its own, and the interrupt of cause 3. -/
def State.request (s : State) (who : Stalled) (die : Fin 4) (asid : Nat) (part : Fin 8) (kind : Nat) (cause : BitVec 8)
    (va : Nat) (task : DWord) : State :=
  let tag := BitVec.ofNat 16 s.seq
  let r : Request := { tag, who, asid, part, kind, cause, va, task }
  let s1 := { s.next with requests := s.requests ++ [r] }
  (s1.mail 0x8001 tag (faultPayload asid part kind cause va task)).send (.interrupt die 3)

/-- The tag the next request takes. -/
def State.tag (s : State) : BitVec 16 := BitVec.ofNat 16 s.seq

/-- Wave `n` meets XLATE or COW: it is descheduled and the host is asked first (R316). -/
def State.hostFirst (s : State) (n : Nat) (kind : Nat) (cause : BitVec 8) (va : Nat) : State :=
  let w := s.wave n
  (s.setWave n { w with wait := .service s.tag }).request (.wave n) w.id.place.die w.id.asid.toNat w.id.part kind cause va
    w.id.task

/-! ## The checks of R39 that are common to all words -/

/-- What R39 asks of a word before its own checks. -/
structure Needs where
  profile : Nat          -- R310
  outside : Bool         -- forbidden in a walk entry (R290)
  wide    : Bool         -- wave-wide (R104)
  regs    : List VReg    -- vector registers named (R115)

/-- Steps 2 to 6 of R39, in order, for a word whose ILLEGAL_OP cases are its profile's; then the word's own effect. -/
def State.checked (s : State) (n : Needs) (body : Out) : Out :=
  let w := s.me
  if w.id.eff.toNat < n.profile then s.trapWord causeIllegalOp
  else if n.outside ∧ w.run.kind = .walk then s.trapWord causeTwReentry
  else if n.wide ∧ w.rest ≠ [] then s.trapWord causeDiverged
  else if n.regs.any (fun r => 8 * w.blocks.val ≤ r.val) then s.trapWord causeRegRange
  else body

/-- A word that names vector registers and has no other common check. -/
def State.withRegs (s : State) (rs : List VReg) (body : Out) : Out := s.checked ⟨1, false, false, rs⟩ body

end Sys2Proof.Machine
end

