-- ==== Sys2Proof/Machine/Flags.lean ====
section
/-! DEFINITION. The flags of %flags (R70) and the controls of %cvt (R67). -/

namespace Sys2Proof.Machine

/-- A set of flags, as %flags holds them (R70). -/
abbrev FpFlags := BitVec 6

def flagNone : FpFlags := 0
/-- INV: an invalid operation. -/
def flagInv : FpFlags := 1
/-- DBZ: a finite nonzero value was divided by zero. -/
def flagDbz : FpFlags := 2
/-- OVF: a result overflowed to infinity. -/
def flagOvf : FpFlags := 4
/-- UNF: a result was tiny and inexact. -/
def flagUnf : FpFlags := 8
/-- INX: a result was inexact. -/
def flagInx : FpFlags := 16
/-- SAT: a conversion saturated. -/
def flagSat : FpFlags := 32

def flagIf (c : Bool) (f : FpFlags) : FpFlags := if c then f else flagNone

/-- Flag(): flags are ORed in and never cleared (R70). -/
def Wave.addFlags (w : Wave) (f : FpFlags) : Wave := { w with sr := { w.sr with flags := w.sr.flags ||| f } }

/-- Rounding codes 0 to 3 of R67. -/
inductive Rounding where
  | nearest | zero | down | up
  deriving DecidableEq, Repr

def Rounding.ofCode : Nat → Rounding
  | 0 => .nearest
  | 1 => .zero
  | 2 => .down
  | _ => .up

/-- A conversion control: the rounding and the saturation bit (R67). -/
structure Control where
  mode : Rounding
  sat  : Bool
  deriving DecidableEq, Repr

/-- The 3-bit slot of a %cvt value at bit `lo` (R68). -/
def controlOf (cvt : BitVec 24) (lo : Nat) : Control :=
  ⟨Rounding.ofCode (fld cvt.toNat lo 2), fld cvt.toNat (lo + 2) 1 = 1⟩

/-- The 3-bit slot of the wave's %cvt at bit `lo`. -/
def Wave.control (w : Wave) (lo : Nat) : Control := controlOf w.sr.cvt lo

def slotBf16 : Nat := 0
def slotF16 : Nat := 3
def slotF8a : Nat := 6
def slotF8b : Nat := 9
def slotI8 : Nat := 12
def slotI4 : Nat := 15
def slotSi : Nat := 18
def slotUi : Nat := 21

end Sys2Proof.Machine
end

