-- ==== Sys2Proof/Machine/Float.lean ====
section
/-! DEFINITION. The floating-point formats, rounding, F32 arithmetic and the conversions (R58 to R61, R67 to R70, R97, R121,
R122). Every result comes with the flags it raises. -/

namespace Sys2Proof.Machine

/-! ## Formats (R58) -/

/-- A format: the widths of its exponent and fraction. -/
structure FloatFmt where
  ex : Nat
  fr : Nat
  deriving DecidableEq, Repr

def fmtF32 : FloatFmt := ⟨8, 23⟩
def fmtBf16 : FloatFmt := ⟨8, 7⟩
def fmtF16 : FloatFmt := ⟨5, 10⟩
def fmtF8a : FloatFmt := ⟨4, 3⟩
def fmtF8b : FloatFmt := ⟨5, 2⟩

def FloatFmt.bias (f : FloatFmt) : Nat := 2 ^ (f.ex - 1) - 1
/-- E, the all-ones exponent. -/
def FloatFmt.top (f : FloatFmt) : Nat := 2 ^ f.ex - 1
def FloatFmt.infinity (f : FloatFmt) : Nat := f.top * 2 ^ f.fr
def FloatFmt.maxFinite (f : FloatFmt) : Nat := f.infinity - 1
def FloatFmt.nan (f : FloatFmt) : Nat := f.infinity + 2 ^ (f.fr - 1)
def FloatFmt.signBit (f : FloatFmt) : Nat := 2 ^ (f.ex + f.fr)
/-- The exponent of the smallest subnormal. -/
def FloatFmt.least (f : FloatFmt) : Int := 1 - (f.bias : Int) - f.fr
/-- The exponent of the smallest normal value. -/
def FloatFmt.minNormal (f : FloatFmt) : Int := 1 - (f.bias : Int)

/-- A value: NaN, an infinity, or (−1)^neg × m × 2^e. -/
inductive FVal where
  | nan
  | inf (neg : Bool)
  | fin (neg : Bool) (m : Nat) (e : Int)
  deriving DecidableEq, Repr

/-- The value of an encoding (R58). -/
def FloatFmt.read (f : FloatFmt) (x : Nat) : FVal :=
  let neg : Bool := fld x (f.ex + f.fr) 1 = 1
  let e := fld x f.fr f.ex
  let m := fld x 0 f.fr
  if e = f.top then (if m = 0 then .inf neg else .nan)
  else if e = 0 then .fin neg m f.least
  else .fin neg (2 ^ f.fr + m) (f.least + (e - 1 : Int))

def FVal.isNan : FVal → Bool
  | .nan => true
  | _ => false

def FVal.isZero : FVal → Bool
  | .fin _ m _ => m = 0
  | _ => false

def FVal.neg : FVal → FVal
  | .nan => .nan
  | .inf n => .inf (!n)
  | .fin n m e => .fin (!n) m e

/-! ## Rounding (R61, R67, R68) -/

/-- `m ÷ 2^k` rounded to an integer; `sticky` says that the true value lies above `m` by less than one. Also whether it is inexact. -/
def roundShift (mode : Rounding) (neg : Bool) (m k : Nat) (sticky : Bool) : Nat × Bool :=
  let q := m / 2 ^ k
  let r := m % 2 ^ k
  let inexact := decide (r ≠ 0) || sticky
  let up : Bool := match mode with
    | .nearest => 2 ^ k < 2 * r ∨ (2 ^ k = 2 * r ∧ (sticky ∨ q % 2 = 1))
    | .zero => false
    | .down => neg ∧ inexact
    | .up => ¬ neg ∧ inexact
  (if up then q + 1 else q, inexact)

/-- RoundTo of R68 for the magnitude m × 2^e: with an unbounded exponent and the subnormal grid below the smallest normal value. The
answer is an encoding without sign, which stands at or above that of infinity where the value lies beyond the largest finite one, and
whether it is inexact. -/
def FloatFmt.round (f : FloatFmt) (mode : Rounding) (neg : Bool) (m : Nat) (e : Int) (sticky : Bool) : Nat × Bool :=
  if m = 0 then (0, sticky)
  else
    let q : Int := max (e + m.log2 - f.fr) f.least
    let r := if q ≤ e then (m * 2 ^ (e - q).toNat, sticky) else roundShift mode neg m (q - e).toNat sticky
    ((q - f.least).toNat * 2 ^ f.fr + r.1, r.2)

/-- 0 < |x| < MinNormal, before rounding (R68). -/
def FloatFmt.tiny (f : FloatFmt) (m : Nat) (e : Int) : Bool := m ≠ 0 ∧ e + m.log2 < f.minNormal

/-- A result in F32 and the flags it raises. -/
abbrev Fp := Word × FpFlags

def f32Nan : Word := 0x7FC00000
def f32Inf (neg : Bool) : Word := if neg then 0xFF800000 else 0x7F800000
def f32Zero (neg : Bool) : Word := if neg then 0x80000000 else 0
def signF32 (neg : Bool) : Nat := if neg then 2 ^ 31 else 0

def readF32 (x : Word) : FVal := fmtF32.read x.toNat

/-- An exact magnitude rounded to nearest even in F32, with its flags. -/
def f32Round (neg : Bool) (m : Nat) (e : Int) (sticky : Bool) : Fp :=
  let r := fmtF32.round .nearest neg m e sticky
  if fmtF32.infinity ≤ r.1 then (f32Inf neg, flagOvf ||| flagInx)
  else (BitVec.ofNat 32 (signF32 neg + r.1), flagIf r.2 flagInx ||| flagIf (r.2 && fmtF32.tiny m e) flagUnf)

/-! ## Sums and products -/

/-- The grid on which exact sums are formed: every finite term of R71 to R73 and R122 is a multiple of 2^−320. -/
def sumGrid : Int := -320

/-- A finite term on the grid. -/
def FVal.onGrid : FVal → Int
  | .fin neg m e => if neg then -(m * 2 ^ (e - sumGrid).toNat : Int) else (m * 2 ^ (e - sumGrid).toNat : Int)
  | _ => 0

def FVal.isNegZero : FVal → Bool
  | .fin true 0 _ => true
  | _ => false

/-- The sum of exact terms, rounded once to F32 (R71, R75, R122): NaN and INV where infinities of both signs meet; NaN where a term is;
an exact zero is −0 only when every term is. -/
def f32Sum (ts : List FVal) : Fp :=
  if ts.any (· = .inf true) ∧ ts.any (· = .inf false) then (f32Nan, flagInv)
  else if ts.any FVal.isNan then (f32Nan, flagNone)
  else if ts.any (· = .inf true) then (f32Inf true, flagNone)
  else if ts.any (· = .inf false) then (f32Inf false, flagNone)
  else
    let t := (ts.map FVal.onGrid).foldl (· + ·) 0
    if t = 0 then (f32Zero (ts.all FVal.isNegZero), flagNone)
    else f32Round (t < 0) t.natAbs sumGrid false

/-- The exact product; 0 × ∞ is NaN and INV (R70). -/
def FVal.mul : FVal → FVal → FVal × FpFlags
  | .nan, _ => (.nan, flagNone)
  | _, .nan => (.nan, flagNone)
  | .inf a, .inf b => (.inf (a != b), flagNone)
  | .inf a, .fin b m _ => if m = 0 then (.nan, flagInv) else (.inf (a != b), flagNone)
  | .fin a m _, .inf b => if m = 0 then (.nan, flagInv) else (.inf (a != b), flagNone)
  | .fin a m e, .fin b k d => (.fin (a != b) (m * k) (e + d), flagNone)

/-- A value as an F32 word, with one rounding. -/
def f32Of : FVal → Fp
  | .nan => (f32Nan, flagNone)
  | .inf n => (f32Inf n, flagNone)
  | .fin n m e => if m = 0 then (f32Zero n, flagNone) else f32Round n m e false

def f32Add (a b : Word) : Fp := f32Sum [readF32 a, readF32 b]
def f32Sub (a b : Word) : Fp := f32Sum [readF32 a, (readF32 b).neg]

def f32Mul (a b : Word) : Fp :=
  let p := (readF32 a).mul (readF32 b)
  let r := f32Of p.1
  (r.1, r.2 ||| p.2)

/-- (±a × b) + c with one rounding (R122). R223 writes y = x for a dropped token, whose `vfma` adds x to +0 times a number: that
product is a NaN where the number is infinite or a NaN, and takes -0 to +0, here as in R122 (log entry 101). -/
def f32Fma (negate : Bool) (a b c : Word) : Fp :=
  let p := (readF32 a).mul (readF32 b)
  let r := f32Sum [if negate then p.1.neg else p.1, readF32 c]
  (r.1, r.2 ||| p.2)

/-! ## Division and square root (R61, R97) -/

/-- The integer part of the square root, bit by bit from bit `n − 1` down. -/
def isqrtBits (x : Nat) : Nat → Nat → Nat
  | 0, r => r
  | n + 1, r => if (r + 2 ^ n) * (r + 2 ^ n) ≤ x then isqrtBits x n (r + 2 ^ n) else isqrtBits x n r

def isqrt (x : Nat) : Nat := isqrtBits x (x.log2 / 2 + 1) 0

def f32Div (a b : Word) : Fp :=
  match readF32 a, readF32 b with
  | .nan, _ => (f32Nan, flagNone)
  | _, .nan => (f32Nan, flagNone)
  | .inf _, .inf _ => (f32Nan, flagInv)
  | .inf x, .fin y _ _ => (f32Inf (x != y), flagNone)
  | .fin x _ _, .inf y => (f32Zero (x != y), flagNone)
  | .fin x m e, .fin y k d =>
    if k = 0 then (if m = 0 then (f32Nan, flagInv) else (f32Inf (x != y), flagDbz))
    else if m = 0 then (f32Zero (x != y), flagNone)
    else f32Round (x != y) (m * 2 ^ 64 / k) (e - d - 64) (m * 2 ^ 64 % k ≠ 0)

def f32Sqrt (a : Word) : Fp :=
  match readF32 a with
  | .nan => (f32Nan, flagNone)
  | .inf n => if n then (f32Nan, flagInv) else (f32Inf false, flagNone)
  | .fin n m e =>
    if m = 0 then (f32Zero n, flagNone)
    else if n then (f32Nan, flagInv)
    else
      let odd := e % 2 ≠ 0
      let m1 := if odd then m * 2 ^ 65 else m * 2 ^ 64
      let e1 : Int := if odd then e - 65 else e - 64
      let r := isqrt m1
      f32Round false r (e1 / 2) (r * r ≠ m1)

/-! ## Order (R61, R97, R125) -/

def f32IsNan (a : Word) : Bool := (readF32 a).isNan

/-- The magnitude bits and the sign as a number that rises with the value; −0 stands just below +0. -/
def f32Rank (a : Word) : Int :=
  let m : Int := fld a.toNat 0 31
  if a.getLsbD 31 then -m - 1 else m

/-- As `f32Rank`, with −0 equal to +0. -/
def f32Order (a : Word) : Int :=
  let m : Int := fld a.toNat 0 31
  if a.getLsbD 31 then -m else m

def f32Min (a b : Word) : Fp :=
  if f32IsNan a then (if f32IsNan b then f32Nan else b, flagNone)
  else if f32IsNan b then (a, flagNone)
  else (if f32Rank b < f32Rank a then b else a, flagNone)

def f32Max (a b : Word) : Fp :=
  if f32IsNan a then (if f32IsNan b then f32Nan else b, flagNone)
  else if f32IsNan b then (a, flagNone)
  else (if f32Rank a < f32Rank b then b else a, flagNone)

/-- A comparison of two values that are not NaN; where one is, `nan` is the answer, with INV if `signals` (R97, R125). -/
def f32Compare (f : Int → Int → Bool) (nan signals : Bool) (a b : Word) : Bool × FpFlags :=
  if f32IsNan a ∨ f32IsNan b then (nan, flagIf signals flagInv) else (f (f32Order a) (f32Order b), flagNone)

/-! ## Integral values (R121) -/

/-- m × 2^e rounded to an integer. -/
def roundInt (mode : Rounding) (neg : Bool) (m : Nat) (e : Int) : Nat × Bool :=
  if 0 ≤ e then (m * 2 ^ e.toNat, false) else roundShift mode neg m (-e).toNat false

/-- `vfrint`, `vffloor`, `vfceil` and `vftrunc`: no flag; a zero result keeps the sign. -/
def f32Integral (mode : Rounding) (a : Word) : Fp :=
  match readF32 a with
  | .nan => (f32Nan, flagNone)
  | .inf n => (f32Inf n, flagNone)
  | .fin n m e =>
    let r := (roundInt mode n m e).1
    if r = 0 then (f32Zero n, flagNone) else ((f32Round n r 0 false).1, flagNone)

/-- `vffract`: a − floor(a), rounded. -/
def f32Fract (a : Word) : Fp :=
  match readF32 a with
  | .nan => (f32Nan, flagNone)
  | .inf _ => (f32Nan, flagInv)
  | .fin n m e =>
    let fl := (roundInt .down n m e).1
    f32Sum [.fin n m e, .fin (!n) fl 0]

/-- A sign operation: a NaN gives the default NaN; no flag (R121). -/
def f32Signed (neg : Bool → Bool) (a : Word) : Fp :=
  if f32IsNan a then (f32Nan, flagNone)
  else (BitVec.ofNat 32 (fld a.toNat 0 31 + signF32 (neg (a.getLsbD 31))), flagNone)

/-! ## Conversions (R68, R69) -/

/-- Convert to BF16, F16, F8A or F8B: the encoding and the flags. -/
def convertFloat (f : FloatFmt) (c : Control) (x : FVal) : Nat × FpFlags :=
  let sign (n : Bool) : Nat := if n then f.signBit else 0
  match x with
  | .nan => if c.sat then (0, flagInv) else (f.nan, flagNone)
  | .inf n => if c.sat then (sign n + f.maxFinite, flagSat) else (sign n + f.infinity, flagNone)
  | .fin n m e =>
    let r := f.round c.mode n m e false
    let fl := flagIf r.2 flagInx ||| flagIf (r.2 && f.tiny m e) flagUnf
    if f.infinity ≤ r.1 then
      if c.sat then (sign n + f.maxFinite, fl ||| flagInx ||| flagSat)
      else (sign n + f.infinity, fl ||| flagInx ||| flagOvf)
    else (sign n + r.1, fl)

/-- Convert to SI or UI, given the range and the sentinel of the format. -/
def convertInt (lo hi sentinel : Int) (c : Control) (x : FVal) : Word × FpFlags :=
  match x with
  | .nan => (BitVec.ofInt 32 (if c.sat then 0 else sentinel), flagInv)
  | .inf n =>
    if c.sat then (BitVec.ofInt 32 (if n then lo else hi), flagSat) else (BitVec.ofInt 32 sentinel, flagInv)
  | .fin n m e =>
    let r := roundInt c.mode n m e
    let y : Int := if n then -(r.1 : Int) else r.1
    if y < lo ∨ hi < y then
      if c.sat then (BitVec.ofInt 32 (if y < lo then lo else hi), flagSat) else (BitVec.ofInt 32 sentinel, flagInv)
    else (BitVec.ofInt 32 y, flagIf r.2 flagInx)

def convertSi (c : Control) (x : FVal) : Word × FpFlags := convertInt (-(2 ^ 31)) (2 ^ 31 - 1) (-(2 ^ 31)) c x

def convertUi (c : Control) (x : FVal) : Word × FpFlags := convertInt 0 (2 ^ 32 - 1) 0 c x

/-- Convert an SI value to I8: the byte and the flags. -/
def convertI8 (c : Control) (x : Word) : Nat × FpFlags :=
  let v := x.toInt
  if c.sat ∧ v < -128 then (128, flagSat)
  else if c.sat ∧ 127 < v then (127, flagSat)
  else (x.toNat % 256, flagNone)

/-- F32 of an integer (R69). -/
def f32OfInt (v : Int) : Fp := if v = 0 then (0, flagNone) else f32Round (v < 0) v.natAbs 0 false

/-- Widening to F32 is exact and sets no flag (R69). -/
def widen (f : FloatFmt) (x : Nat) : Word := (f32Of (f.read x)).1

end Sys2Proof.Machine
end

