-- ==== Sys2Proof/Machine/Special.lean ====
section
/-! DEFINITION. The special functions of MAJ 0x19 (R124): the special values and the exact cases as the rule gives them; for every
other finite input whatever the hardware answers within the bound of the function (log entry 7). The true value is
computed in fixed point with 400 fraction bits, far finer than any bound. -/

namespace Sys2Proof.Machine

/-! ## Fixed point with 400 fraction bits -/

def fixBits : Nat := 400

def fixOne : Int := 2 ^ 400

/-- π. -/
def fixPi : Int := 0x3243f6a8885a308d313198a2e03707344a4093822299f31d0082efa98ec4e6c89452821e638d01377be5466cf34e90c6cc0ac

/-- ln 2. -/
def fixLn2 : Int := 0xb17217f7d1cf79abc9e3b39803f2f6af40f343267298b62d8a0d175b8baafa2be7b876206debac98559552fb4afa1b10ed2e

def fixMul (a b : Int) : Int := a * b / 2 ^ 400

def fixDiv (a b : Int) : Int := a * 2 ^ 400 / b

/-- (−1)^neg × m × 2^e. -/
def fixOf (neg : Bool) (m : Nat) (e : Int) : Int :=
  let x : Int := m * 2 ^ (e + 400).toNat
  if neg then -x else x

/-- The Taylor sum t + t·(±x²)/((k+1)(k+2)) + … of `n` terms: sine from t = x, k = 1 and cosine from t = 1, k = 0. -/
def fixTrig (x2 : Int) : Nat → Nat → Int → Int
  | 0, _, _ => 0
  | n + 1, k, t => t + fixTrig x2 n (k + 2) (-(fixMul t x2) / ((k + 1) * (k + 2) : Int))

/-- sin x, reduced by whole turns. -/
def fixSin (x : Int) : Int :=
  let r := x % (2 * fixPi)
  fixTrig (fixMul r r) 90 1 r

def fixCos (x : Int) : Int :=
  let r := x % (2 * fixPi)
  fixTrig (fixMul r r) 90 0 fixOne

/-- The sum t + t·x/(k+1) + … of `n` terms. -/
def fixExpSum (x : Int) : Nat → Nat → Int → Int
  | 0, _, _ => 0
  | n + 1, k, t => t + fixExpSum x n (k + 1) (fixMul t x / (k + 1 : Int))

/-- 2^(n + f ÷ 2^400) for 0 ≤ f < 1; too small a result is 0. -/
def fixPow2 (n f : Int) : Int :=
  let y := fixExpSum (fixMul f fixLn2) 120 0 fixOne
  if 0 ≤ n then y * 2 ^ n.toNat else if n < -1000 then 0 else y / 2 ^ (-n).toNat

/-- 2^x. -/
def fixExp2 (x : Int) : Int := fixPow2 (x / 2 ^ 400) (x % 2 ^ 400)

/-- e^x. -/
def fixExp (x : Int) : Int := fixPow2 (x / fixLn2) (fixDiv (x % fixLn2) fixLn2)

/-- The fraction bits of log2 y for 1 ≤ y < 2, `n` of them, by repeated squaring. -/
def fixLogBits : Nat → Int → Int
  | 0, _ => 0
  | n + 1, y =>
    let z := fixMul y y
    if 2 * fixOne ≤ z then 2 ^ n + fixLogBits n (z / 2) else fixLogBits n z

/-- log2 of m × 2^e. -/
def fixLog2 (m : Nat) (e : Int) : Int :=
  let l := m.log2
  let y := fixOf false m (-(l : Int))
  (e + l) * fixOne + fixLogBits 200 y * 2 ^ 200

/-- tanh x for x ≥ 0. -/
def fixTanh (x : Int) : Int :=
  let y := fixExp (-2 * x)
  fixDiv (fixOne - y) (fixOne + y)

def fixSigm (x : Int) : Int :=
  if 0 ≤ x then fixDiv fixOne (fixOne + fixExp (-x))
  else
    let y := fixExp x
    fixDiv y (fixOne + y)

/-! ## The functions -/

/-- The functions of MAJ 0x19, in the order of their fn codes. -/
inductive SpecFn where
  | sin | cos | sinpi | cospi | exp2 | log2 | rcp | rsqrt | tanh | sigm
  deriving DecidableEq, Repr

def SpecFn.code : SpecFn → Nat
  | .sin => 0
  | .cos => 1
  | .sinpi => 2
  | .cospi => 3
  | .exp2 => 4
  | .log2 => 5
  | .rcp => 6
  | .rsqrt => 7
  | .tanh => 8
  | .sigm => 9

/-- The bound in units of the last place. -/
def SpecFn.bound : SpecFn → Nat
  | .sin => 2
  | .cos => 2
  | .tanh => 2
  | .sigm => 2
  | _ => 1

/-- The function at (−1)^neg × m × 2^e, in fixed point. -/
def SpecFn.value (f : SpecFn) (neg : Bool) (m : Nat) (e : Int) : Int :=
  let x := fixOf neg m e
  match f with
  | .sin => fixSin x
  | .cos => fixCos x
  | .sinpi => fixSin (fixMul (x % (2 * fixOne)) fixPi)
  | .cospi => fixCos (fixMul (x % (2 * fixOne)) fixPi)
  | .exp2 => fixExp2 x
  | .log2 => fixLog2 m e
  | .rcp => fixDiv fixOne x
  | .rsqrt => if e % 2 = 0 then fixDiv (2 ^ (400 - (e / 2)).toNat) (isqrt (m * 2 ^ 800)) else
      fixDiv (2 ^ (400 - (e / 2)).toNat) (isqrt (m * 2 ^ 801))
  | .tanh => if neg then -(fixTanh (-x)) else fixTanh x
  | .sigm => fixSigm x

/-- The unit of the last place at a value: F32's spacing there, the subnormals' below 2^−126 (log entry 7). -/
def fixUlp (t : Int) : Int :=
  let l : Int := (t.natAbs.log2 : Int) - 400
  2 ^ ((max l (-126)) - 23 + 400).toNat

/-- A finite or infinite F32 word as a value, infinity standing at 2^128. -/
def fixWord (x : Word) : Option Int :=
  match readF32 x with
  | .nan => none
  | .inf n => some (if n then -(2 ^ 528) else 2 ^ 528)
  | .fin n m e => some (fixOf n m e)

/-- Whether a word lies within the bound of the true value `t`. -/
def withinBound (x : Word) (t : Int) (ulps : Nat) : Bool :=
  match fixWord x with
  | none => false
  | some y => (y - t).natAbs ≤ ulps * (fixUlp t).natAbs

/-- The hardware's answer where it is free: what it gives, if that lies within the bound, else the nearest F32 value. -/
def specialFree (f : SpecFn) (a : Word) (neg : Bool) (m : Nat) (e : Int) : Word :=
  let t := f.value neg m e
  let x := Config.special f.code a
  if withinBound x t f.bound then x else (f32Round (t < 0) t.natAbs (-400) true).1

/-- The flags of an inexact result (R124). -/
def specialFlags (x : Word) : FpFlags :=
  let mag := fld x.toNat 0 31
  flagInx ||| flagIf (mag = fmtF32.infinity) flagOvf ||| flagIf (decide (mag < 2 ^ 23)) flagUnf

def f32One : Word := 0x3F800000
def f32MinusOne : Word := 0xBF800000
def f32Half : Word := 0x3F000000

/-- n for a value ±2^n (m ≠ 0). -/
def powerOfTwo (m : Nat) (e : Int) : Option Int := if m = 2 ^ m.log2 then some (e + m.log2) else none

/-- 2^n as an F32 word, for n from −149 to 127. -/
def f32Pow2 (neg : Bool) (n : Int) : Word := (f32Round neg 1 n false).1

/-- The number of half turns modulo 4, where 2 × (−1)^neg × m × 2^e is an integer. -/
def halfTurns (neg : Bool) (m : Nat) (e : Int) : Option Nat :=
  let x := 2 * fixOf neg m e
  if x % fixOne = 0 then some (x / fixOne % 4).toNat else none

/-- The exact cases of a finite input, with the special values that finite inputs have. -/
def specialExact (f : SpecFn) (a : Word) (neg : Bool) (m : Nat) (e : Int) : Option Fp :=
  match f with
  | .sin => if m = 0 then some (a, flagNone) else none
  | .cos => if m = 0 then some (f32One, flagNone) else none
  | .sinpi => (halfTurns neg m e).map (fun k =>
      (if k = 1 then f32One else if k = 3 then f32MinusOne else f32Zero neg, flagNone))
  | .cospi => (halfTurns neg m e).map (fun k =>
      (if k = 0 then f32One else if k = 2 then f32MinusOne else 0, flagNone))
  | .exp2 =>
    let x := fixOf neg m e
    if 128 * fixOne ≤ x then some (f32Inf false, flagOvf ||| flagInx)
    else if x % fixOne = 0 ∧ -149 ≤ x / fixOne then some (f32Pow2 false (x / fixOne), flagNone)
    else none
  | .log2 =>
    if m = 0 then some (f32Inf true, flagDbz)
    else if neg then some (f32Nan, flagInv)
    else (powerOfTwo m e).map (fun n => ((f32OfInt n).1, flagNone))
  | .rcp =>
    if m = 0 then some (f32Inf neg, flagDbz)
    else match powerOfTwo m e with
      | some n => if -n ≤ 127 then some (f32Pow2 neg (-n), flagNone) else none
      | none => none
  | .rsqrt =>
    if m = 0 then some (f32Inf neg, flagDbz)
    else if neg then some (f32Nan, flagInv)
    else match powerOfTwo m e with
      | some n => if n % 2 = 0 then some (f32Pow2 false (-(n / 2)), flagNone) else none
      | none => none
  | .tanh => if m = 0 then some (a, flagNone) else none
  | .sigm => if m = 0 then some (f32Half, flagNone) else none

/-- The special values of an infinite input. -/
def specialInf (f : SpecFn) (neg : Bool) : Fp :=
  match f with
  | .exp2 => (if neg then 0 else f32Inf false, flagNone)
  | .log2 => if neg then (f32Nan, flagInv) else (f32Inf false, flagNone)
  | .rcp => (f32Zero neg, flagNone)
  | .rsqrt => if neg then (f32Nan, flagInv) else (0, flagNone)
  | .tanh => (if neg then f32MinusOne else f32One, flagNone)
  | .sigm => (if neg then 0 else f32One, flagNone)
  | _ => (f32Nan, flagInv)

/-- A special function of an F32 operand (R124). -/
def f32Special (f : SpecFn) (a : Word) : Fp :=
  match readF32 a with
  | .nan => (f32Nan, flagNone)
  | .inf n => specialInf f n
  | .fin n m e =>
    match specialExact f a n m e with
    | some r => r
    | none =>
      let x := specialFree f a n m e
      (x, specialFlags x)

end Sys2Proof.Machine
end

