-- ==== Sys2Proof/Machine/Access.lean ====
section
/-! DEFINITION. What an access reaches: segments and ranges (R164 to R169), translation and its checks (R175 to R180, R315), the
L1 and the TLBs (R173, R315), poison (R172), the interlock table (R225), and loads and stores of bytes. -/

namespace Sys2Proof.Machine

/-! ## Translation (R315) -/

def pteBit (e : DWord) (i : Nat) : Bool := e.getLsbD i
def pteV (e : DWord) : Bool := pteBit e 0
def pteT (e : DWord) : Bool := pteBit e 1
def pteR (e : DWord) : Bool := pteBit e 2
def pteW (e : DWord) : Bool := pteBit e 3
def pteX (e : DWord) : Bool := pteBit e 4
def pteCow (e : DWord) : Bool := pteBit e 5
def pteRepl (e : DWord) : Bool := pteBit e 6
def pteHost (e : DWord) : Bool := pteBit e 7
def pteKeyen (e : DWord) : Bool := pteBit e 8
/-- PA, bits 47 to 12, as an address. -/
def ptePa (e : DWord) : Nat := fld e.toNat 12 36 * 4096
def pteKey (e : DWord) : Nat := fld e.toNat 48 14
/-- The fields that must be 0: bits 63 to 62 and 11 to 9. -/
def pteZero (e : DWord) : Bool := fld e.toNat 62 2 = 0 ∧ fld e.toNat 9 3 = 0

def State.pte (s : State) (table i : Nat) : DWord := BitVec.ofNat 64 (leNat (s.physBytes [] (table + 8 * i) 8))

/-- A leaf that names a management aperture fails (R356). -/
def namesAperture (e : DWord) (size : Nat) : Bool :=
  !pteHost e && decide (ptePa e < 0x4100040000) && decide (0x4100000000 < ptePa e + size)

/-- A leaf of a page of `size` bytes, if it is good (R315). -/
def leafOf (e : DWord) (va size : Nat) : Option TlbEntry :=
  if ptePa e % size = 0 ∧ ¬ namesAperture e size then some { asid := 0, va := va - va % size, size, pte := e } else none

/-- Walk the tree from level `lvl`, whose table is at `t` (R315). -/
def State.walkFrom (s : State) (va : Nat) : Nat → Nat → Nat → Option TlbEntry
  | 0, _, _ => none
  | fuel + 1, lvl, t =>
    let e := s.pte t (match lvl with
      | 0 => fld va 39 9
      | 1 => fld va 30 9
      | 2 => fld va 21 9
      | _ => fld va 16 5)
    if ¬ pteV e ∨ ¬ pteZero e then none
    else if pteT e then (if lvl = 3 then none else s.walkFrom va fuel (lvl + 1) (ptePa e))
    else match lvl with
      | 0 => none
      | 1 => leafOf e va (2 ^ 30)
      | 2 => leafOf e va (2 ^ 21)
      | _ => leafOf e va (2 ^ 16)

/-- The address of a partition's topology table (R347). -/
def State.topoAt (s : State) (i : Fin 8) : Nat := (s.die 0).topo.toNat * 2 ^ 14 + 0x800 * i.val

/-- The page of the topology table of the ASID's partition, which firmware maps with R only (R347; log entry 64). -/
def State.topoLeaf (s : State) (asid va : Nat) : Option TlbEntry :=
  let i := (s.asid asid).part
  if (s.partn i).made ∧ va / 2 ^ 16 = (s.partn i).cfg.topoVa / 2 ^ 16 then
    some { asid, va := va - va % 2 ^ 16, size := 2 ^ 16, pte := BitVec.ofNat 64 (s.topoAt i / 2 ^ 16 * 2 ^ 16 + 5) }
  else none

/-- A walk for an ASID. Addresses of more than 48 bits and ASIDs that are not assigned have no translation. -/
def State.walk (s : State) (asid va : Nat) : Option TlbEntry :=
  if va < 2 ^ 48 ∧ (s.asid asid).live then
    match s.topoLeaf asid va with
    | some e => some e
    | none => (s.walkFrom va 4 0 (s.asid asid).root).map (fun e => { e with asid })
  else none

/-- Who makes an access: its ASID and partition, the die it stands on, and the core whose L1 and TLB serve it. -/
structure Agent where
  asid : Nat
  part : Fin 8
  die  : Fin 4
  core : Option CoreId
  deriving DecidableEq, Repr

def Wave.agent (w : Wave) : Agent := ⟨w.id.asid.toNat, w.id.part, w.id.place.die, some w.id.place⟩

/-- The entry of the core's TLB that holds `va`. -/
def State.tlbHit (s : State) (a : Agent) (va : Nat) : Option TlbEntry :=
  match a.core with
  | some c => (s.core c).tlb.find? (fun e => e.asid = a.asid ∧ e.va ≤ va ∧ va < e.va + e.size)
  | none => none

/-- The translation of `va`: from the core's TLB, else by a walk. The page of the topology table stays firmware's also where a larger page around
it is kept (R347). -/
def State.leaf (s : State) (a : Agent) (va : Nat) : Option TlbEntry :=
  match s.tlbHit a va with
  | none => s.walk a.asid va
  | some e => some (if (s.asid a.asid).live then (s.topoLeaf a.asid va).getD e else e)

/-- Keep a translation in the core's TLB (R315); a failed walk is never kept. -/
def State.fillTlb (s : State) (a : Agent) (e : TlbEntry) : State :=
  match a.core with
  | none => s
  | some c => if e ∈ (s.core c).tlb then s else s.setCore c { s.core c with tlb := e :: (s.core c).tlb }

/-- Kinds of access that the checks tell apart (R22, R176). -/
inductive AccKind where
  | fetch | load | store | atomic
  deriving DecidableEq, Repr

/-- KIND of a fault-service request from a wave (R316). -/
def AccKind.code : AccKind → Nat
  | .fetch => 0
  | .load => 1
  | .store => 2
  | .atomic => 3

/-- A slot that is loaded and owned by partition `p` (R176, R180). -/
def State.keyOwned (s : State) (slot : Nat) (p : Fin 8) : Bool :=
  match s.keys.find? (fun e => e.1 = slot) with
  | some e => e.2.owner = p
  | none => false

def State.keyValue (s : State) (slot : Nat) : List DWord :=
  match s.keys.find? (fun e => e.1 = slot) with
  | some e => e.2.key
  | none => []

/-- Whether a key command is running or waiting on the slot: accesses that name it stall (R357). -/
def State.keyBusy (s : State) (slot : Nat) : Bool := s.keyCmds.any (fun k => k.slot = slot)

/-- The checks of R176 after V, and those of R22 for a fetch. -/
def State.pageFault (s : State) (p : Fin 8) (k : AccKind) (e : DWord) : Option (BitVec 8) :=
  let perm : Bool := match k with
    | .fetch => pteX e
    | .load => pteR e
    | .store => pteW e
    | .atomic => pteR e && pteW e
  if ¬ perm then some causeProtect
  else if k = .atomic ∧ pteHost e then some causeProtect
  else if pteKeyen e ∧ ¬ s.keyOwned (pteKey e) p then some causeProtect
  else if pteCow e ∧ (k = .store ∨ k = .atomic) then some causeCow
  else none

/-! ## Places -/

/-- A run of bytes: its place and length. -/
abbrev Piece := Place × Nat

/-- The address of a place in its storage. -/
def Place.addr : Place → Nat
  | .phys pa _ _ => pa
  | .host pa => pa
  | .die _ a => a
  | .scratch _ _ a => a

/-- The place of the same storage at address `a`. -/
def Place.at (p : Place) (a : Nat) : Place :=
  match p with
  | .phys _ k r => .phys a k r
  | .host _ => .host a
  | .die d _ => .die d a
  | .scratch d q _ => .scratch d q a

/-- The place `i` bytes on. -/
def Place.plus (p : Place) (i : Nat) : Place := p.at (p.addr + i)

/-- Whether two places lie in one storage. -/
def Place.sameStore (p r : Place) : Bool :=
  match p, r with
  | .phys _ _ _, .phys _ _ _ => true
  | .host _, .host _ => true
  | .die d _, .die e _ => d = e
  | .scratch d q _, .scratch e x _ => d = e ∧ q = x
  | _, _ => false

/-- What became of an access. -/
inductive Access (α : Type) where
  | ok (a : α)
  | trap (cause : BitVec 8) (info : DWord)
  | ask (hidden : Bool) (cause : BitVec 8) (va : Nat)   -- host first (R316)
  | lost (cause : BitVec 8)                             -- an undelivered trap (R176)
  | hold
  | walk (owner : Option Nat)                           -- waits for a walk's interlock entry, or for any entry (R279)
  deriving Repr

/-- Go on with what an access gave; one that could not be made stays as it is. -/
def Access.andThen {α β : Type} (x : Access α) (f : α → Access β) : Access β :=
  match x with
  | .ok a => f a
  | .trap c i => .trap c i
  | .ask h c va => .ask h c va
  | .lost c => .lost c
  | .hold => .hold
  | .walk o => .walk o

/-- Split a range of virtual addresses at 64 KiB boundaries, the smallest page. `fuel` bounds the pieces. -/
def splitPages : Nat → Nat → Nat → List (Nat × Nat)
  | 0, _, _ => []
  | fuel + 1, va, n =>
    if n = 0 then []
    else
      let room := 2 ^ 16 - va % 2 ^ 16
      if n ≤ room then [(va, n)] else (va, room) :: splitPages fuel (va + room) (n - room)

/-- The virtual address of byte `o` of lane `l` in .l (R168). -/
def Wave.laneAddr (w : Wave) (waves l o : Nat) : Nat :=
  w.seg.l.base.toNat + (w.id.wg.val * waves + w.id.wave.val) * 64 * w.seg.l.limit.toNat + o / 4 * 256 + 4 * l + o % 4

/-- A range of .l of one lane, word by word. -/
def lanePieces (f : Nat → Nat) : Nat → Nat → Nat → List (Nat × Nat)
  | 0, _, _ => []
  | fuel + 1, o, n =>
    if n = 0 then []
    else
      let room := 4 - o % 4
      if n ≤ room then [(f o, n)] else (f o, room) :: lanePieces f fuel (o + room) (n - room)

/-- The address of a byte's replica on a die (R315). -/
def replicaAt (pa : Nat) (d : Fin 4) : Nat := pa % 2 ^ 36 + d.val * 2 ^ 36 + pa / 2 ^ 38 * 2 ^ 38

/-- The physical place of a checked virtual address: on a REPL page a load is served by the replica of the agent's die, anything
else goes to the page's home (R178, R315). The bytes of a HOST page are stored as they are, also where its leaf has KEYEN (log entry 68). -/
def State.placeOf (s : State) (a : Agent) (k : AccKind) (e : TlbEntry) (va : Nat) : Place :=
  let pa := ptePa e.pte + (va - e.va)
  if pteHost e.pte then .host pa
  else
    let key := if pteKeyen e.pte then s.keyValue (pteKey e.pte) else []
    if pteRepl e.pte then
      if k = .load ∨ k = .fetch then .phys (replicaAt pa a.die) key true
      else .phys pa key true
    else .phys pa key false

/-- Translate and check each piece, filling the TLB (R176). `hidden` says that a failure raises no wave trap. -/
def State.reach (s : State) (a : Agent) (k : AccKind) (hidden : Bool) :
    List (Nat × Nat) → Access (State × List Piece)
  | [] => .ok (s, [])
  | (va, n) :: ps =>
    match s.leaf a va with
    | none => .ask hidden causeXlate va
    | some e =>
      if pteKeyen e.pte ∧ s.keyBusy (pteKey e.pte) then .hold
      else match s.pageFault a.part k e.pte with
        | some c =>
          if hidden then .lost c
          else if c = causeCow then .ask false c va
          else .trap c (BitVec.ofNat 64 va)
        | none =>
          ((s.fillTlb a e).reach a k hidden ps).andThen (fun r => .ok (r.1, (s.placeOf a k e va, n) :: r.2))

/-! ## The L1 (R173) -/

/-- The key of a byte in an L1: a device physical address, or a host address above all of them. Nothing above the GDDR is kept: its reads
return 0 (R356). -/
def Place.l1Key : Place → Option Nat
  | .phys pa _ _ => if gddrEnd ≤ pa then none else some pa
  | .host pa => some (2 ^ 48 + pa)
  | _ => none

def lookOpt {α : Type} : List (Nat × α) → Nat → Option α
  | [], _ => none
  | (j, v) :: t, k => if j = k then some v else lookOpt t k

/-- The byte with key `k` in a table of lines. -/
def lineByte (t : List (Nat × L1Line)) (k : Nat) : Option Byte := (lookOpt t (k / 32)).bind (fun x => x.bytes[k % 32]?)

def State.l1Byte (s : State) (a : Agent) (k : Nat) : Option Byte :=
  match a.core with
  | some c => lineByte (s.core c).l1 k
  | none => none

/-- The bytes of a place as storage holds them. -/
def State.rawBytes (s : State) : Place → Nat → List Byte
  | .phys pa key _, n => s.physBytes key pa n
  | .host pa, n => memReads s.host pa n
  | .die d a, n => (s.die d).bytes a n
  | .scratch d q a, n => (s.quad d q).bytes a n

/-- Bytes as a core sees them: an L1 copy where it holds one. -/
def State.viewBytes (s : State) (a : Agent) (k : Nat) : List Byte → List Byte
  | [] => []
  | b :: bs => (s.l1Byte a k).getD b :: s.viewBytes a (k + 1) bs

def State.pieceBytes (s : State) (a : Agent) (p : Piece) : List Byte :=
  let raw := s.rawBytes p.1 p.2
  match p.1.l1Key with
  | some k => s.viewBytes a k raw
  | none => raw

/-- Whether reading the piece meets poison (R172); a copy in the L1 is not read from storage. -/
def State.piecePoisoned (s : State) (a : Agent) (p : Piece) : Bool :=
  match p.1 with
  | .phys pa _ _ => s.gddrPoisoned pa p.2 && (List.range p.2).any (fun i => (s.l1Byte a (pa + i)).isNone)
  | .host _ => false
  | .die d x => (s.die d).poisoned x p.2
  | .scratch d q x => (s.quad d q).poisoned x p.2

/-- The lines that an L1 holds: 256 KiB on an M-core, 128 KiB on an E-core (R173). -/
def l1Lines (c : CoreId) : Nat := if CoreId.isE c then 4096 else 8192

/-- A table of lines with room for one more; which line gives way is a choice of the hardware. -/
def l1Room (t : List (Nat × L1Line)) (c : CoreId) (choice : Nat) : List (Nat × L1Line) :=
  if t.length < l1Lines c then t else t.eraseIdx (Config.l1Victim choice % t.length)

/-- The core may keep the line at `p` (R173): a choice of the hardware. A line that it holds stays as it is. -/
def State.keepLine (s : State) (c : CoreId) (p : Place) : State :=
  match p.l1Key with
  | none => s
  | some k =>
    let x := s.core c
    { s with
      fresh := s.fresh + 1
      cores := if Config.l1Keeps s.fresh ∧ lookOpt x.l1 (k / 32) = none then
          put s.cores (CoreId.key c)
            { x with l1 := put (l1Room x.l1 c s.fresh) (k / 32)
                             { key := match p with
                                 | .phys _ key _ => key
                                 | _ => [],
                               bytes := s.rawBytes p 32 } }
        else s.cores }

/-- After a load the core may keep the lines that it fetched. -/
def State.fillL1 (s : State) (a : Agent) (p : Piece) : State :=
  match a.core with
  | none => s
  | some c =>
    let lo := p.1.addr - p.1.addr % 32
    (List.range ((p.1.addr % 32 + p.2 + 31) / 32)).foldl (fun s i => s.keepLine c (p.1.at (lo + 32 * i))) s

/-- A store updates any copy of its bytes in the storing core's L1 (R173). -/
def updateL1 (t : List (Nat × L1Line)) (k : Nat) : List Byte → List (Nat × L1Line)
  | [] => t
  | b :: bs =>
    updateL1 (match lookOpt t (k / 32) with
      | some x => put t (k / 32) { x with bytes := x.bytes.set (k % 32) b }
      | none => t) (k + 1) bs

/-- Drop the line of byte `k` from the core's L1. -/
def State.dropL1 (s : State) (c : CoreId) (k : Nat) : State :=
  s.setCore c { s.core c with l1 := (s.core c).l1.filter (fun e => e.1 ≠ k / 32) }

/-- Drop every line that holds one of `n` bytes from byte `k`. -/
def State.dropLines (s : State) (c : CoreId) (k n : Nat) : State :=
  if n = 0 ∨ (s.core c).l1 = [] then s
  else s.setCore c { s.core c with l1 := (s.core c).l1.filter (fun e => e.1 < k / 32 ∨ (k + n - 1) / 32 < e.1) }

/-! ## REPL lines (R203) -/

/-- Whether a commit touches a line of the piece; a line is 32 bytes (log entry 22). -/
def ReplCommit.meets (c : ReplCommit) (p : Piece) : Bool :=
  match p.1 with
  | .phys pa _ true =>
    decide (pa % 2 ^ 36 / 32 ≤ (c.addr % 2 ^ 36 + c.bytes.length - 1) / 32 ∧
      c.addr % 2 ^ 36 / 32 ≤ (pa % 2 ^ 36 + p.2 - 1) / 32)
  | _ => false

/-- Whether a load by wave `n`, or by an agent that is no wave, waits for a commit: its replica line is locked, or the agent's own store
to the line is not yet committed. -/
def State.locked (s : State) (n : Option Nat) (p : Piece) : Bool :=
  s.repl.any (fun c => (c.locked || c.wave = n) && c.meets p)

/-- Whether any piece waits for a commit. -/
def State.anyLocked (s : State) (n : Option Nat) (ps : List Piece) : Bool := ps.any (s.locked n)

/-- An access of `who` could not be made: where a line is locked, it may be the one on which it stalls, and it is served before the next lock
(R203). -/
def State.stallLine (s : State) (who : Stalled) : State :=
  if s.repl.any (fun c => c.locked) ∧ who ∉ s.relief then { s with relief := who :: s.relief } else s

/-- `who` tries again while no line is locked. -/
def State.relieved (s : State) (who : Stalled) : State :=
  if who ∈ s.relief ∧ ¬ s.repl.any (fun c => c.locked) then { s with relief := s.relief.filter (· ≠ who) } else s

/-- Bytes at the home once the commits that it has taken are made, in their order: what an atomic that the home takes next reads. -/
def State.homeBytes (s : State) (p : Piece) (bs : List Byte) : List Byte :=
  match p.1 with
  | .phys pa _ true =>
    s.repl.foldl (fun bs c => bs.mapIdx (fun i b =>
      if c.addr ≤ pa + i then (c.bytes[pa + i - c.addr]?).getD b else b)) bs
  | _ => bs

/-! ## Stores below the L1s (R171, R172, R203) -/

/-- The unit code and die of a place, for records (R331). -/
def Place.unit : Place → Fin 4 → Loc
  | .phys pa _ _, _ => dieLoc (Fin.ofNat 4 (pa / 2 ^ 36)) 3 0
  | .host _, d => dieLoc d 15 0
  | .die d a, _ => dieLoc d 0 (a / 4 % 256)
  | .scratch d q a, _ => quadLoc d q 1 (a / 4 % 32)

/-- Store bytes at a place: `note` is the record of a part of it that covers part of a poisoned granule. On a REPL page the home takes the
store as a commit, for wave `n` where one made it. -/
def State.placeStore (s : State) (n : Option Nat) (note : Record) (p : Place) (bs : List Byte) : State :=
  match p with
  | .phys pa key true =>
    if gddrEnd ≤ pa ∨ bs = [] then s
    else { s with repl := s.repl ++ [{ wave := n, addr := pa, key, bytes := bs, bad := false, note, locked := false }] }
  | .phys pa key false =>
    let r := s.physStore key pa bs
    r.1.reportPartial note (p.unit note.loc.die) r.2
  | .host pa => { s with host := memWrites s.host pa bs }
  | .die d a =>
    let r := (s.die d).store a bs
    (s.setDie d r.1).reportPartial note (p.unit note.loc.die) r.2
  | .scratch d q a =>
    let r := (s.quad d q).store a bs
    (s.setQuad d q r.1).reportPartial note (p.unit note.loc.die) r.2

/-- Poison the words of die memory or scratchpad that the `n` bytes from `a` lie in. -/
def poisonWords (p : List (Nat × Bool)) (a n : Nat) : List (Nat × Bool) :=
  (List.range ((a % 4 + n + 3) / 4)).foldl (fun p i => put p (a / 4 + i) true) p

/-- Store bytes of one granule that come from a poisoned one, and poison it (R228); a granule that is poisoned already, and not covered
whole, keeps what it has (R172). Host memory keeps no poison. -/
def State.poisonStore (s : State) (n : Option Nat) (note : Record) (p : Place) (bs : List Byte) : State :=
  let kept : State := s.reportPartial note (p.unit note.loc.die) [p.addr]
  match p with
  | .phys pa key true =>
    if gddrEnd ≤ pa then s
    else { s with repl := s.repl ++ [{ wave := n, addr := pa, key, bytes := bs, bad := true, note, locked := false }] }
  | .phys pa key false =>
    if gddrEnd ≤ pa then s
    else if look false s.gddrPoison (pa / 32) ∧ bs.length ≠ 32 then kept
    else { s.unitWrite key pa bs with gddrPoison := put s.gddrPoison (pa / 32) true }
  | .host pa => { s with host := memWrites s.host pa bs }
  | .die d a =>
    let x := s.die d
    if look false x.poison (a / 4) ∧ bs.length ≠ 4 then kept
    else s.setDie d { x with mem := memWrites x.mem a bs, poison := poisonWords x.poison a bs.length }
  | .scratch d q a =>
    let x := (s.quad d q).wakes (a / 256) 1
    if look false x.poison (a / 4) ∧ bs.length ≠ 4 then kept
    else s.setQuad d q { x with scratch := memWrites x.scratch a bs, poison := poisonWords x.poison a bs.length }

/-! ## Notify pages (R150, R356) -/

/-- Store bytes at a list of pieces. -/
def State.placeStores (s : State) (n : Option Nat) (note : Record) : List Piece → List Byte → State
  | [], _ => s
  | (p, k) :: ps, bs => (s.placeStore n note p (bs.take k)).placeStores n note ps (bs.drop k)

/-- What a record about an agent that is no wave says of it. -/
def Agent.note (a : Agent) : Record :=
  { Record.partialStore (dieLoc a.die 16 0) with asid := BitVec.ofNat 16 a.asid, part := BitVec.ofNat 8 a.part.val }

/-- A notification of queue `q` (R150): the pending bit of its slot, or NOTIFYW ← 1. It has no effect on a queue that is not
registered (R356). The write of NOTIFYW stalls while a key command runs on the slot of its page (R357). Where the descriptor cannot be reached, the
bit is kept in the queue's own entry (log entry 9). -/
def State.notify (s : State) (q : Nat) : State :=
  match lookOpt s.queues q with
  | none => s
  | some x =>
    if x.mapped then s.setQueue q { x with pending := true }
    else
      let a : Agent := ⟨x.asid, x.part, 0, none⟩
      match s.reach a .store true (splitPages 2 (x.desc + 0x18) 8) with
      | .ok (_, ps) => s.placeStores none a.note ps (bytesOfNat 8 1)
      | .hold => { s with owed := s.owed ++ [{ asid := x.asid, part := x.part, die := 0, va := x.desc + 0x18, bytes := bytesOfNat 8 1 }] }
      | _ => s.setQueue q { x with pending := true }

/-- The queue whose notify page holds a device physical address (R356). -/
def notifyQueue (pa : Nat) : Option Nat :=
  if 0x4000000000 ≤ pa ∧ pa < 0x4010000000 then some ((pa - 0x4000000000) / 4096) else none

/-- The queue that a store at a place notifies: the leaf has HOST, REPL and KEYEN clear (R356). Through any other leaf a store to a notify
page is discarded (log entry 69). -/
def Place.notifies : Place → Option Nat
  | .phys pa [] false => notifyQueue pa
  | _ => none

/-- The die to which a write at a place goes. -/
def Place.die? : Place → Option (Fin 4)
  | .phys pa _ _ => some (Fin.ofNat 4 (pa / 2 ^ 36))
  | .die d _ => some d
  | _ => none

/-- An agent of logical die `a` has sent logical die `b` a write: the updates to `b` that agents of `a` have seen are its causal
predecessors, and go before it (R202). -/
def Partition.push (q : Partition) (a b : Nat) : Partition :=
  { q with updates := q.updates.map (fun u => if u.die = b ∧ a ∈ u.seen then { u with force := true } else u) }

/-- A write by an agent of partition `p` on die `a` is sent to die `b`; those within one die carry no tag (R202). -/
def State.push (s : State) (p : Fin 8) (a b : Fin 4) : State :=
  let q := s.partn p
  if a = b ∨ q.updates = [] then s else s.setPartn p (q.push (q.logDie a) (q.logDie b))

/-- Store bytes at a place below every L1, `bad` telling whether they come from a poisoned granule; `note` says which partition and die the
store comes from. -/
def State.deviceStore (s : State) (n : Option Nat) (note : Record) (p : Place) (bs : List Byte) (bad : Bool) : State :=
  match p.notifies with
  | some q => s.notify q
  | none =>
    let s1 := match p.die? with
      | some d => s.push (Fin.ofNat 8 note.part.toNat) note.loc.die d
      | none => s
    if bad then s1.poisonStore n note p bs else s1.placeStore n note p bs

/-! ## Loads and stores of pieces -/

/-- Bytes at `p` as lanes that have made the late store `x` see them (R199). -/
def LateStore.over (x : LateStore) (p : Place) (bs : List Byte) : List Byte :=
  if x.place.sameStore p then
    bs.mapIdx (fun i b =>
      if x.place.addr ≤ p.addr + i then (x.bytes[p.addr + i - x.place.addr]?).getD b else b)
  else bs

/-- Whether a late store and a piece share a byte. -/
def LateStore.touches (x : LateStore) (p : Piece) : Bool :=
  x.place.sameStore p.1 && decide (x.place.addr < p.1.addr + p.2) && decide (p.1.addr < x.place.addr + x.bytes.length)

/-- The lanes `m` have all made the store, and at least one has. -/
def LateStore.by (x : LateStore) (m : BitVec 64) : Bool := decide (m ≠ 0) && decide (m &&& ~~~x.lanes = 0)

/-- A load of the piece by the lanes `m` waits for the store: the store is an event of some of them, and not of all; or it, or the load, is
an event of no lane, and so stands in no lane's order but the run's (R21, R189, R191). -/
def LateStore.blocks (x : LateStore) (m : BitVec 64) (p : Piece) : Bool :=
  x.touches p && !x.by m && (decide (m = 0) || decide (x.lanes = 0) || decide (x.lanes &&& m ≠ 0))

/-- Bytes at `p` with the late stores of the lanes `m` laid over them, oldest first. -/
def Wave.withLate (w : Wave) (m : BitVec 64) (p : Place) (bs : List Byte) : List Byte :=
  (w.late.filter (fun x => x.by m)).foldl (fun bs x => x.over p bs) bs

/-- A load of the piece by the lanes `m` has seen their late stores (R201). -/
def State.seeLate (s : State) (n : Nat) (m : BitVec 64) (p : Piece) : State :=
  let w := s.wave n
  if w.late.any (fun x => x.by m && x.touches p) then
    s.setWave n { w with late := w.late.map (fun x => { x with seen := x.seen || (x.by m && x.touches p) }) }
  else s

/-- Load the bytes of pieces in order for the lanes `m` of wave `n`. Poison, locked lines and late stores that must come first are
reported. -/
def State.loadPieces (s : State) (n : Nat) (m : BitVec 64) : List Piece → Access (State × List Byte)
  | [] => .ok (s, [])
  | p :: ps =>
    let a := (s.wave n).agent
    if s.locked (some n) p || (s.wave n).late.any (fun x => x.blocks m p) then .hold
    else if s.piecePoisoned a p then .trap causePoison 0
    else
      let bs := (s.wave n).withLate m p.1 (s.pieceBytes a p)
      (((s.fillL1 a p).seeLate n m p).loadPieces n m ps).andThen (fun r => .ok (r.1, bs ++ r.2))

/-- The key of a stored byte in the L1 of a core on `die`: on a REPL page, that of the die's replica, which its loads read. -/
def Place.storeKey (p : Place) (die : Fin 4) : Option Nat :=
  match p with
  | .phys pa _ repl => if gddrEnd ≤ pa then none else some (if repl then replicaAt pa die else pa)
  | .host pa => some (2 ^ 48 + pa)
  | _ => none

/-- A store by wave `n` is performed: write-through, with the copy in its core's L1 (R172, R173). On a REPL page the copy follows at the
commit. -/
def State.perform (s : State) (n : Nat) (note : Record) (p : Place) (bs : List Byte) : State :=
  let s1 := s.deviceStore (some n) note p bs false
  let c := (s.wave n).id.place
  let t := (s1.core c).l1
  match p with
  | .phys _ _ true => s1
  | _ =>
    match p.storeKey c.die with
    | some k => if t = [] then s1 else s1.setCore c { s1.core c with l1 := updateL1 t k bs }
    | none => s1

/-- Whether a store may be performed later than its word: not on a REPL page, whose commit is later in any case, nor where it notifies or
meets poison. -/
def State.mayWait (s : State) (p : Piece) : Bool :=
  match p.1 with
  | .phys pa _ repl => !repl && decide (pa + p.2 ≤ gddrEnd) && !s.gddrPoisoned pa p.2
  | .host _ => true
  | .die d a => !(s.die d).poisoned a p.2
  | .scratch d q a => !(s.quad d q).poisoned a p.2

/-- A place on a HOST page. -/
def Place.onHost : Place → Bool
  | .host _ => true
  | _ => false

/-- A store of the piece by the lanes `m`, `steps` vector words ago, stands in order with a store `x`: both go to HOST pages, where a wave's
stores leave in program order (R355); or they share a byte, and share a lane, or one of them is an event of no lane, or they may be of one
word, whose elements go in lane order (R21, R140). -/
def LateStore.ordered (x : LateStore) (m : BitVec 64) (steps : Nat) (p : Piece) : Bool :=
  (x.place.onHost && p.1.onHost) ||
  (x.touches p && (decide (x.lanes &&& m ≠ 0) || decide (m = 0) || decide (x.lanes = 0) || decide (x.steps = steps)))

/-- The lanes `m` of wave `n` store the bytes of one piece: at once, or later, as the hardware chooses; behind a late store with which it
stands in order it is late too (R109, R199; log entry 8). -/
def State.storePiece (s : State) (n : Nat) (m : BitVec 64) (note : Record) (p : Place) (bs : List Byte) : State :=
  let w := s.wave n
  if s.mayWait (p, bs.length) ∧ (w.late.any (fun x => x.ordered m 0 (p, bs.length)) ∨ Config.storesLate s.fresh) then
    ({ s with fresh := s.fresh + 1 } : State).setWave n
      { w with late := w.late ++ [{ lanes := m, place := p, bytes := bs, note, steps := 0, seen := false }] }
  else ({ s with fresh := s.fresh + 1 } : State).perform n note p bs

def State.storePieces (s : State) (n : Nat) (m : BitVec 64) (note : Record) : List Piece → List Byte → State
  | [], _ => s
  | (p, k) :: ps, bs => (s.storePiece n m note p (bs.take k)).storePieces n m note ps (bs.drop k)

/-- The first `k` late stores of wave `n` are performed, in order. -/
def State.performLate (s : State) (n : Nat) : Nat → State
  | 0 => s
  | k + 1 =>
    match (s.wave n).late with
    | [] => s
    | x :: t => ((s.setWave n { s.wave n with late := t }).perform n x.note x.place x.bytes).performLate n k

/-- Late store `i` of wave `n` is performed, or the oldest one where it stands in order behind an earlier one. -/
def State.performAt (s : State) (n i : Nat) : State :=
  let w := s.wave n
  match w.late[i]? with
  | none => s
  | some x =>
    if (w.late.take i).any (fun y => y.ordered x.lanes x.steps (x.place, x.bytes.length)) then s.performLate n 1
    else (s.setWave n { w with late := w.late.eraseIdx i }).perform n x.note x.place x.bytes

/-- How many late stores are performed before an acquire: those up to the last that a load of the wave has seen, since no other agent of the
die may then see the store later than a write that the wave has yet to see (R201). -/
def Wave.seenLate (w : Wave) : Nat := w.late.length - (w.late.reverse.takeWhile (fun x => !x.seen)).length

/-- An acquire at .quad or wider by wave `n`: the late stores that it has seen are performed, and the L1 of its core is emptied (R173,
R201). -/
def State.acquireBy (s : State) (n : Nat) : State :=
  (s.performLate n (s.wave n).seenLate).acquire (s.wave n).id.place

/-! ## Late loads (R109, R199; log entry 89) -/

/-- The late load is by one of the lanes `m`, or these are none, and shares a byte with the piece. -/
def LateLoad.touches (x : LateLoad) (m : BitVec 64) (p : Piece) : Bool :=
  x.place.sameStore p.1 && decide (x.place.addr < p.1.addr + p.2) && decide (p.1.addr < x.place.addr + x.len) &&
  (decide (m = 0) || m.getLsbD x.lane.val)

/-- The lanes `m` access the pieces: the loads of the same bytes that they have made stand as they are (R191). -/
def State.settleLoads (s : State) (m : BitVec 64) (ps : List Piece) : State :=
  if s.me.loads = [] then s else s.setMe { s.me with loads := s.me.loads.filter (fun x => !ps.any (x.touches m)) }

/-- A late load of wave `n` is performed now, unless its line is locked or poisoned or a late store must come first. -/
def State.reload (s : State) (n : Nat) (x : LateLoad) : State :=
  match s.loadPieces n (bit64 x.lane.val) [(x.place, x.len)] with
  | .ok (t, bs) => t.setWave n ((t.wave n).setV x.vd x.lane (BitVec.ofNat 32 (leNat bs)))
  | _ => s

/-! ## A wave's accesses by space and offset -/

def Wave.segment (w : Wave) : Space → Segment
  | .g => w.seg.g
  | .d => w.seg.d
  | .q => w.seg.q
  | .c => w.seg.c
  | .l => w.seg.l

/-- In range: o + n ≤ limit, computed without wrap (R164). -/
def Wave.inRange (w : Wave) (sp : Space) (o n : Nat) : Bool := o + n ≤ (w.segment sp).limit.toNat

/-- WAVES of the wave's gang, which places its .l memory (R168). -/
def State.wavesOf (s : State) (w : Wave) : Nat := (s.gang w.id.gang).record.waves

/-- The physical die of the wave's .d segment (R169). -/
def State.segDie (s : State) (w : Wave) : Fin 4 := (s.gang w.id.gang).segDie

/-- The pieces of `n` bytes at offset `o` of a space, for lane `l` of .l (R164, R168, R169). -/
def State.pieces (s : State) (w : Wave) (sp : Space) (l o n : Nat) (k : AccKind) : Access (State × List Piece) :=
  match sp with
  | .g => s.reach w.agent k false (splitPages 3 (w.seg.g.base.toNat + o) n)
  | .c => s.reach w.agent k true (splitPages 3 (w.seg.c.base.toNat + o) n)
  | .l => s.reach w.agent k true (lanePieces (w.laneAddr (s.wavesOf w) l) 3 o n)
  | .d => .ok (s, [(.die (s.segDie w) (w.seg.d.base.toNat + o), n)])
  | .q => .ok (s, [(.scratch w.id.place.die w.id.place.quad (w.seg.q.base.toNat + o), n)])

/-- The range of an access as the interlock table compares it (R225). -/
def State.rangeOf (s : State) (w : Wave) (sp : Space) (o n : Nat) : Range :=
  let base := (w.segment sp).base.toNat
  match sp with
  | .d => { sp, die := (s.segDie w).val, lo := base + o, hi := base + o + n - 1 }
  | _ => { sp, die := 0, lo := base + o, hi := base + o + n - 1 }

def Range.meets (a b : Range) : Bool := a.sp = b.sp ∧ a.die = b.die ∧ a.lo ≤ b.hi ∧ b.lo ≤ a.hi

def Range.hits (a : Range) : Option Range → Bool
  | none => false
  | some b => a.meets b

/-- The walk that an interlock entry belongs to, if it is one that lanes outside the run are in; a routine's own instructions, and those of
a handler entered from it, are not held by its walk's entry (R279, R291). -/
def Wave.lockOwner (w : Wave) (i : Interlock) : Access Unit :=
  match w.walks.find? (fun e => e.2.phase ≠ .idle ∧ e.2.lock = i.owner) with
  | none => .hold
  | some _ =>
    if w.walks.any (fun e => e.2.phase ≠ .idle ∧ e.2.lock = i.owner ∧ w.run.mask.getLsbD e.1) then .ok ()
    else .walk (some i.owner)

/-- An engine transfer needs an interlock entry (R225). While all eight are held by walks of the wave its run is not runnable (R279). -/
def Wave.freeLock (w : Wave) : Access Unit :=
  if w.locks.length < 8 then .ok ()
  else if w.locks.all (fun i => w.walks.any (fun e => e.2.phase ≠ .idle ∧ e.2.lock = i.owner)) then .walk none
  else .hold

/-- What the interlock entries that `bad` names do to the tie group. -/
def Wave.lockCheck (w : Wave) (bad : Interlock → Bool) : Access Unit :=
  (w.locks.filter bad).foldl (fun r i => match r with
    | .ok () => w.lockOwner i
    | x => x) (.ok ())

/-- A load waits for a pending destination, a store for a pending source or destination (R225). -/
def Wave.lockLoad (w : Wave) (r : Range) : Access Unit := w.lockCheck (fun i => r.hits i.dst)

def Wave.lockStore (w : Wave) (r : Range) : Access Unit := w.lockCheck (fun i => r.hits i.dst || r.hits i.src)

/-- An engine transfer's source waits for a pending destination, and its destination for both; the wave's
late stores come first (R189, R225). -/
def Wave.lockXfer (w : Wave) (src dst : Option Range) : Access Unit :=
  let bad (i : Interlock) : Bool :=
    (match src with
      | some r => r.hits i.dst
      | none => false) ||
    (match dst with
      | some r => r.hits i.dst || r.hits i.src
      | none => false)
  if w.late ≠ [] then .hold else w.lockCheck bad

/-- The end of a word whose access could not be made: the trap at element `e`, the request to the host, the wait. -/
def State.failed {α : Type} (s : State) (w : Wave) (k : AccKind) (none : Out) : Access α → Out
  | .ok _ => none
  | .trap c i => (s.setMe w).trap c i
  | .ask false c va => .next ((s.setMe w).hostFirst s.cur k.code c va)
  | .ask true c va =>
    let s1 := s.setMe { w with wait := .service s.tag }
    .next (s1.request (.hidden s.cur) w.id.place.die w.id.asid.toNat w.id.part k.code c va w.id.task)
  | .lost c => .next ((s.setMe w).lose s.cur c)
  | .hold => .next (s.setMe { w with held := true })
  | .walk o =>
    .next (s.next.setMe { w with run := { w.run with wait := some { what := .lock o, order := s.seq, start := s.time } } })

/-- Load `n` bytes at offset `o` for the lanes `m`, in .l for lane `l`, after the range check: interlock, page checks, lines, poison (R85,
R139). -/
def State.loadAt (s : State) (w : Wave) (sp : Space) (m : BitVec 64) (l o n : Nat) : Access (State × List Byte) :=
  (w.lockLoad (s.rangeOf w sp o n)).andThen fun _ =>
  (s.pieces w sp l o n .load).andThen fun r =>
  match (r.1.settleLoads m r.2).loadPieces r.1.cur m r.2 with
  | .trap c _ => .trap c (spaceInfo sp o)
  | x => x

/-- Lane `l` of the issuing wave has loaded register `vd` from `n` bytes at offset `o`, where `w` is its wave before the access: the load may be
performed anew later, as the hardware chooses. -/
def State.noteLoad (s : State) (w : Wave) (sp : Space) (l : Lane) (vd : VReg) (o n : Nat) : State :=
  match s.pieces w sp l.val o n .load with
  | .ok (_, [(p, k)]) =>
    let y := s.me
    ({ s with fresh := s.fresh + 1 } : State).setMe
      { y with loads := if Config.loadsLate s.fresh then y.loads ++ [{ lane := l, vd, place := p, len := k, steps := 0 }] else y.loads }
  | _ => s

/-- What a record says of a store by the issuing wave's word for lane `l`. -/
def Wave.storeNote (w : Wave) (l : Nat) : Record :=
  { (Record.partialStore (coreLoc w.id.place 0 0)).ofWave w with data0 := BitVec.ofNat 64 l }

/-- Store bytes at offset `o` for the lanes `m`, in .l for lane `l`, after the range check. A store that must be performed at once waits
for a late one of the same bytes. -/
def State.storeAt (s : State) (w : Wave) (sp : Space) (m : BitVec 64) (l o : Nat) (bs : List Byte) : Access State :=
  (w.lockStore (s.rangeOf w sp o bs.length)).andThen fun _ =>
  (s.pieces w sp l o bs.length .store).andThen fun r =>
  if r.2.any (fun p => !r.1.mayWait p && (r.1.wave r.1.cur).late.any (fun x => x.touches p)) then .hold
  else .ok ((r.1.settleLoads m r.2).storePieces r.1.cur m (w.storeNote l) r.2 bs)

/-! ## What a release waits for -/

/-- Whether the earlier stores of wave `n` have been performed for the agents of its die: none is late, and no commit of it is under way
(R199, R203). -/
def State.storesQuiet (s : State) (n : Nat) : Bool := decide ((s.wave n).late = []) && !s.repl.any (fun c => c.wave = some n)

/-- Whether they have been performed at .pkg: the changes of sync registers that agents of its die have made or seen have also reached every
mirror (R194, R202). -/
def State.storesDone (s : State) (n : Nat) : Bool :=
  let q := s.partn (s.wave n).id.part
  s.storesQuiet n && !q.updates.any (fun u => q.logDie (s.wave n).id.place.die ∈ u.seen)

/-- Whether a store of wave `n` to a REPL page is not yet committed (R203). -/
def State.commitsOf (s : State) (n : Nat) : Bool := s.repl.any (fun c => c.wave = some n)

/-- Whether every earlier engine transfer of the wave that the running entry waits for has been performed (R196, R225). -/
def Wave.transfersDone (w : Wave) : Access Unit := w.lockCheck (fun _ => true)

/-- A release that waits for the run's stores, at .pkg where `wide` is set (R196, R211): then `body`. -/
def State.afterStores (s : State) (wide : Bool) (body : Out) : Out :=
  if (if wide then s.storesDone s.cur else s.storesQuiet s.cur) then body else s.hold

/-- A release that waits for the run's events and the wave's transfers (R196, R214, R299): then `body`. -/
def State.afterAll (s : State) (wide : Bool) (body : Out) : Out :=
  match s.me.transfersDone with
  | .ok () => s.afterStores wide body
  | x => s.failed s.me .load s.hold x

/-- Whether a grace holds wave `n` (R300). -/
def State.graceHolds (s : State) (n : Nat) : Bool :=
  s.domains.any (fun e => match e.2.now with
    | some g => decide (n ∈ g.held)
    | none => false)

/-- A word that makes a quiescent point of a held wave is a release (R302): it waits for the run's events first. -/
def State.atQuiet (s : State) (quiet : Bool) (body : Out) : Out :=
  if quiet ∧ s.graceHolds s.cur then s.afterAll true body else body

/-- The .q high-water mark of the gang: one plus the highest offset written, rounded up to 256 (R320). -/
def State.mark (s : State) (w : Wave) (sp : Space) (top : Nat) : State :=
  if sp = .q then
    let g := s.gang w.id.gang
    let m := (top + 255) / 256 * 256
    if g.hwm < m then s.setGang w.id.gang { g with hwm := m } else s
  else s

end Sys2Proof.Machine
end

