-- ==== Sys2Proof/Machine/Objects.lean ====
section
/-! DEFINITION. The objects that agents wait at: stitch markers, die sync registers, named barriers, rings, block pools, graces
and scope barriers (R163, R207 to R221, R237, R301); and the satisfaction of blocked runs in the order of their objects (R102). -/

namespace Sys2Proof.Machine

/-! ## Stitch markers (R207) -/

def State.marker (s : State) (c : CoreId) (m : Fin 64) : Word := look 0 (s.quad c.die c.quad).marks m.val

def State.setMarker (s : State) (c : CoreId) (m : Fin 64) (x : Word) : State :=
  let q := s.quad c.die c.quad
  s.setQuad c.die c.quad { q with marks := put q.marks m.val x }

/-! ## Die sync registers (R210 to R212) -/

/-- The logical die that is the home of a register. -/
def dsHome (n : Fin 1024) : Nat := n.val / 256

/-- The logical die of a wave's place. -/
def State.logDie (s : State) (w : Wave) : Nat := (s.partn w.id.part).logDie w.id.place.die

/-- The value at the home. Two partitions that share a die have each their own set of registers (log entry 70). -/
def State.dsValue (s : State) (p : Fin 8) (n : Fin 1024) : Word := look 0 (s.partn p).ds n.val

/-- The local copy: the home register on the home die, the mirror elsewhere (R211). -/
def State.dsLocal (s : State) (w : Wave) (n : Fin 1024) : Word :=
  if s.logDie w = dsHome n then s.dsValue w.id.part n
  else look 0 (s.partn w.id.part).mirror (1024 * s.logDie w + n.val)

/-- The key of the edge between two dies. -/
def edgeKey (a b : Fin 4) : Nat := min a.val b.val * 4 + max a.val b.val

def State.edge (s : State) (a b : Fin 4) : Edge := look .up s.edges (edgeKey a b)

/-- Whether flits between two dies may travel: none of their edge is being replayed (R325, R351). -/
def State.linkFree (s : State) (a b : Fin 4) : Bool := decide (a = b) || decide ((s.edge a b).failed = 0)

/-- Agents of logical die `a` have seen register `r` at its home: the updates of it go before what that die sends, and their own mirror must
not fall behind what they have seen (R191, R202). -/
def Partition.seeHome (q : Partition) (a r : Nat) : Partition :=
  { q with updates := q.updates.map (fun u =>
      if u.reg = r then { u with seen := if a ∈ u.seen then u.seen else a :: u.seen, force := u.force || decide (u.die = a) } else u) }

/-- A home operation by an agent of logical die `a`. One that changes the value sends an update to each mirror (R212); that of its own die
follows before the agent goes on (R191). -/
def State.setDs (s : State) (a : Nat) (p : Fin 8) (r : Fin 1024) (x : Word) : State :=
  let q := s.partn p
  let h := dsHome r
  let us := ((List.range q.ndie).filter (· ≠ h)).map (fun d =>
    ({ num := s.fresh, die := d, reg := r.val, value := x, seen := if a = h then [h] else [h, a], force := decide (d = a) } : Update))
  ({ s with fresh := s.fresh + 1 } : State).setPartn p
    { q with ds := put q.ds r.val x, updates := if look 0 q.ds r.val = x then q.updates else q.updates ++ us }

/-- Whether an update may travel: its edge replays no flit (R351). -/
def State.updateFree (s : State) (p : Partition) (u : Update) : Bool :=
  decide ((s.edge (p.physDie (u.reg / 256)) (p.physDie u.die)).failed = 0)

/-- The edge of an update is down, so that it never travels (R351). -/
def State.updateDown (s : State) (p : Partition) (u : Update) : Bool := (s.edge (p.physDie (u.reg / 256)) (p.physDie u.die)).down

/-- An update reaches its mirror; agents of that die may see it, so that the other updates of its operation go before what they send
(R194, R202). -/
def Partition.arrive (q : Partition) (u : Update) : Partition :=
  { q with
    mirror := put q.mirror (1024 * u.die + u.reg) u.value
    updates := (q.updates.erase u).map (fun v =>
      if v.num = u.num ∧ u.die ∉ v.seen then { v with seen := u.die :: v.seen } else v) }

/-- The next update that must arrive before the step is over: those of one home to one die arrive in the home's order (R212). -/
def State.nextForced (s : State) (q : Partition) : Option Update :=
  q.updates.find? (fun u => s.updateFree q u && q.updates.any (fun v => v.force && decide (v.die = u.die) && decide (v.reg / 256 = u.reg / 256)))

/-! ## Named barriers (R216) -/

def Gang.bar (g : Gang) (wg : Nat) (nb : Fin 16) : NamedBar := look .launch g.bars (16 * wg + nb.val)

def Gang.setBar (g : Gang) (wg : Nat) (nb : Fin 16) (b : NamedBar) : Gang :=
  { g with bars := put g.bars (16 * wg + nb.val) b }

/-- One arrival (R218). -/
def NamedBar.arrive (b : NamedBar) : NamedBar :=
  if b.arr + 1 = b.exp then { b with phase := b.phase + 1, arr := 0 } else { b with arr := b.arr + 1 }

/-- PHASE has reached `t` or passed it by fewer than 32,768 phases (R219). -/
def NamedBar.reached (b : NamedBar) (t : BitVec 16) : Bool := (b.phase - t).toNat < 2 ^ 15

/-! ## Rings (R237, R238) -/

def Gang.ring (g : Gang) (rg : Fin 8) : Ring := look .launch g.rings rg.val

def Gang.setRing (g : Gang) (rg : Fin 8) (r : Ring) : Gang := { g with rings := put g.rings rg.val r }

def Ring.slot (r : Ring) (i : Nat) : SlotState := look .free r.st i

def Ring.setSlot (r : Ring) (i : Nat) (x : SlotState) : Ring := { r with st := put r.st i x }

/-- There is room for `n` more slots: not RES + n − FREE > SLOTS. -/
def Ring.room (r : Ring) (n : Nat) : Bool := (r.res - r.free).toNat + n ≤ r.slots

/-- Mark the `n` slots from counter value `c` RESERVED. -/
def Ring.reserveFrom (r : Ring) (c : Nat) : Nat → Ring
  | 0 => r
  | n + 1 => (r.setSlot (c % r.slots) .reserved).reserveFrom (c + 1) n

/-- `rres` takes `n` slots. -/
def Ring.reserve (r : Ring) (n : Nat) : Ring :=
  let r1 := r.reserveFrom r.res.toNat n
  { r1 with res := r.res + BitVec.ofNat 14 n }

/-- FILL advances over every PUBLISHED slot in order. -/
def Ring.fillUp (r : Ring) : Nat → Ring
  | 0 => r
  | fuel + 1 =>
    if r.slot (r.fill.toNat % r.slots) = .published ∧ r.fill ≠ r.res then { r with fill := r.fill + 1 }.fillUp fuel else r

/-- FREE advances over every RELEASED slot in order, making each FREE. -/
def Ring.freeUp (r : Ring) : Nat → Ring
  | 0 => r
  | fuel + 1 =>
    let i := r.free.toNat % r.slots
    if r.slot i = .released then { r.setSlot i .free with free := r.free + 1 }.freeUp fuel else r

/-- A slot is published: `rpub` from RESERVED, `cp.ldr` from FILLING; any other state sets ERR. -/
def Ring.publish (r : Ring) (i : Nat) (was : SlotState) : Ring :=
  if r.slot i = was then (r.setSlot i .published).fillUp r.slots else { r with err := true }

def Ring.pop (r : Ring) : Ring := { r.setSlot (r.con.toNat % r.slots) .popped with con := r.con + 1 }

def Ring.release (r : Ring) (i : Nat) : Ring :=
  if r.slot i = .popped then (r.setSlot i .released).freeUp r.slots else { r with err := true }

/-! ## Block pools (R163) -/

def Gang.poolOf (g : Gang) (wg : Nat) : Nat := look 0 g.pool wg

/-- v(8b) to v(8(b+n) − 1) become 0 and clean (R163, R323). -/
def Wave.zeroRegs (w : Wave) (b n : Nat) : Wave :=
  let inside (i : Nat) : Bool := 8 * b ≤ i ∧ i < 8 * (b + n)
  { w with
    v := w.v.mapIdx (fun i x => if inside i then Vector.replicate 64 0 else x)
    dirty := w.dirty &&& BitVec.ofNat 32 (2 ^ 32 - 1 - (2 ^ (8 * (b + n)) - 2 ^ (8 * b)))
    hw := w.hw.mapIdx (fun i x => if inside i then 0 else x) }

/-! ## Grace domains (R298, R301) -/

/-- The domain an instruction names: the .die domain of the wave's .d segment die, or the .pkg domain. -/
def State.domOf (s : State) (w : Wave) : GScope → Nat
  | .die => domKey w.id.asid.toNat (some (Fin.ofNat 4 ((s.partn w.id.part).logDie (s.segDie w))))
  | .pkg => domKey w.id.asid.toNat none

/-- C has reached `t`. -/
def Domain.reached (d : Domain) (t : Word) : Bool := (d.c - t).toNat < 2 ^ 31

/-! ## Blocked runs -/

/-- A blocked run: the order of its arrival, its wave and its wait. -/
structure Waiter where
  wave : Nat
  wait : Waiting
  deriving DecidableEq, Repr

def Entry.waiters (n : Nat) (e : Entry) : List Waiter :=
  match e.wait with
  | some x => [⟨n, x⟩]
  | none => []

def insertWaiter (x : Waiter) : List Waiter → List Waiter
  | [] => [x]
  | y :: t => if x.wait.order < y.wait.order then x :: y :: t else y :: insertWaiter x t

/-- Every blocked run of the package in order of arrival. -/
def State.waiters (s : State) : List Waiter :=
  ((s.liveWaves.flatMap (fun e => (e.2.run :: e.2.rest).flatMap (Entry.waiters e.1)))).foldr insertWaiter []

/-- Whether an earlier run waits on the same ring or pool, which serve strictly in order (R163, R238). -/
def State.queued (s : State) (n : Nat) (before : Nat) (same : Wait → Bool) : Bool :=
  s.waiters.any (fun x => x.wait.order < before && x.wave / 64 = n / 64 && same x.wait.what)

def sameRres (rg : Fin 8) : Wait → Bool
  | .rres _ r _ => r = rg
  | _ => false

def sameRpop (rg : Fin 8) : Wait → Bool
  | .rpop _ r => r = rg
  | _ => false

/-- Waits for blocks in the pool of the workgroup of wave `n`. -/
def State.queuedClaim (s : State) (n : Nat) (before : Nat) : Bool :=
  s.waiters.any (fun x => x.wait.order < before && x.wave / 16 = n / 16 && match x.wait.what with
    | .rclaim _ => true
    | _ => false)

/-- The tile commands of the wave that `twait id` waits for: the command with that id, or every one; never a held one (R256, R266). -/
def Wave.tilesFor (w : Wave) (id : Fin 32) : List TileCmd :=
  w.tiles.filter (fun t => t.held.isNone && (id = 0 || t.id = id))

/-- Whether what a run of wave `n` waits for holds now; `before` is its place in the order of arrival. A claim goes on waiting while
another run's claim has left the wave no room under its 4 blocks (log entry 71). -/
def State.waitMet (s : State) (n before : Nat) : Wait → Bool
  | .mkTas _ i => !(s.marker (s.wave n).id.place i).getLsbD 0
  | .dsWeq ds v => s.dsLocal (s.wave n) ds = v
  | .bwait _ nb t =>
    let b := (s.gang (s.wave n).id.gang).bar (s.wave n).id.wg.val nb
    !b.valid || b.reached t
  | .rres _ rg k =>
    let r := (s.gang (s.wave n).id.gang).ring rg
    r.room k && !s.queued n before (sameRres rg)
  | .rpop _ rg =>
    let r := (s.gang (s.wave n).id.gang).ring rg
    r.con ≠ r.fill && !s.queued n before (sameRpop rg)
  | .twait id => (s.wave n).tilesFor id = []
  | .wgrace sc t => (s.domain (s.domOf (s.wave n) sc)).reached t
  | .join => (s.wave n).kids = 0
  | .rclaim k =>
    let w := s.wave n
    decide (k ≤ (s.gang w.id.gang).poolOf w.id.wg.val) && decide (w.blocks.val + k ≤ 4) && !s.queuedClaim n before
  | .lock (some o) => !(s.wave n).locks.any (fun i => i.owner = o)
  | .lock none => decide ((s.wave n).locks.length < 8)
  | .commits => !s.commitsOf n
  | .withdrawn => false

/-- The effect that a satisfied wait has, on the object and on the wave's registers, with its acquire (R102, R198). -/
def State.waitEffect (s : State) (n : Nat) : Wait → State
  | .mkTas sd i =>
    let w := s.wave n
    let m := s.marker w.id.place i
    ((s.setMarker w.id.place i (m ||| 1)).setWave n (w.setS sd (m.zeroExtend 64))).acquireBy n
  | .dsWeq _ _ => s.acquireBy n
  | .bwait sd nb _ =>
    let w := s.wave n
    let b := (s.gang w.id.gang).bar w.id.wg.val nb
    (s.setWave n (w.setS sd (if b.valid then 0 else 1))).acquireBy n
  | .rres sd rg k =>
    let w := s.wave n
    let g := s.gang w.id.gang
    let r := g.ring rg
    ((s.setGang w.id.gang (g.setRing rg (r.reserve k))).setWave n
      (w.setS sd (BitVec.ofNat 64 (r.res.toNat % r.slots)))).acquireBy n
  | .rpop sd rg =>
    let w := s.wave n
    let g := s.gang w.id.gang
    let r := g.ring rg
    ((s.setGang w.id.gang (g.setRing rg r.pop)).setWave n
      (w.setS sd (BitVec.ofNat 64 (r.con.toNat % r.slots)))).acquireBy n
  | .twait _ => s
  | .wgrace _ _ => s.acquireBy n
  | .join => s.acquireBy n
  | .rclaim k =>
    let w := s.wave n
    let g := s.gang w.id.gang
    let s1 := s.setGang w.id.gang { g with pool := put g.pool w.id.wg.val (g.poolOf w.id.wg.val - k) }
    s1.setWave n { w.zeroRegs w.blocks.val k with blocks := Fin.ofNat 5 (w.blocks.val + k) }
  | .lock _ => s
  | .commits => s
  | .withdrawn => s

/-- How many words a satisfied wait moves its run: a wait on an interlock entry only ends, its word has still to issue; one on the commits of
an atomic ends behind its word. -/
def Wait.moves : Wait → Nat
  | .lock _ => 0
  | .commits => 0
  | _ => 1

/-- The entry whose wait has place `o` in the order moves past its word, and meets the entries of its new PC (R101, R102). -/
def Wave.wakeEntry (w : Wave) (o k : Nat) : Wave :=
  let mine (e : Entry) : Bool := e.wait.any (fun x => x.order = o)
  let move (e : Entry) : Entry := if k = 0 then { e with wait := none } else e.past k
  if mine w.run then { w with run := move w.run }.merge
  else match w.rest.find? mine with
    | none => w
    | some e => { w with rest := w.rest.filter (fun x => !mine x) }.join (move e)

/-- Satisfy one blocked run. -/
def State.wakeOne (s : State) (x : Waiter) : State :=
  let s1 := s.waitEffect x.wave x.wait.what
  s1.setWave x.wave ((s1.wave x.wave).wakeEntry x.wait.order x.wait.what.moves)

/-- Satisfy blocked runs, the earliest first, until none can proceed. `fuel` bounds them. -/
def State.settleLoop : Nat → State → State
  | 0, s => s
  | fuel + 1, s =>
    match s.waiters.find? (fun x => s.waitMet x.wave x.wait.order x.wait.what) with
    | none => s
    | some x => (s.wakeOne x).settleLoop fuel

def State.settle (s : State) : State := s.settleLoop s.waiters.length

/-- The updates of partition `p` that must arrive before the step is over reach their mirrors; each is a value that a waiting `ds.weq` is
tested against (R212). `fuel` bounds them. -/
def State.arriveForced (p : Fin 8) : Nat → State → State
  | 0, s => s
  | fuel + 1, s =>
    match s.nextForced (s.partn p) with
    | none => s
    | some u => State.arriveForced p fuel (s.setPartn p ((s.partn p).arrive u)).settle

def State.arriveAll (s : State) : State :=
  if s.parts.any (fun e => e.2.updates.any (·.force)) then
    (List.finRange 8).foldl (fun s p => s.arriveForced p (s.partn p).updates.length) s
  else s

/-- A blocking instruction: it takes effect at once where nothing stands in its way, else its run blocks (R102), which is a quiescent point
at depth 0 (R297, R302). -/
def State.await (s : State) (what : Wait) : Out :=
  if s.waitMet s.cur s.seq what then
    let s1 := s.waitEffect s.cur what
    s1.done s1.me
  else s.atQuiet (s.me.sr.rdep = 0) (s.block what)

/-! ## Scope barriers (R213, R214) -/

/-- Whether wave `b` takes part in the barrier of scope `sc` that wave `a` names. -/
def sameBar (sc : BarScope) (a b : Wave) : Bool :=
  match sc with
  | .core => a.id.gang = b.id.gang && a.id.wg = b.id.wg
  | .quad => a.id.gang = b.id.gang
  | .die => a.id.part = b.id.part && a.id.place.die = b.id.place.die
  | .pkg => a.id.part = b.id.part

def Wave.atBar (w : Wave) (sc : BarScope) (n : Fin 32) : Bool :=
  match w.wait with
  | .bar c m _ => c = sc ∧ m = n
  | _ => false

/-- The expected count (R213, R348). -/
def State.barCount (s : State) (w : Wave) (sc : BarScope) (n : Fin 32) : Nat :=
  let g := s.gang w.id.gang
  let p := s.partn w.id.part
  match sc with
  | .core => g.record.waves
  | .quad => g.record.wg * g.record.waves
  | .die => (look 0 p.dieBar (32 * p.logDie w.id.place.die + n.val)).toNat
  | .pkg => (look 0 p.pkgBar n.val).toNat

def State.barArrivals (s : State) (w : Wave) (sc : BarScope) (n : Fin 32) : Nat :=
  (s.liveWaves.filter (fun e => e.2.atBar sc n && sameBar sc w e.2)).length

/-- A released participant goes on at its next word. -/
def Wave.passBar (w : Wave) : Wave := { w with wait := .none, run := w.run.past 1 }

/-- Empty the L1s of the cores of the released waves, for a scope of .quad or wider (R173, R214). -/
def State.acquireAll (s : State) (cs : List CoreId) : State := cs.foldl State.acquire s

/-- Complete the barrier if its arrivals are the expected count: every participant is released and acquires. -/
def State.tryBar (s : State) (w : Wave) (sc : BarScope) (n : Fin 32) : State :=
  if s.barArrivals w sc n = s.barCount w sc n then
    let hit (x : Wave) : Bool := x.live && x.atBar sc n && sameBar sc w x
    let cores := (s.waves.filter (fun e => hit e.2)).map (fun e => e.2.id.place)
    let s1 := { s with waves := s.waves.map (fun e => if hit e.2 then (e.1, e.2.passBar) else e) }
    if sc = .core then s1 else s1.acquireAll cores
  else s

end Sys2Proof.Machine
end

