-- ==== Sys2Proof/Machine/Scalar.lean ====
section
/-! DEFINITION. Scalar integer instructions: MAJ 0x00 to 0x03 (R77 to R83), scalar loads and stores (R84 to R86) and control
transfer (R87 to R90). -/

namespace Sys2Proof.Machine

/-! ## The functions of R78 to R80 -/

/-- Shift and rotate amounts use only b[5:0]. -/
def shiftBy (b : DWord) : Nat := b.toNat % 64

def allOnes64 : DWord := BitVec.allOnes 64

def flag64 (c : Bool) : DWord := if c then 1 else 0

/-- Number of leading zero bits; 64 for 0. -/
def clz64 (a : DWord) : DWord := if a = 0 then 64 else BitVec.ofNat 64 (63 - a.toNat.log2)

/-- Number of trailing zero bits; 64 for 0. -/
def ctz64 (a : DWord) : DWord := if a = 0 then 64 else BitVec.ofNat 64 (a &&& -a).toNat.log2

/-- Number of one bits. -/
def popc64 (a : DWord) : DWord := BitVec.ofNat 64 ((List.range 64).countP (fun i => a.getLsbD i))

/-- The position of a bit field: b[5:0] (R80). -/
def fieldPos (b : DWord) : Nat := fld b.toNat 0 6

/-- The width used: min(b[14:8], 64 − p) (R80). -/
def fieldWidth (b : DWord) : Nat := min (fld b.toNat 8 7) (64 - fieldPos b)

def fieldMask (b : DWord) : DWord := BitVec.ofNat 64 ((2 ^ fieldWidth b - 1) * 2 ^ fieldPos b)

/-- `bfe`: the field, sign-extended when b[15] = 1 and the width is not 0 (R80). -/
def bitExtract (a b : DWord) : DWord :=
  let u := fieldWidth b
  let x := (a &&& fieldMask b) >>> fieldPos b
  if 0 < u ∧ b.getLsbD 15 ∧ x.getLsbD (u - 1) then x ||| (allOnes64 <<< u) else x

/-- `bfi`: the field of the destination replaced by the low bits of `a` (R80). -/
def bitInsert (d a b : DWord) : DWord := (d &&& ~~~fieldMask b) ||| ((a <<< fieldPos b) &&& fieldMask b)

/-- A scalar instruction that writes s[sd] and nothing else. -/
def State.putS (s : State) (sd : SReg) (x : DWord) : Out := s.done (s.me.setS sd x)

/-- The two-register form of R78. -/
def State.scalar2 (s : State) (f : DWord → DWord → DWord) (sd sa sb : SReg) : Out :=
  s.putS sd (f (s.me.rs sa) (s.me.rs sb))

/-! ## Register arithmetic (MAJ 0x00) -/

/-- `add`: a + b (R78). -/
def execAdd (sd sa sb : SReg) (s : State) : Out := s.scalar2 (fun a b => a + b) sd sa sb

/-- `sub`: a − b (R78). -/
def execSub (sd sa sb : SReg) (s : State) : Out := s.scalar2 (fun a b => a - b) sd sa sb

/-- `and` (R78). -/
def execAnd (sd sa sb : SReg) (s : State) : Out := s.scalar2 (fun a b => a &&& b) sd sa sb

/-- `or` (R78). -/
def execOr (sd sa sb : SReg) (s : State) : Out := s.scalar2 (fun a b => a ||| b) sd sa sb

/-- `xor` (R78). -/
def execXor (sd sa sb : SReg) (s : State) : Out := s.scalar2 (fun a b => a ^^^ b) sd sa sb

/-- `andn` (R78). -/
def execAndn (sd sa sb : SReg) (s : State) : Out := s.scalar2 (fun a b => a &&& ~~~b) sd sa sb

/-- `shl` (R78). -/
def execShl (sd sa sb : SReg) (s : State) : Out := s.scalar2 (fun a b => a <<< shiftBy b) sd sa sb

/-- `shr` (R78). -/
def execShr (sd sa sb : SReg) (s : State) : Out := s.scalar2 (fun a b => a >>> shiftBy b) sd sa sb

/-- `sar`: a >> b[5:0], copies of bit 63 shifted in (R78). -/
def execSar (sd sa sb : SReg) (s : State) : Out := s.scalar2 (fun a b => a.sshiftRight (shiftBy b)) sd sa sb

/-- `rol` (R78). -/
def execRol (sd sa sb : SReg) (s : State) : Out := s.scalar2 (fun a b => a.rotateLeft (shiftBy b)) sd sa sb

/-- `min` (R78). -/
def execMin (sd sa sb : SReg) (s : State) : Out := s.scalar2 (fun a b => if a.slt b then a else b) sd sa sb

/-- `max` (R78). -/
def execMax (sd sa sb : SReg) (s : State) : Out := s.scalar2 (fun a b => if a.slt b then b else a) sd sa sb

/-- `minu` (R78). -/
def execMinu (sd sa sb : SReg) (s : State) : Out := s.scalar2 (fun a b => if a.ult b then a else b) sd sa sb

/-- `maxu` (R78). -/
def execMaxu (sd sa sb : SReg) (s : State) : Out := s.scalar2 (fun a b => if a.ult b then b else a) sd sa sb

/-- `mul` (R78). -/
def execMul (sd sa sb : SReg) (s : State) : Out := s.scalar2 (fun a b => a * b) sd sa sb

/-- `mulh` (R78). -/
def execMulh (sd sa sb : SReg) (s : State) : Out := s.scalar2 (fun a b => BitVec.ofInt 64 (a.toInt * b.toInt / 2 ^ 64)) sd sa sb

/-- `mulhu` (R78). -/
def execMulhu (sd sa sb : SReg) (s : State) : Out := s.scalar2 (fun a b => BitVec.ofNat 64 (a.toNat * b.toNat / 2 ^ 64)) sd sa sb

/-- `div` (R79: all ones for b = 0; −2^63 ÷ −1 wraps to −2^63). -/
def execDiv (sd sa sb : SReg) (s : State) : Out := s.scalar2 (fun a b => if b = 0 then allOnes64 else a.sdiv b) sd sa sb

/-- `divu` (R79: all ones for b = 0). -/
def execDivu (sd sa sb : SReg) (s : State) : Out := s.scalar2 (fun a b => if b = 0 then allOnes64 else a / b) sd sa sb

/-- `rem` (R79: a for b = 0; the sign of the dividend). -/
def execRem (sd sa sb : SReg) (s : State) : Out := s.scalar2 (fun a b => if b = 0 then a else a.srem b) sd sa sb

/-- `remu` (R79: a for b = 0). -/
def execRemu (sd sa sb : SReg) (s : State) : Out := s.scalar2 (fun a b => if b = 0 then a else a % b) sd sa sb

/-- `slt` (R78). -/
def execSlt (sd sa sb : SReg) (s : State) : Out := s.scalar2 (fun a b => flag64 (a.slt b)) sd sa sb

/-- `sltu` (R78). -/
def execSltu (sd sa sb : SReg) (s : State) : Out := s.scalar2 (fun a b => flag64 (a.ult b)) sd sa sb

/-- `seq` (R78). -/
def execSeq (sd sa sb : SReg) (s : State) : Out := s.scalar2 (fun a b => flag64 (a = b)) sd sa sb

/-- `bfe` (R80). -/
def execBfe (sd sa sb : SReg) (s : State) : Out := s.scalar2 (fun a b => bitExtract a b) sd sa sb

/-- `bfi` also reads its destination (R80). -/
def execBfi (sd sa sb : SReg) (s : State) : Out :=
  s.scalar2 (bitInsert (s.me.rs sd)) sd sa sb

/-- `clz` (R78). -/
def execClz (sd sa : SReg) (s : State) : Out := s.putS sd (clz64 (s.me.rs sa))

/-- `ctz` (R78). -/
def execCtz (sd sa : SReg) (s : State) : Out := s.putS sd (ctz64 (s.me.rs sa))

/-- `popc` (R78). -/
def execPopc (sd sa : SReg) (s : State) : Out := s.putS sd (popc64 (s.me.rs sa))

/-! ## Immediates and constants (MAJ 0x01 to 0x03) -/

/-- The form of R81 with a sign-extended immediate. -/
def State.scalarImm (s : State) (f : DWord → DWord → DWord) (sd sa : SReg) (imm : BitVec 10) : Out :=
  s.putS sd (f (s.me.rs sa) (imm.signExtend 64))

/-- `addi` (R81). -/
def execAddi (sd sa : SReg) (imm : BitVec 10) (s : State) : Out := s.scalarImm (fun a i => a + i) sd sa imm

/-- `andi` (R81). -/
def execAndi (sd sa : SReg) (imm : BitVec 10) (s : State) : Out := s.scalarImm (fun a i => a &&& i) sd sa imm

/-- `ori` (R81). -/
def execOri (sd sa : SReg) (imm : BitVec 10) (s : State) : Out := s.scalarImm (fun a i => a ||| i) sd sa imm

/-- `xori` (R81). -/
def execXori (sd sa : SReg) (imm : BitVec 10) (s : State) : Out := s.scalarImm (fun a i => a ^^^ i) sd sa imm

/-- `slti` (R81). -/
def execSlti (sd sa : SReg) (imm : BitVec 10) (s : State) : Out := s.scalarImm (fun a i => flag64 (a.slt i)) sd sa imm

/-- `shli` (R81). -/
def execShli (sd sa : SReg) (sh : Fin 64) (s : State) : Out := s.putS sd (s.me.rs sa <<< sh.val)

/-- `shri` (R81). -/
def execShri (sd sa : SReg) (sh : Fin 64) (s : State) : Out := s.putS sd (s.me.rs sa >>> sh.val)

/-- `sari` (R81). -/
def execSari (sd sa : SReg) (sh : Fin 64) (s : State) : Out := s.putS sd ((s.me.rs sa).sshiftRight sh.val)

/-- `sethi`: SignExt(imm, 19) << 13 (R82). -/
def execSethi (sd : SReg) (imm : BitVec 19) (s : State) : Out := s.putS sd (imm.signExtend 64 <<< 13)

/-- `lit`: the next word, sign-extended; the run passes it (R83). -/
def execLit (sd : SReg) (v : BitVec 32) (s : State) : Out := .next (s.setMe ((s.me.setS sd (v.signExtend 64)).past 2))

/-- `lit64`: the next two words, the low one first (R83). -/
def execLit64 (sd : SReg) (v : BitVec 64) (s : State) : Out := .next (s.setMe ((s.me.setS sd v).past 3))

/-! ## Loads and stores (MAJ 0x04 and 0x05) -/

/-- Bytes of an access size (R84). -/
def sizeBytes : Size → Nat
  | .b => 1
  | .bu => 1
  | .h => 2
  | .hu => 2
  | .w => 4
  | .wu => 4
  | .d => 8

/-- The loaded bytes as a register value: sign-extended for b, h and w (R84). -/
def extendLoad (sz : Size) (bs : List Byte) : DWord :=
  match sz with
  | .b => (BitVec.ofNat 8 (leNat bs)).signExtend 64
  | .h => (BitVec.ofNat 16 (leNat bs)).signExtend 64
  | .w => (BitVec.ofNat 32 (leNat bs)).signExtend 64
  | _ => BitVec.ofNat 64 (leNat bs)

/-- The offset of a scalar access: s[sa] + off × n, wrapping (R84). -/
def Wave.offset (w : Wave) (sa : SReg) (off : BitVec 7) (sz : Size) : Nat :=
  (w.rs sa + BitVec.ofNat 64 (off.toNat * sizeBytes sz)).toNat

/-- `ld`: the checks of R85 in order, then the load; a scalar .l access reaches lane 0 (R86). -/
def execLd (sd sa : SReg) (sp : Space) (sz : Size) (off : BitVec 7) (s : State) : Out :=
  let w := s.me
  let n := sizeBytes sz
  let o := w.offset sa off sz
  if o % n ≠ 0 then s.trap causeMisaligned (spaceInfo sp o)
  else if ¬ w.inRange sp o n then s.trap causeSegment (spaceInfo sp o)
  else match s.loadAt w sp w.run.mask 0 o n with
    | .ok (s1, bs) => s1.done (s1.me.setS sd (extendLoad sz bs))
    | x => s.failed w .load s.hold x

/-- `st`: the low bytes of s[sd] (R84), under the checks of R85. -/
def execSt (sd sa : SReg) (sp : Space) (sz : Size) (off : BitVec 7) (s : State) : Out :=
  let w := s.me
  let n := sizeBytes sz
  let o := w.offset sa off sz
  if o % n ≠ 0 then s.trap causeMisaligned (spaceInfo sp o)
  else if ¬ w.inRange sp o n then s.trap causeSegment (spaceInfo sp o)
  else match s.storeAt w sp w.run.mask 0 o (bytesOfNat n (w.rs sd).toNat) with
    | .ok s1 => (s1.mark w sp (o + n)).done s1.me
    | x => s.failed w .store s.hold x

/-! ## Control transfer (MAJ 0x06 to 0x08) -/

/-- A branch: taken, the run moves to the target packet; else it goes on (R87). -/
def State.branch (s : State) (c : Bool) (off : BitVec 10) : Out :=
  let w := s.me
  if c then .next (s.setMe (w.to (w.target off))) else s.done w

/-- `beq` (R87). -/
def execBeq (sa sb : SReg) (off : BitVec 10) (s : State) : Out := s.branch (s.me.rs sa = s.me.rs sb) off

/-- `bne` (R87). -/
def execBne (sa sb : SReg) (off : BitVec 10) (s : State) : Out := s.branch (s.me.rs sa ≠ s.me.rs sb) off

/-- `blt` (R87). -/
def execBlt (sa sb : SReg) (off : BitVec 10) (s : State) : Out := s.branch ((s.me.rs sa).slt (s.me.rs sb)) off

/-- `bge` (R87). -/
def execBge (sa sb : SReg) (off : BitVec 10) (s : State) : Out := s.branch (!(s.me.rs sa).slt (s.me.rs sb)) off

/-- `bltu` (R87). -/
def execBltu (sa sb : SReg) (off : BitVec 10) (s : State) : Out := s.branch ((s.me.rs sa).ult (s.me.rs sb)) off

/-- `bgeu` (R87). -/
def execBgeu (sa sb : SReg) (off : BitVec 10) (s : State) : Out := s.branch (!(s.me.rs sa).ult (s.me.rs sb)) off

/-- The address of the word after the running one (R18). -/
def Wave.link (w : Wave) : DWord := w.run.pc + 4

/-- `call`: the link register is written before the PC changes (R88). -/
def execCall (sl : SReg) (off : BitVec 19) (s : State) : Out :=
  let w := s.me
  .next (s.setMe ((w.setS sl w.link).to (w.target off)))

/-- `jmp` (R88). -/
def execJmp (off : BitVec 19) (s : State) : Out := .next (s.setMe (s.me.to (s.me.target off)))

/-- `jr`: t[1:0] ≠ 0 raises MISALIGNED at its own word, with t in %tinfo (R89). -/
def execJr (sa : SReg) (s : State) : Out :=
  let t := s.me.rs sa
  if t.toNat % 4 ≠ 0 then s.trap causeMisaligned t else .next (s.setMe (s.me.to t))

/-- `callr`: t is read before the link is written (R89). -/
def execCallr (sd sa : SReg) (s : State) : Out :=
  let w := s.me
  let t := w.rs sa
  if t.toNat % 4 ≠ 0 then s.trap causeMisaligned t else .next (s.setMe ((w.setS sd w.link).to t))

/-- `csel` reads its condition from its destination (R89). -/
def execCsel (sd sa sb : SReg) (s : State) : Out :=
  s.putS sd (if s.me.rs sd ≠ 0 then s.me.rs sa else s.me.rs sb)

end Sys2Proof.Machine
end

