-- ==== Sys2Proof/Machine/Sync.lean ====
section
/-! DEFINITION. Stitch markers, die sync registers, scope barriers, fences and named barriers (R196, R207 to R221), rings
(R237, R238) and read sections and graces (R296 to R303). -/

namespace Sys2Proof.Machine

/-- The word completes and the object it acted on serves its waiters (R102, R209). -/
def State.doneSettle (s : State) (w : Wave) : Out := .next ((s.setMe (w.past 1)).settle)

/-! ## Stitch markers (MAJ 0x35, R208) -/

/-- `mk.tas`: blocks until bit 0 is 0, sets it and returns the value before; acquire at .quad. -/
def execMkTas (sd : SReg) (mk : Fin 64) (s : State) : Out := s.await (.mkTas sd mk)

/-- `mk.tasnb`: sets bit 0 if it is 0; returns the value in either case; acquire at .quad. -/
def execMkTasnb (sd : SReg) (mk : Fin 64) (s : State) : Out :=
  let m := s.marker s.here mk
  let s1 := (if m.getLsbD 0 then s else s.setMarker s.here mk (m ||| 1)).acquireBy s.cur
  s1.done (s1.me.setS sd (m.zeroExtend 64))

/-- `mk.fadd`: adds s[sa][31:0]; returns the old value. -/
def execMkFadd (sd sa : SReg) (mk : Fin 64) (s : State) : Out :=
  let m := s.marker s.here mk
  (s.setMarker s.here mk (m + (s.me.rs sa).truncate 32)).doneSettle (s.me.setS sd (m.zeroExtend 64))

/-- `mk.rd`. -/
def execMkRd (sd : SReg) (mk : Fin 64) (s : State) : Out := s.putS sd ((s.marker s.here mk).zeroExtend 64)

/-- `mk.wr`. -/
def execMkWr (sa : SReg) (mk : Fin 64) (s : State) : Out :=
  (s.setMarker s.here mk ((s.me.rs sa).truncate 32)).doneSettle s.me

/-- `mk.clr`: bit 0 ← 0, the others kept; release at .quad. -/
def execMkClr (mk : Fin 64) (s : State) : Out :=
  s.afterStores false ((s.setMarker s.here mk (s.marker s.here mk &&& 0xFFFFFFFE)).doneSettle s.me)

/-! ## Die sync registers (MAJ 0x36, R210, R211) -/

/-- A register whose home lies at or beyond NDIE raises ILLEGAL_OP (R210). -/
def State.withDs (s : State) (n : Fin 1024) (body : Out) : Out :=
  if (s.partn s.me.id.part).ndie ≤ dsHome n then s.trapWord causeIllegalOp else body

/-- An operation at the home of a register: a release at .pkg, and sent over the edge to its home, on which no flit must be replaying (R211,
R351). `body` is given the state in which it stands before what its die sends later and the logical die of the wave. -/
def State.atHome (s : State) (n : Fin 1024) (body : State → Nat → Out) : Out :=
  s.withDs n (s.afterStores true (
    let p := s.me.id.part
    let home := (s.partn p).physDie (dsHome n)
    if s.linkFree s.here.die home then body (s.push p s.here.die home) (s.logDie s.me) else s.hold))

/-- A home operation that answers: the new value is written, and the old one goes to s[sd] (R211). -/
def State.dsHomeOp (s : State) (sd : SReg) (n : Fin 1024) (f : Word → Word) : Out :=
  s.atHome n (fun s a =>
    let p := s.me.id.part
    let v := s.dsValue p n
    let s1 := ((s.setPartn p ((s.partn p).seeHome a n.val)).setDs a p n (f v)).acquireBy s.cur
    s1.doneSettle (s1.me.setS sd (v.zeroExtend 64)))

/-- `ds.tas`: bit 0 ← 1. -/
def execDsTas (sd : SReg) (ds : Fin 1024) (s : State) : Out := s.dsHomeOp sd ds (fun v => v ||| 1)

/-- `ds.fadd`. -/
def execDsFadd (sd sa : SReg) (ds : Fin 1024) (s : State) : Out :=
  s.dsHomeOp sd ds (fun v => v + (s.me.rs sa).truncate 32)

/-- `ds.rd`: the local copy; acquire at .pkg. -/
def execDsRd (sd : SReg) (ds : Fin 1024) (s : State) : Out :=
  s.withDs ds (
    let v := s.dsLocal s.me ds
    let s1 := s.acquireBy s.cur
    s1.done (s1.me.setS sd (v.zeroExtend 64)))

/-- `ds.wr`: release at .pkg, performed at the home. -/
def execDsWr (sa : SReg) (ds : Fin 1024) (s : State) : Out :=
  s.atHome ds (fun s a => (s.setDs a s.me.id.part ds ((s.me.rs sa).truncate 32)).doneSettle s.me)

/-- `ds.weq`: blocks until the local copy equals s[sa][31:0], as it is when the run blocks (log entry 72); acquire at .pkg. -/
def execDsWeq (sa : SReg) (ds : Fin 1024) (s : State) : Out :=
  s.withDs ds (s.await (.dsWeq ds ((s.me.rs sa).truncate 32)))

/-! ## Scope barriers and fences (MAJ 0x37) -/

/-- `bar` (R214): an expected count of 0 raises ILLEGAL_OP (R348); the whole wave blocks until the barrier completes. -/
def execBar (sc : BarScope) (n : Fin 32) (s : State) : Out :=
  if s.barCount s.me sc n = 0 then s.trapWord causeIllegalOp
  else s.checked ⟨1, true, true, []⟩ (s.afterAll (sc = .pkg) (
    let s1 := (s.setMe { s.me with wait := .bar sc n s.time }).quiesce s.cur
    .next (s1.tryBar s1.me sc n)))

/-- Whether a scope is .quad or wider (R173). -/
def scopeWide : Scope → Bool
  | .lane => false
  | .core => false
  | _ => true

/-- `fence` (R196): a release kind waits for the run's events and the wave's transfers, at .lane every kind for the wave's stores (R110); an
acquire kind at .quad or wider empties the L1. -/
def execFence (sc : Scope) (kd : FKind) (s : State) : Out :=
  let take := if kd ≠ .rel ∧ scopeWide sc then s.acquireBy s.cur else s
  let go := take.done take.me
  if kd ≠ .acq then s.afterAll (sc = .pkg ∨ sc = .pod) go
  else if sc = .lane ∧ s.me.late ≠ [] then s.hold
  else go

/-! ## Named barriers (MAJ 0x34, R216 to R221) -/

/-- Naming nbN with N ≥ NBARS raises ILLEGAL_OP when the word is reached (R216). -/
def State.withBar (s : State) (nb : Fin 16) (body : Gang → NamedBar → Out) : Out :=
  let g := s.gang s.me.id.gang
  if g.record.nbars ≤ nb.val then s.trapWord causeIllegalOp else body g (g.bar s.me.id.wg.val nb)

/-- Write back a named barrier of the issuing wave's workgroup. -/
def State.setBar (s : State) (nb : Fin 16) (b : NamedBar) : State :=
  s.setGang s.me.id.gang ((s.gang s.me.id.gang).setBar s.me.id.wg.val nb b)

/-- Whether a run of the workgroup waits in `bwait` on the barrier. -/
def State.barWaited (s : State) (nb : Fin 16) : Bool :=
  s.waiters.any (fun x => x.wave / 16 = s.cur / 16 && match x.wait.what with
    | .bwait _ b _ => b = nb
    | _ => false)

/-- `binit` (R217). The count's ILLEGAL_OP stands in step 2 of R39 (log entry 23). -/
def execBinit (sa : SReg) (nb : Fin 16) (s : State) : Out :=
  s.withBar nb fun _ b =>
    let c := (s.me.rs sa).toNat
    if c = 0 ∨ 65535 < c then s.trapWord causeIllegalOp
    else s.checked ⟨1, true, true, []⟩ (
      if s.barWaited nb ∨ b.pend ≠ 0 then s.trapWord causeBarBusy
      else s.setBar nb { b with valid := true, exp := BitVec.ofNat 16 c, arr := 0 } |>.done s.me)

/-- `barr` (R218). -/
def execBarr (nb : Fin 16) (s : State) : Out :=
  s.withBar nb fun _ b =>
    if ¬ b.valid then s.trapWord causeBarInvalid else s.afterStores false ((s.setBar nb b.arrive).doneSettle s.me)

/-- `bwait` (R219): t is s[sa][15:0] as it is when the run blocks (log entry 72). -/
def execBwait (sd sa : SReg) (nb : Fin 16) (s : State) : Out :=
  s.withBar nb fun _ _ => s.await (.bwait sd nb ((s.me.rs sa).truncate 16))

/-- `btest` (R220): PHASE, ARR, and 1 in bit 32 for an invalid barrier. -/
def execBtest (sd : SReg) (nb : Fin 16) (s : State) : Out :=
  s.withBar nb fun _ b =>
    s.putS sd (BitVec.ofNat 64 (b.phase.toNat + b.arr.toNat * 2 ^ 16 + (if b.valid then 0 else 2 ^ 32)))

/-- `binval` (R221): held at issue until no transfer is pending; a release at .quad; every waiter returns 1. -/
def execBinval (nb : Fin 16) (s : State) : Out :=
  s.withBar nb fun _ b =>
    if b.pend ≠ 0 then s.hold else s.afterStores false ((s.setBar nb { b with valid := false, arr := 0 }).doneSettle s.me)

/-! ## Rings (MAJ 0x33, R237, R238) -/

/-- Naming a ring at or beyond RINGS raises ILLEGAL_OP (R237). -/
def State.withRing (s : State) (rg : Fin 8) (body : Gang → Ring → Out) : Out :=
  let g := s.gang s.me.id.gang
  if g.record.rings ≤ rg.val then s.trapWord causeIllegalOp else body g (g.ring rg)

/-- Every ring instruction but `rdef` and `rstat` raises BAR_INVALID on a ring that is not defined (R238). -/
def State.withMadeRing (s : State) (rg : Fin 8) (body : Gang → Ring → Out) : Out :=
  s.withRing rg fun g r => if ¬ r.made then s.trapWord causeBarInvalid else body g r

/-- Whether a run of the gang waits on the ring. -/
def State.ringWaited (s : State) (rg : Fin 8) : Bool :=
  s.waiters.any (fun x => x.wave / 64 = s.cur / 64 && (sameRres rg x.wait.what || sameRpop rg x.wait.what))

/-- The offset in the descriptor of the first field that breaks R237, or whose bound on the segment fails. -/
def badRing (bs : List Byte) (scratch : Nat) : Option Nat :=
  let slots := leNat (bs.take 2)
  let bytes := leNat ((bs.drop 4).take 4)
  let base := leNat ((bs.drop 8).take 4)
  if ¬ (slots ∈ [1, 2, 4, 8, 16, 32, 64, 128, 256]) then some 0
  else if leNat ((bs.drop 2).take 2) ≠ 0 then some 2
  else if bytes % 4 ≠ 0 ∨ bytes = 0 then some 4
  else if base % 4 ≠ 0 ∨ scratch < base + slots * bytes then some 8
  else if leNat ((bs.drop 12).take 4) ≠ 0 then some 12
  else none

/-- `rdef`: the descriptor of 16 bytes is read as a load of .c (R238). -/
def execRdef (sa : SReg) (rg : Fin 8) (s : State) : Out :=
  s.withRing rg fun g r =>
    let w := s.me
    let o := (w.rs sa).toNat
    if o % 16 ≠ 0 then s.trap causeMisaligned (spaceInfo .c o)
    else if ¬ w.inRange .c o 16 then s.trap causeSegment (spaceInfo .c o)
    else match s.loadAt w .c w.run.mask 0 o 16 with
      | .ok (s1, bs) =>
        match badRing bs g.record.scratch with
        | some f => s.trap causeSegment (spaceInfo .c (o + f))
        | none =>
          if r.made ∧ (s.ringWaited rg ∨ r.ldr ≠ 0) then s.trapWord causeBarBusy
          else
            let r1 := { Ring.launch with
              made := true, slots := leNat (bs.take 2), bytes := leNat ((bs.drop 4).take 4), base := leNat ((bs.drop 8).take 4) }
            (s1.setGang w.id.gang ((s1.gang w.id.gang).setRing rg r1)).done s1.me
      | x => s.failed w .load s.hold x

/-- `rres`: ILLEGAL_OP unless 1 ≤ n ≤ SLOTS. -/
def execRres (sd sa : SReg) (rg : Fin 8) (s : State) : Out :=
  s.withRing rg fun _ r =>
    let n := (s.me.rs sa).toNat
    if n = 0 ∨ (r.made ∧ r.slots < n) then s.trapWord causeIllegalOp
    else if ¬ r.made then s.trapWord causeBarInvalid
    else s.await (.rres sd rg n)

/-- Write back a ring of the issuing wave's gang, and let its waiters go on. -/
def State.ringOp (s : State) (rg : Fin 8) (r : Ring) : Out :=
  (s.setGang s.me.id.gang ((s.gang s.me.id.gang).setRing rg r)).doneSettle s.me

/-- `rpub`. -/
def execRpub (sa : SReg) (rg : Fin 8) (s : State) : Out :=
  s.withMadeRing rg fun _ r => s.afterStores false (s.ringOp rg (r.publish ((s.me.rs sa).toNat % r.slots) .reserved))

/-- `rpop`. -/
def execRpop (sd : SReg) (rg : Fin 8) (s : State) : Out := s.withMadeRing rg fun _ _ => s.await (.rpop sd rg)

/-- `rrel`. -/
def execRrel (sa : SReg) (rg : Fin 8) (s : State) : Out :=
  s.withMadeRing rg fun _ r => s.afterStores false (s.ringOp rg (r.release ((s.me.rs sa).toNat % r.slots)))

/-- `rstat`: 0 for an undefined ring. -/
def execRstat (sd : SReg) (rg : Fin 8) (s : State) : Out :=
  s.withRing rg fun _ r =>
    s.putS sd (if r.made then BitVec.ofNat 64 (r.res.toNat + r.fill.toNat * 2 ^ 14 + r.con.toNat * 2 ^ 28 +
      r.free.toNat * 2 ^ 42 + r.err.toNat * 2 ^ 56 + 2 ^ 57) else 0)

/-! ## Read sections and graces (MAJ 0x3A, profile 3) -/

/-- A word of MAJ 0x3A: profile 3 (R310). -/
def State.graceWord (s : State) (body : Out) : Out := s.checked ⟨3, false, false, []⟩ body

/-- `rdenter` (R296). -/
def execRdenter (s : State) : Out :=
  s.graceWord (
    let w := s.me
    if w.sr.rdep = 255 then s.trap causeGraceInRead 1
    else s.done { w with sr := { w.sr with rdep := w.sr.rdep + 1 } })

/-- `rdexit` (R296, R297, R302). -/
def execRdexit (s : State) : Out :=
  s.graceWord (
    let w := s.me
    let d := if w.sr.rdep = 0 then 0 else w.sr.rdep - 1
    s.atQuiet (d = 0) (
      let s1 := if d = 0 then s.release s.cur else s
      s1.done { w with sr := { w.sr with rdep := d } }))

/-- `qsp`: a quiescent point at depth 0, nothing at any other (R296, R302). -/
def execQsp (s : State) : Out :=
  s.graceWord (s.atQuiet (s.me.sr.rdep = 0) (let s1 := s.quiesce s.cur; s1.done s1.me))

/-- Whether a wave's read sections are registered in a domain that graces of domain `k` wait for (R298). -/
def State.registered (s : State) (k : Nat) (w : Wave) : Bool :=
  w.live && w.id.asid.toNat = k / 8 &&
  (k % 8 = 0 || (s.gang w.id.gang).record.flags.getLsbD 2 || s.domOf w .die = k)

/-- The waves that a snapshot of domain `k` holds: registered and inside a read section, resident or saved (R300). -/
def State.snapshot (s : State) (k : Nat) : List Nat :=
  (s.waves.filter (fun e => s.registered k e.2 && e.2.sr.rdep ≠ 0)).map (·.1)

/-- The die of the domain of key `k`, for a .die domain; none where the scope is the package. -/
def State.scopeDie (s : State) (k : Nat) : Option (Fin 4) :=
  if k % 8 = 0 then none else some ((s.partn (s.asid (k / 8)).part).physDie (k % 8 - 1))

/-- The cores of the scope of domain `k` that hold a resident wave of its ASID. -/
def State.graceCores (s : State) (k : Nat) : List CoreId :=
  ((s.liveWaves.filter (fun e => e.2.id.asid.toNat = k / 8 && (s.gang e.2.id.gang).place.isSome)).map (fun e => e.2.id.place)).filter
    (fun c => match s.scopeDie k with
      | none => true
      | some d => c.die = d)

/-- A grace starts: the snapshot is taken, and the L1 of every core of its scope that holds a resident wave of the ASID is emptied
(R300). -/
def State.startGrace (s : State) (k : Nat) : State :=
  let s1 := s.acquireAll (s.graceCores k)
  s1.setDomain k { s1.domain k with now := some { held := s.snapshot k, start := s.time, told := false } }

/-- Request a grace of domain `k`: its number, and the state with the request made (R299). -/
def State.askGrace (s : State) (k : Nat) : BitVec 32 × State :=
  let d := s.domain k
  match d.now with
  | none => (d.c + 1, s.startGrace k)
  | some _ => (d.c + 2, s.setDomain k { d with pending := true })

/-- `gstart`: a release, then the request (R299, R302). -/
def execGstart (sd : SReg) (sc : GScope) (s : State) : Out :=
  s.graceWord (s.afterAll (sc = .pkg) (
    let r := s.askGrace (s.domOf s.me sc)
    r.2.done (r.2.me.setS sd (r.1.zeroExtend 64))))

/-- `wgrace` (R301). -/
def execWgrace (sa : SReg) (sc : GScope) (s : State) : Out :=
  s.graceWord (
    if s.me.sr.rdep ≠ 0 then s.trap causeGraceInRead 0
    else s.await (.wgrace sc ((s.me.rs sa).truncate 32)))

/-- `gpoll` (R301). -/
def execGpoll (sd : SReg) (sc : GScope) (s : State) : Out :=
  s.graceWord (s.putS sd ((s.domain (s.domOf s.me sc)).c.zeroExtend 64))

/-- `defer` (R303): a full frog queue answers 1 and requests no grace. -/
def execDefer (sd sa : SReg) (sc : GScope) (cls : BitVec 7) (s : State) : Out :=
  s.graceWord (s.afterAll (sc = .pkg) (
    let k := s.domOf s.me sc
    if 4096 ≤ (s.domain k).frogs.length then s.putS sd 1
    else
      let r := s.askGrace k
      let d := r.2.domain k
      let s1 := r.2.setDomain k { d with frogs := d.frogs ++ [{ addr := s.me.rs sa, cls, grace := r.1 }] }
      s1.done (s1.me.setS sd 0)))

end Sys2Proof.Machine
end

