-- ==== Sys2Proof/Machine/Control.lean ====
section
/-! DEFINITION. Grants (R239 to R244, R267), vector length (R106, R107), special registers (R23, R37, R91, R312), system
instructions (R92 to R96), register blocks and `join` (R162, R163), and the end of a wave (R94, R101). -/

namespace Sys2Proof.Machine

/-! ## Grants (R239 to R242) -/

/-- The maxima of R240 for an M-core and an E-core. -/
def coreMax (ecore : Bool) (fm : Nat) (d : Dim) : Nat :=
  match d, ecore with
  | .m, false => 128
  | .n, false => 64
  | .k, false => if fm ≤ 1 then 128 else if fm = 9 then 32 else 256
  | .m, true => 16
  | .n, true => 16
  | .k, true => if fm ≤ 1 then 16 else if fm = 9 then 8 else 32
  | .vl, _ => 0

/-- Max(core, fm, d), halved in half mode (R241). -/
def State.maxOf (s : State) (c : CoreId) (fm : Nat) (d : Dim) : Nat :=
  if (s.core c).half then coreMax (CoreId.isE c) fm d / 2 else coreMax (CoreId.isE c) fm d

/-- PartCap(d): 256 for a partition without caps (R241). -/
def State.partCap (s : State) (p : Fin 8) (d : Dim) : Nat :=
  let c := (s.partn p).cfg
  let x := match d with
    | .m => c.capM
    | .n => c.capN
    | .k => c.capK
    | .vl => 0
  if x = 0 then 256 else x

def State.cap (s : State) (w : Wave) (fm : Nat) (d : Dim) : Nat := min (s.maxOf w.id.place fm d) (s.partCap w.id.part d)

def blockFmt (fm : Nat) : Bool := fm = 7 ∨ fm = 8

/-- The quantum of a dimension (R239). -/
def quantum (fm : Nat) (d : Dim) : Nat := if blockFmt fm ∧ d = .k then 32 else 8

/-- The largest class at or below `b`, from the quantum up; 0 where there is none (R239). -/
def classBelow (q b : Nat) : Nat := (([256, 128, 64, 32, 16, 8].filter (fun c => q ≤ c)).find? (fun c => c ≤ b)).getD 0

/-- Grant(d) for a request (R239). -/
def State.grant (s : State) (w : Wave) (fm : Nat) (d : Dim) (req : Nat) : Nat :=
  let q := quantum fm d
  if req = 0 then 0 else classBelow q (min ((req + q - 1) / q * q) (s.cap w fm d))

/-- Whether a format may be granted on the wave's core (R241). -/
def State.grantable (s : State) (w : Wave) (fm : Nat) : Bool :=
  (s.partn w.id.part).cfg.fmtMask.getLsbD fm &&
  [Dim.m, .n, .k].all (fun d => quantum fm d ≤ s.cap w fm d)

/-- Set the request, the grant and the valid count of one dimension (R239). -/
def State.setGrant (s : State) (w : Wave) (fm : Nat) (d : Dim) (req : DWord) : Wave :=
  let g := s.grant w fm d req.toNat
  let x := BitVec.ofNat 9 g
  let v := BitVec.ofNat 9 (min req.toNat g)
  match d with
  | .m => { w with sr := { w.sr with reqM := req, gm := x, vm := v } }
  | .n => { w with sr := { w.sr with reqN := req, gn := x, vn := v } }
  | .k => { w with sr := { w.sr with reqK := req, gk := x, vk := v } }
  | .vl => w

def fmCodeOf (fm : Fm) : Nat := fmCode fm

/-- The profile of `tset` and `tquery` (R310). -/
def tsetProfile (fm : Fm) : Nat := if blockFmt (fmCode fm) then 3 else 2

/-- `tset` (R243). -/
def execTset (sa sb sc : SReg) (fm : Fm) (s : State) : Out :=
  s.checked ⟨tsetProfile fm, true, true, []⟩ (
    let w := s.me
    let f := fmCode fm
    if ¬ s.grantable w f then s.trap causeTileOperand 1
    else
      let w1 := { w with sr := { w.sr with gf := BitVec.ofNat 5 f } }
      let w2 := s.setGrant w1 f .m (w.rs sa)
      let w3 := s.setGrant w2 f .n (w.rs sb)
      s.done (s.setGrant w3 f .k (w.rs sc)))

/-- `tquery` (R244). -/
def execTquery (sa sb sc : SReg) (fm : Fm) (s : State) : Out :=
  s.checked ⟨tsetProfile fm, false, false, []⟩ (
    let w := s.me
    let f := fmCode fm
    let g (d : Dim) (r : SReg) : DWord :=
      if s.grantable w f then BitVec.ofNat 64 (s.grant w f d (w.rs r).toNat) else 0
    s.done (((w.setS sa (g .m sa)).setS sb (g .n sb)).setS sc (g .k sc)))

/-! ## Vector length (R106 to R108) -/

/-- The working lane groups of a core, in ascending physical order (R108). -/
def Core.working (c : Core) : List Nat := (List.range 4).filter c.groups.getLsbD

/-- %vlmax = 16 × W (R108). -/
def State.vlmax (s : State) (c : CoreId) : Nat := 16 * (s.core c).working.length

/-- The grant of a vector length request (R106). -/
def State.grantVl (s : State) (w : Wave) (req : DWord) : Nat := min req.toNat (s.vlmax w.id.place)

/-- %vl ← g and the single entry's mask becomes the lanes below g that are not switched off (R106). -/
def Wave.setVl (w : Wave) (g : Nat) : Wave :=
  { w with
    sr := { w.sr with vl := BitVec.ofNat 7 g }
    run := { w.run with mask := lowLanes g &&& ~~~w.sr.lfm } }

/-- `setvl` (R106). -/
def execSetvl (sd sa : SReg) (num : BitVec 10) (s : State) : Out :=
  s.checked ⟨1, true, true, []⟩ (
    let w := s.me
    let g := s.grantVl w (w.rs sa + num.zeroExtend 64)
    s.done ((w.setVl g).setS sd (BitVec.ofNat 64 g)))

/-- The granted length in force of a dimension (R267). -/
def Wave.granted (w : Wave) : Dim → Nat
  | .vl => w.sr.vl.toNat
  | .m => w.sr.gm.toNat
  | .n => w.sr.gn.toNat
  | .k => w.sr.gk.toNat

/-- The pointer advances of `strip`: s[pb + i] ← s[pb + i] + g × %st_i, in order (R267). -/
def Wave.advance (w : Wave) (pb : SReg) (g : Nat) : Nat → Nat → Wave
  | _, 0 => w
  | i, n + 1 =>
    let r : SReg := Fin.ofNat 64 (pb.val + i)
    let st := w.sr.st[Fin.ofNat 4 i]
    (w.setS r (w.rs r + BitVec.ofNat 64 g * st)).advance pb g (i + 1) n

/-- `strip` (R267). -/
def execStrip (sr pb : SReg) (np : Fin 8) (dm : Dim) (off : BitVec 8) (s : State) : Out :=
  s.checked ⟨if dm = .vl then 1 else 2, true, true, []⟩ (
    let w := s.me
    let fm := w.sr.gf.toNat
    if dm ≠ .vl ∧ ¬ s.grantable w fm then s.trap causeTileOperand 1
    else
      let g := w.granted dm
      let rem := w.rs sr - BitVec.ofNat 64 g
      let w1 := (w.setS sr rem).advance pb g 0 np.val
      let more := decide (0 < rem.toInt)
      let c : DWord := if more then rem else 0
      let w2 := if dm = .vl then w1.setVl (s.grantVl w1 c) else s.setGrant w1 fm dm c
      if g ≠ 0 ∧ more then .next (s.setMe (w2.to (w2.target off))) else s.done w2)

/-! ## Special registers (R23, R37) -/

/-- %tlim (R242). -/
def State.tlim (s : State) (w : Wave) : Nat :=
  let fm := w.sr.gf.toNat
  let lg (d : Dim) : Nat :=
    let x := s.cap w fm d
    if x < quantum fm d then 0 else x.log2
  (if (s.core w.id.place).half then 2 ^ 12 else 0) + lg .k * 2 ^ 8 + lg .n * 2 ^ 4 + lg .m

/-- %profile (R309). -/
def Wave.profile (w : Wave) : Nat := (if w.id.priv then 2 ^ 8 else 0) + 3 * 2 ^ 4 + w.id.eff.toNat

/-- The value of a special register; none where the number names no register (R37). -/
def State.readSr (s : State) (w : Wave) (num : BitVec 10) : Option DWord :=
  match num.toNat with
  | 0x000 => some (w.sr.vl.zeroExtend 64)
  | 0x001 => some (BitVec.ofNat 64 (s.vlmax w.id.place))
  | 0x002 => some (w.sr.vstart.zeroExtend 64)
  | 0x003 => some (w.sr.slip.zeroExtend 64)
  | 0x004 => some (w.sr.cvt.zeroExtend 64)
  | 0x005 => some (w.sr.flags.zeroExtend 64)
  | 0x006 => some w.sr.lfm
  | 0x007 => some w.sr.pmask
  | 0x008 => some w.sr.st[0]
  | 0x009 => some w.sr.st[1]
  | 0x00A => some w.sr.st[2]
  | 0x00B => some w.sr.st[3]
  | 0x010 => some (w.sr.gm.zeroExtend 64)
  | 0x011 => some (w.sr.gn.zeroExtend 64)
  | 0x012 => some (w.sr.gk.zeroExtend 64)
  | 0x013 => some (w.sr.gf.zeroExtend 64)
  | 0x014 => some (w.sr.vm.zeroExtend 64)
  | 0x015 => some (w.sr.vn.zeroExtend 64)
  | 0x016 => some (w.sr.vk.zeroExtend 64)
  | 0x017 => some w.sr.tlda
  | 0x018 => some w.sr.tldb
  | 0x019 => some w.sr.tldc
  | 0x01A => some (BitVec.ofNat 64 (s.tlim w))
  | 0x01B => some (w.sr.bx0.zeroExtend 64)
  | 0x01C => some w.sr.bx1
  | 0x01D => some w.sr.cpld
  | 0x01E => some (w.sr.cprow.zeroExtend 64)
  | 0x01F => some w.sr.sig0
  | 0x020 => some (w.sr.sig1.zeroExtend 64)
  | 0x030 => some (BitVec.ofNat 64 w.id.wave.val)
  | 0x031 => some (BitVec.ofNat 64 w.id.role.val)
  | 0x032 => some (BitVec.ofNat 64 w.id.wg.val)
  | 0x033 => some w.id.task
  | 0x034 => some (BitVec.ofNat 64 w.id.place.core.val)
  | 0x035 => some (BitVec.ofNat 64 w.id.quad.val)
  | 0x036 => some (BitVec.ofNat 64 w.id.die.val)
  | 0x037 => some (if CoreId.isE w.id.place then 1 else 0)
  | 0x038 => some (w.id.asid.zeroExtend 64)
  | 0x039 => some (BitVec.ofNat 64 w.profile)
  | 0x03A => some (BitVec.ofNat 64 s.time)
  | 0x03B => some (w.sr.rdep.zeroExtend 64)
  | 0x03C => some (w.id.depth.zeroExtend 64)
  | 0x03D => some (BitVec.ofNat 64 w.id.part.val)
  | 0x03E => some (BitVec.ofNat 64 ((s.partn w.id.part).cfg.topoVa % 2 ^ 48))
  | 0x040 => some w.sr.thb
  | 0x041 => some (w.sr.tcause.zeroExtend 64)
  | 0x042 => some w.sr.tpc
  | 0x043 => some w.sr.tinfo
  | 0x044 => some w.sr.tmask
  | 0x045 => some (w.sr.twd.zeroExtend 64)
  | 0x046 => some ((s.partn w.id.part).gwarn.zeroExtend 64)
  | _ => none

/-- How a register may be written (R37). -/
inductive SrAccess where
  | ro | rw | handler | mtsrp
  deriving DecidableEq, Repr

def srAccess (num : BitVec 10) : SrAccess :=
  let n := num.toNat
  if n = 0x040 ∨ n = 0x046 then .mtsrp
  else if 0x041 ≤ n ∧ n ≤ 0x044 then .handler
  else if (0x002 ≤ n ∧ n ≤ 0x00B) ∨ (0x017 ≤ n ∧ n ≤ 0x019) ∨ (0x01B ≤ n ∧ n ≤ 0x020) ∨ n = 0x045 then .rw
  else .ro

/-- The register file after a write that is allowed: the low bits are kept, and w1c registers clear the bits written as 1
(R23, R37). -/
def Special.write (r : Special) (num : BitVec 10) (x : DWord) : Special :=
  match num.toNat with
  | 0x002 => { r with vstart := x.truncate 16 }
  | 0x003 => { r with slip := x.truncate 3 }
  | 0x004 => { r with cvt := x.truncate 24 }
  | 0x005 => { r with flags := x.truncate 6 }
  | 0x006 => { r with lfm := r.lfm &&& ~~~x }
  | 0x007 => { r with pmask := r.pmask &&& ~~~x }
  | 0x008 => { r with st := r.st.set 0 x }
  | 0x009 => { r with st := r.st.set 1 x }
  | 0x00A => { r with st := r.st.set 2 x }
  | 0x00B => { r with st := r.st.set 3 x }
  | 0x017 => { r with tlda := x }
  | 0x018 => { r with tldb := x }
  | 0x019 => { r with tldc := x }
  | 0x01B => { r with bx0 := x.truncate 48 }
  | 0x01C => { r with bx1 := x }
  | 0x01D => { r with cpld := x }
  | 0x01E => { r with cprow := x.truncate 32 }
  | 0x01F => { r with sig0 := x }
  | 0x020 => { r with sig1 := x.truncate 32 }
  | 0x040 => { r with thb := x }
  | 0x041 => { r with tcause := x.truncate 8 }
  | 0x042 => { r with tpc := x }
  | 0x043 => { r with tinfo := x }
  | 0x044 => { r with tmask := x }
  | 0x045 => { r with twd := x.truncate 32 }
  | _ => r

/-- `mfsr` (R91). -/
def execMfsr (sd : SReg) (num : BitVec 10) (s : State) : Out :=
  match s.readSr s.me num with
  | none => s.trapWord causeIllegalOp
  | some x => s.putS sd x

/-- The write of `mtsr` and `mtsrp`; %gwarn belongs to the partition (R305). -/
def State.writeSr (s : State) (num : BitVec 10) (x : DWord) : Out :=
  let w := s.me
  if num.toNat = 0x046 then (s.setPartn w.id.part { s.partn w.id.part with gwarn := x.truncate 32 }).done w
  else s.done { w with sr := w.sr.write num x }

/-- `mtsr` (R23, R91). -/
def execMtsr (sa : SReg) (num : BitVec 10) (s : State) : Out :=
  if s.readSr s.me num = none then s.trapWord causeIllegalOp
  else match srAccess num with
    | .ro => s.trapWord causeIllegalOp
    | .mtsrp => s.trapWord causePrivileged
    | .handler => if s.me.mode = .handler then s.writeSr num (s.me.rs sa) else s.trapWord causePrivileged
    | .rw => s.writeSr num (s.me.rs sa)

/-- `mtsrp`: as `mtsr`, and it writes %thb, %gwarn and the trap registers in any mode; a register marked ro stays
ILLEGAL_OP (R312). -/
def execMtsrp (sa : SReg) (num : BitVec 10) (s : State) : Out :=
  if s.readSr s.me num = none ∨ srAccess num = .ro then s.trapWord causeIllegalOp
  else if ¬ s.me.id.priv then s.trapWord causePrivileged
  else s.writeSr num (s.me.rs sa)

/-- `iret`: legal in handler mode and in a privileged context (R27, R312). -/
def execIret (s : State) : Out :=
  let w := s.me
  if w.mode = .handler ∨ w.id.priv then .next (s.setMe w.iret) else s.trapWord causePrivileged

/-! ## The end of a wave (R94, R101, R144, R248) -/

/-- Tile commands of the wave that have still to retire. One held at a reserved code (R256) is not waited for: the end of the wave discards it
(log entry 73). -/
def Wave.tilesPending (w : Wave) : Bool := w.tiles.any (fun t => t.held.isNone)

/-- The events of the lanes of wave `n`, and its transfers, are performed at .pkg (R196, R302). -/
def State.eventsDone (s : State) (n : Nat) : Bool := s.storesDone n && !s.transfers.any (fun e => e.2.wave = n)

/-- The waves that a grace holds and that are gone with every event performed: their exit has become the quiescent point (R297, R302). -/
def State.goneWaves (s : State) : List Nat :=
  (s.domains.flatMap (fun e => (e.2.now.map Grace.held).getD [])).filter (fun n =>
    (lookOpt s.waves n).isNone || (!(s.wave n).live && s.eventsDone n))

def State.releaseGone (s : State) : State := s.goneWaves.foldl State.release s

/-- Wave `n`, whose table is empty, has exited: a quiescent point at any depth (R297), once its events are performed (R302); its matrix unit is free and its blocks go
to the pool (R144, R248); the gang keeps its exit code and %lfm (R148); lanes still switched off make a record (R332). -/
def State.waveGone (s : State) (n : Nat) : State :=
  let w := s.wave n
  let c := w.id.place
  let g := s.gang w.id.gang
  let s1 := if s.eventsDone n then s.release n else s
  let s2 := s1.setWave n { w with live := false, locks := [], tiles := [], walks := [], rest := [], late := [], lag := [] }
  let x := s2.core c
  let s3 := s2.setCore c
    { x with
      owner := if x.owner = some n then none else x.owner
      freeing := if x.owner = some n then false else x.freeing
      acc := if x.owner = some n then Vector.replicate 4 .dead else x.acc
      shadow := if x.owner = some n then .empty else x.shadow
      active := if x.owner = some n then .empty else x.active
      ageq := x.ageq.filter (· ≠ n) }
  let s4 := s3.setGang w.id.gang
    { g with
      pool := put g.pool w.id.wg.val (g.poolOf w.id.wg.val + w.blocks.val)
      last := s.time
      exits := g.exits ++ [{ wg := w.id.wg.val, wave := w.id.wave.val, code := w.exit, lfm := w.sr.lfm }] }
  let s5 := if w.sr.lfm = 0 then s4
    else s4.report c.die { (Record.blank 0x0070 0 (coreLoc c 0x3F 0)).ofWave w with data0 := w.sr.lfm }
  s5.settle

/-- The mode of a wave whose other entries are `rest`: it returns to normal once no handler entry is left (R105). -/
def modeAfter (m : Mode) (rest : List Entry) : Mode := if rest.any (fun e => e.kind = .handler) then m else .normal

/-- The running entry of the issuing wave leaves the table: the next entry takes its place, or the wave has exited. -/
def State.leaveTable (s : State) (w : Wave) : State :=
  match w.rest with
  | [] => (s.setMe { w with live := false }).waveGone s.cur
  | e :: t => s.setMe { w with run := e, rest := t, mode := modeAfter w.mode w.rest }

/-! ## System instructions (MAJ 0x0B) -/

/-- `trap` (R92). -/
def execTrap (num : BitVec 10) (s : State) : Out := s.trap causeTrap (num.zeroExtend 64)

/-- `hcall`: a release at .pkg, the message, and a wait of the whole wave (R93, R102). -/
def execHcall (sd sa : SReg) (num : BitVec 10) (s : State) : Out :=
  s.afterStores true (s.atQuiet (s.me.sr.rdep = 0) (
    let w := s.me
    let s1 := s.send (.hcall num.toNat (w.rs sa) w.id.task s.cur)
    .next ((s1.setMe { w with wait := .hcall sd }).quiesce s.cur)))

/-- `yield`: the wave goes to the back of the round robin, behind a wave that issues in the same cycle too (R95, R160). -/
def execYield (s : State) : Out := (s.toBack s.cur).done s.me

/-- `sleep`: the deadline %time + ZeroExt((s[sa] + n)[31:0]); a count of 0 returns at once (R96). -/
def execSleep (sa : SReg) (num : BitVec 10) (s : State) : Out :=
  let w := s.me
  let c := ((w.rs sa + num.zeroExtend 64).truncate 32 : BitVec 32).toNat
  if c = 0 then s.done w
  else s.atQuiet (w.sr.rdep = 0) (.next ((s.setMe ({ w with wait := .sleep (s.time + c) }.past 1)).quiesce s.cur))

/-! ## Register blocks and `join` (MAJ 0x3B) -/

/-- `join` (R162). -/
def execJoin (s : State) : Out := s.await .join

/-- Whether a lane of the wave is in a walk (R280). -/
def Wave.walking (w : Wave) : Bool := w.walks.any (fun e => e.2.phase ≠ .idle)

/-- `rgive` (R163, R280). -/
def execRgive (n : Fin 4) (s : State) : Out :=
  let w := s.me
  let b := w.blocks.val
  if b ≤ n.val ∨ (w.walking ∧ 8 * (b - n.val) ≤ 21) then s.trapWord causeRegRange
  else
    let g := s.gang w.id.gang
    let s1 := s.setGang w.id.gang { g with pool := put g.pool w.id.wg.val (g.poolOf w.id.wg.val + n.val) }
    s1.doneSettle { w.zeroRegs (b - n.val) n.val with blocks := Fin.ofNat 5 (b - n.val) }

/-- `rclaim` (R163). -/
def execRclaim (n : Fin 4) (s : State) : Out :=
  if 4 < s.me.blocks.val + n.val then s.trapWord causeRegRange else s.await (.rclaim n.val)

end Sys2Proof.Machine
end

