-- ==== Sys2Proof/Machine/Walk.lean ====
section
/-! DEFINITION. The tree-walk engine (R271 to R293): layout tables, stack objects, Step, the instructions of MAJ 0x38 and 0x39,
and `exit` (R94), which ends walks. The engine writes frames and headers to the objects at once, so they are always
consistent (R291). -/

namespace Sys2Proof.Machine

/-! ## Reading the tables (R271 to R273) -/

/-- A little-endian field of a list of bytes. -/
def field (bs : List Byte) (off len : Nat) : Nat := leNat ((bs.drop off).take len)

def nodeTypeOf (bs : List Byte) : NodeType where
  enter := BitVec.ofNat 32 (field bs 0 4)
  prune := BitVec.ofNat 32 (field bs 4 4)
  leave := BitVec.ofNat 32 (field bs 8 4)
  wide := field bs 12 1 = 1
  counted := field bs 13 1 = 1
  nchild := field bs 14 1
  cntOff := field bs 16 2
  ptrOff := field bs 18 2
  pstride := field bs 20 2
  keyOff := field bs 22 2
  keyLen := field bs 24 1

/-- No routine (R273). -/
def noRoutine : BitVec 32 := 0xFFFFFFFF

def badRoutine (x : Nat) : Bool := x ≠ 0xFFFFFFFF ∧ x % 12 ≠ 0

/-- The offset of the first field of a type descriptor that breaks R273. -/
def badType (bs : List Byte) : Option Nat :=
  let size := if field bs 12 1 = 1 then 8 else 4
  if badRoutine (field bs 0 4) then some 0
  else if badRoutine (field bs 4 4) then some 4
  else if badRoutine (field bs 8 4) then some 8
  else if 1 < field bs 12 1 then some 12
  else if 1 < field bs 13 1 then some 13
  else if 31 < field bs 14 1 then some 14
  else if field bs 15 1 ≠ 0 then some 15
  else if field bs 13 1 = 0 ∧ field bs 16 2 ≠ 0 then some 16
  else if field bs 18 2 % size ≠ 0 then some 18
  else if field bs 20 2 % size ≠ 0 ∨ field bs 20 2 < size then some 20
  else if field bs 22 2 % 4 ≠ 0 then some 22
  else if 32 < field bs 24 1 ∨ field bs 24 1 % 4 ≠ 0 then some 24
  else if field bs 25 7 ≠ 0 then some 25
  else none

/-- The offset of the first field of the table's header that breaks R272. CODEBASE is a packet start where it is a multiple of 12, against the
address that the listing of R294 gives it (log entry 86). -/
def badHeader (bs : List Byte) : Option Nat :=
  if field bs 0 1 = 0 ∨ 8 < field bs 0 1 then some 0
  else if 3 < field bs 1 1 then some 1
  else if 1 < field bs 4 1 then some 4
  else if field bs 5 1 ≠ 0 then some 5
  else if field bs 6 2 = 0 ∨ 256 < field bs 6 2 then some 6
  else if field bs 8 8 % 12 ≠ 0 then some 8
  else if field bs 24 8 ≠ 0 then some 24
  else none

/-- The first field of types `i` and up that breaks R273, by its offset in the table. -/
def badTypes (bs : List Byte) (i : Nat) : Nat → Option Nat
  | 0 => none
  | n + 1 =>
    match badType (bs.drop (32 + 32 * i)) with
    | some f => some (32 + 32 * i + f)
    | none => badTypes bs (i + 1) n

def treeSlotOf (bs : List Byte) : TreeSlot where
  tagW := field bs 1 1
  tagOff := field bs 2 2
  inD := field bs 4 1 = 1
  cap := field bs 6 2
  codeBase := BitVec.ofNat 64 (field bs 8 8)
  treeBase := BitVec.ofNat 64 (field bs 16 8)
  types := (List.range (field bs 0 1)).map (fun t => nodeTypeOf (bs.drop (32 + 32 * t)))
  enters := 0; prunes := 0; leaves := 0; skipped := 0

def Wave.slot (w : Wave) (i : Nat) : Option TreeSlot := lookOpt w.slots i

def Wave.setSlot (w : Wave) (i : Nat) (t : TreeSlot) : Wave := { w with slots := put w.slots i t }

/-- What STACK carries (R293). -/
def stackInfo (reason field : Nat) : DWord := BitVec.ofNat 64 (reason + field * 2 ^ 16)

/-- `twdef` (R271): the table is read as loads of .c or .g, checked, and copied into the slot. -/
def execTwdef (sa : SReg) (g : Bool) (tw : Fin 4) (s : State) : Out :=
  s.checked ⟨3, true, true, []⟩ (
    let w := s.me
    let sp : Space := if g then .g else .c
    let o := (w.rs sa).toNat
    if w.walks.any (fun e => e.2.phase ≠ .idle ∧ e.2.slot = tw) then s.trap causeStack (stackInfo 5 0)
    else if o % 64 ≠ 0 then s.trap causeMisaligned (spaceInfo sp o)
    else if ¬ w.inRange sp o 32 then s.trap causeSegment (spaceInfo sp o)
    else match s.loadAt w sp w.run.mask 0 o 32 with
      | .ok (s1, hd) =>
        let n := 32 * field hd 0 1
        if ¬ w.inRange sp (o + 32) n then s.trap causeSegment (spaceInfo sp (o + 32))
        else match s1.loadAt w sp w.run.mask 0 (o + 32) n with
          | .ok (s2, ts) =>
            let bs := hd ++ ts
            let bad := match badHeader hd with
              | some f => some f
              | none => badTypes bs 0 (field hd 0 1)
            match bad with
            | some f => s.trap causeStack (stackInfo 4 f)
            | none => s2.done (s2.me.setSlot tw.val (treeSlotOf bs))
          | x => s.failed w .load s.hold x
      | x => s.failed w .load s.hold x)

/-- `twstat` (R289). -/
def execTwstat (sd : SReg) (tw : Fin 4) (s : State) : Out :=
  s.checked ⟨3, false, false, []⟩ (
    match s.me.slot tw.val with
    | none => s.putS sd 0
    | some t => s.putS sd (t.skipped ++ t.leaves ++ t.prunes ++ t.enters))

/-! ## Stack objects (R275 to R278) -/

def objBytes (cap : Nat) : Nat := 32 + 24 * cap

/-- `n` bytes at a .d offset, and a store there (R169). They serve headers, frames and cells, of whose poison R285 does not speak: the bytes
that stand there are read as good, and a word that is written is poisoned no more (log entry 97). -/
def State.dRead (s : State) (w : Wave) (o n : Nat) : Nat := leNat ((s.die (s.segDie w)).bytes (w.seg.d.base.toNat + o) n)

def State.dWrite (s : State) (w : Wave) (o n x : Nat) : State :=
  let d := s.segDie w
  (s.push w.id.part w.id.place.die d).setDie d ((s.die d).store (w.seg.d.base.toNat + o) (bytesOfNat n x)).1

/-- A frame (R277). -/
structure Frame where
  node  : Nat
  pend  : Nat
  user  : Nat
  type  : Nat
  flags : Nat
  cidx  : Nat
  jidx  : Nat
  deriving DecidableEq, Repr

def Frame.flag (f : Frame) (i : Nat) : Bool := f.flags.testBit i

def Frame.setFlag (f : Frame) (i : Nat) (b : Bool) : Frame :=
  { f with flags := if f.flags.testBit i = b then f.flags else if b then f.flags + 2 ^ i else f.flags - 2 ^ i }

def fEntered : Nat := 0
def fJoined : Nat := 1
def fForeign : Nat := 2
def fDesc : Nat := 3
def fLeaving : Nat := 4

def frameAt (obj i : Nat) : Nat := obj + 32 + 16 * i

def cellAt (obj cap i : Nat) : Nat := obj + 32 + 16 * cap + 8 * i

def State.frame (s : State) (w : Wave) (obj i : Nat) : Frame :=
  let a := frameAt obj i
  { node := s.dRead w a 4, pend := s.dRead w (a + 4) 4, user := s.dRead w (a + 8) 4, type := s.dRead w (a + 12) 1,
    flags := s.dRead w (a + 13) 1, cidx := s.dRead w (a + 14) 1, jidx := s.dRead w (a + 15) 1 }

def State.setFrame (s : State) (w : Wave) (obj i : Nat) (f : Frame) : State :=
  let a := frameAt obj i
  (((s.dWrite w a 4 f.node).dWrite w (a + 4) 4 f.pend).dWrite w (a + 8) 4 f.user).dWrite w (a + 12) 4
    (f.type % 256 + f.flags % 256 * 2 ^ 8 + f.cidx % 256 * 2 ^ 16 + f.jidx % 256 * 2 ^ 24)

def State.depthOf (s : State) (w : Wave) (obj : Nat) : Nat := s.dRead w obj 2

def State.setDepth (s : State) (w : Wave) (obj d cap : Nat) : State := s.dWrite w obj 4 (d + cap * 2 ^ 16)

/-- STATE, SLOT and FLAGS: the header word at 0x04 (R276). -/
def State.setObjWord (s : State) (w : Wave) (obj state slot flags : Nat) : State :=
  s.dWrite w (obj + 4) 4 (state + slot * 2 ^ 8 + flags * 2 ^ 16)

def allOnesNat : Nat := 2 ^ 64 - 1

def nullNode : Nat := 0xFFFFFFFF

/-- A whole header (R276). -/
def State.setHeader (s : State) (w : Wave) (obj depth cap state slot flags base owner : Nat) : State :=
  ((((s.setDepth w obj depth cap).setObjWord w obj state slot flags).dWrite w (obj + 8) 8 base).dWrite w (obj + 16) 8
    allOnesNat).dWrite w (obj + 24) 8 owner

/-- OWNER of an active object (R276). -/
def Wave.ownerOf (w : Wave) (l : Nat) : Nat :=
  w.id.task.toNat / 2 ^ 16 * 2 ^ 16 + w.id.wave.val * 2 ^ 12 + w.id.wg.val * 2 ^ 10 + l

/-! ## Reading nodes (R274) -/

/-- What reading a node comes to. -/
inductive NodeRead (α : Type) where
  | ok (a : α)
  | fault (reason : Nat)
  | stall (cause : BitVec 8) (va : Nat)
  | lost (cause : BitVec 8)
  | wait                              -- a key command or a REPL commit is in the way: the lane's next Step tries again
  deriving Repr

/-- Bytes of the node space at an offset, as the engine reads them for wave `n` (R203, R274, R357). -/
def State.nodeBytes (s : State) (n : Nat) (w : Wave) (inD : Bool) (o k : Nat) : NodeRead (List Byte) :=
  let sp : Space := if inD then .d else .g
  if ¬ w.inRange sp o k then .fault 3
  else
    let a : Agent := { w.agent with core := none }
    let ps : Access (State × List Piece) :=
      if inD then .ok (s, [(.die (s.segDie w) (w.seg.d.base.toNat + o), k)])
      else s.reach a .load false (splitPages 3 (w.seg.g.base.toNat + o) k)
    match ps with
    | .ok (_, ps) =>
      if s.anyLocked (some n) ps then .wait
      else if ps.any (s.piecePoisoned a) then .fault 4
      else .ok (ps.flatMap (s.pieceBytes a))
    | .ask _ c va => .stall c va
    | .trap c _ => .lost c
    | .lost c => .lost c
    | _ => .wait

def NodeRead.bind {α β : Type} (x : NodeRead α) (f : α → NodeRead β) : NodeRead β :=
  match x with
  | .ok a => f a
  | .fault r => .fault r
  | .stall c va => .stall c va
  | .lost c => .lost c
  | .wait => .wait

/-- The number at an offset that must be aligned to its size. -/
def State.nodeWord (s : State) (n : Nat) (w : Wave) (inD : Bool) (o k : Nat) : NodeRead Nat :=
  if o % k ≠ 0 then .fault 3 else (s.nodeBytes n w inD o k).bind (fun bs => .ok (leNat bs))

/-- Child pointer `c` of a node at offset `o` in the space: none when it is null (R274). -/
def State.childPtr (s : State) (n : Nat) (w : Wave) (t : TreeSlot) (y : NodeType) (o c : Nat) : NodeRead (Option Nat) :=
  let a := o + y.ptrOff + y.pstride * c
  if y.wide then
    (s.nodeWord n w t.inD a 8).bind (fun p =>
      if p = allOnesNat then .ok none
      else if p < t.treeBase.toNat ∨ 2 ^ 32 - 2 < p - t.treeBase.toNat then .fault 3
      else .ok (some (p - t.treeBase.toNat)))
  else (s.nodeWord n w t.inD a 4).bind (fun p => .ok (if p = nullNode then none else some p))

/-- The present children `c` and up, as bits (R274). -/
def State.presentFrom (s : State) (n : Nat) (w : Wave) (t : TreeSlot) (y : NodeType) (o c : Nat) : Nat → NodeRead Nat
  | 0 => .ok 0
  | i + 1 =>
    (s.childPtr n w t y o c).bind (fun p =>
      (s.presentFrom n w t y o (c + 1) i).bind (fun m => .ok (m + if p.isSome then 2 ^ c else 0)))

/-- The key block of a node, padded to eight words (R280). -/
def State.keyBlock (s : State) (n : Nat) (w : Wave) (t : TreeSlot) (y : NodeType) (o i : Nat) : Nat → NodeRead (List Word)
  | 0 => .ok []
  | k + 1 =>
    (if 4 * i < y.keyLen then s.nodeWord n w t.inD (o + y.keyOff + 4 * i) 4 else .ok 0).bind (fun x =>
      (s.keyBlock n w t y o (i + 1) k).bind (fun xs => .ok (BitVec.ofNat 32 x :: xs)))

/-- A node as read. -/
structure NodeInfo where
  type    : Nat
  info    : NodeType
  present : Nat
  key     : List Word
  deriving DecidableEq, Repr

/-- Where a node starts in its space. -/
def TreeSlot.at (t : TreeSlot) (n : Nat) : Nat := t.treeBase.toNat + n

/-- Read the fields of a node in the order of R274. -/
def State.readNode (s : State) (n : Nat) (w : Wave) (t : TreeSlot) (node : Nat) : NodeRead NodeInfo :=
  let o := t.at node
  (if t.tagW = 0 then .ok 0
   else (s.nodeWord n w t.inD (o + t.tagOff) 1).bind (fun b => .ok (b % 2 ^ t.tagW))).bind (fun ty =>
  match t.types[ty]? with
  | none => .fault 1
  | some y =>
    (if y.counted then s.nodeWord n w t.inD (o + y.cntOff) 1 else .ok y.nchild).bind (fun cnt =>
    if y.nchild < cnt then .fault 2
    else (s.presentFrom n w t y o 0 cnt).bind (fun m =>
      (s.keyBlock n w t y o 0 8).bind (fun ks => .ok { type := ty, info := y, present := m, key := ks }))))

/-! ## The walk of a lane (R279 to R286) -/

def Wave.walkOf (w : Wave) (l : Nat) : Option WalkLane := lookOpt w.walks l

def Wave.setWalk (w : Wave) (l : Nat) (x : WalkLane) : Wave := { w with walks := put w.walks l x }

/-- Lane `l` leaves the entry of the table that holds it; an emptied entry is removed (R101). Answers the wave with what is left,
its running entry empty if that was the one. -/
def Entry.without (e : Entry) (m : BitVec 64) : Entry := { e with mask := e.mask &&& ~~~m }

/-- Take the lanes `m` out of the table and let them join it as entry `e` (R101). The running entry is kept in its place where lanes of it
remain. -/
def Wave.moveLanes (w : Wave) (m : BitVec 64) (e : Entry) : Wave :=
  let run := w.run.without m
  let rest := (w.rest.map (fun x => x.without m)).filter (fun x => x.mask ≠ 0)
  if run.mask = 0 then
    match insertEntry { e with mask := m } rest with
    | [] => w
    | x :: t => { w with run := x, rest := t }
  else { w with run, rest }.join { e with mask := m }

def freshEntry (pc : DWord) (kind : Kind) (m : BitVec 64) : Entry :=
  { pc, kind, mask := m, wait := none, buf := none, tied := false }

/-- The interlock entry of a walk is freed when its last lane has finished (R281). -/
def Wave.freeWalkLock (w : Wave) (o : Nat) : Wave :=
  if w.walks.any (fun e => e.2.phase ≠ .idle ∧ e.2.lock = o) then w
  else { w with locks := w.locks.filter (fun i => i.owner ≠ o) }

/-- Write the end of a walk to the object: STATE, the fault reason, OWNER ← 0 (R286). -/
def State.closeObj (s : State) (w : Wave) (x : WalkLane) (state reason : Nat) : State :=
  let flags := s.dRead w (x.obj + 6) 1
  (s.setObjWord w x.obj state x.slot.val (flags / 8 * 8 + reason)).dWrite w (x.obj + 24) 8 0

/-- Finish(s) of R286 for lane `l` of wave `n`: `status` goes to vd, and the lane resumes at the word after its start, in an entry of the kind
that started its walk. Where that is a handler entry, which R286 leaves open, the wave is in handler mode again (log entry 88). -/
def State.finish (s : State) (n l : Nat) (x : WalkLane) (state reason status : Nat) : State :=
  let s1 := s.closeObj (s.wave n) x state reason
  let w := s1.wave n
  let lane : Lane := Fin.ofNat 64 l
  let w1 := (w.setV x.vd lane (BitVec.ofNat 32 status)).setWalk l { x with phase := .idle, stall := none }
  let e := (freshEntry x.back x.kind 0).past 1
  let w2 := (w1.moveLanes (bit64 l) e).freeWalkLock x.lock
  (s1.setWave n { w2 with mode := if x.kind = .handler then .handler else w2.mode }).settle

def kindCode : WalkPhase → Nat
  | .enter => 1
  | .prune _ => 2
  | .leave => 3
  | _ => 0

/-- Write v24 to v31 of a lane. -/
def Wave.setKeys (w : Wave) (l : Lane) (i : Nat) : List Word → Wave
  | [] => w
  | k :: ks => (w.setV (Fin.ofNat 32 (24 + i)) l k).setKeys l (i + 1) ks

/-- Count a presentation in the slot (R289). -/
def TreeSlot.count (t : TreeSlot) : WalkPhase → TreeSlot
  | .enter => { t with enters := t.enters + 1 }
  | .prune _ => { t with prunes := t.prunes + 1 }
  | .leave => { t with leaves := t.leaves + 1 }
  | _ => t

/-- Present a node to lane `l` (R280): v21 to v31, and the lane moves to the routine's entry. -/
def State.present (s : State) (n l : Nat) (x : WalkLane) (t : TreeSlot) (ph : WalkPhase) (routine : BitVec 32)
    (user depth cidx type node child : Nat) (key : List Word) : State :=
  let w := s.wave n
  let lane : Lane := Fin.ofNat 64 l
  let v22 := depth % 512 + cidx % 32 * 2 ^ 16 + type % 8 * 2 ^ 21 + kindCode ph * 2 ^ 24
  let w1 := (((w.setV 21 lane (BitVec.ofNat 32 user)).setV 22 lane (BitVec.ofNat 32 v22)).setV 23 lane
    (BitVec.ofNat 32 node)).setKeys lane 0 key
  let w2 := (w1.setSlot x.slot.val (t.count ph)).setWalk l { x with phase := ph, child }
  s.setWave n (w2.moveLanes (bit64 l) (freshEntry (t.codeBase + routine.zeroExtend 64) .walk 0))

/-- Join(F): decrement the cells of the chain from `a` (R285). `none` stands for FAULT 6. Every cell that lets the chain go on has one
nonzero byte fewer, so `fuel` beyond the 32-bit offsets that NEXT names never runs out. A cell is not checked against the segment .d (log entry
109). -/
def State.joinLoop (s : State) (w : Wave) (a : Nat) : Nat → State × Option Bool
  | 0 => (s, none)
  | fuel + 1 =>
    let old := s.dRead w a 4
    if old = 0 then (s, none)
    else
      let s1 := s.dWrite w a 4 (old - 1)
      if old ≠ 1 then (s1, some false)
      else
        let nx := s1.dRead w (a + 4) 4
        if nx = nullNode then (s1, some true) else s1.joinLoop w nx fuel

/-- An interlock entry belongs to a walk of the wave (R281). -/
def Wave.walkLock (w : Wave) (i : Interlock) : Bool := w.walks.any (fun e => e.2.phase ≠ .idle ∧ e.2.lock = i.owner)

/-- Whether a join by wave `n` may act: it is a release at .pkg, after the stores of the wave and every transfer that is no walk (R285,
R292). -/
def State.joinReady (s : State) (n : Nat) : Bool :=
  let w := s.wave n
  s.storesDone n && w.locks.all w.walkLock

/-- The address of a joined frame's cell (R277). -/
def State.cellOf (s : State) (w : Wave) (obj cap : Nat) (f : Frame) : Nat :=
  if f.flag fForeign then s.dRead w (obj + 16) 8 + 8 * f.jidx else cellAt obj cap f.jidx

/-- The child that Step visits next: the lowest bit of PEND, the highest under DESC (R282). -/
def pickChild (pend : Nat) (desc : Bool) : Nat := if desc then pend.log2 else (pend &&& (2 ^ 32 - pend)).log2

/-- What a failed node read does to the lane: FAULT, a stall of the lane alone, or the loss of the gang (R274, R316). -/
def State.nodeFail {α : Type} (s : State) (n l : Nat) (x : WalkLane) : NodeRead α → State
  | .ok _ => s
  | .fault r => s.finish n l x 4 r 2
  | .stall c va =>
    let w := s.wave n
    (s.setWave n (w.setWalk l { x with stall := some s.tag })).request (.lane n l) w.id.place.die w.id.asid.toNat w.id.part 6 c va
      w.id.task
  | .lost c => s.lose n c
  | .wait => s.stallLine (.lane n l)

/-- Step of R282 for lane `l` of wave `n`, whose engine work is due. An adopted frame whose TYPE its adopter's table does not have ends the
walk with FAULT, reason 1 (log entry 95); one that is LEAVING and whose type has no leave routine there is presented all the same, at
CODEBASE + 0xFFFF_FFFF (log entry 96). Node offsets count from the slot's TREEBASE, whatever BASE the object's header has (log entry 110). -/
def State.walkStep (s : State) (n l : Nat) (x : WalkLane) (t : TreeSlot) : State :=
  let w := s.wave n
  let depth := s.depthOf w x.obj
  if depth = 0 then s.finish n l x 2 0 0
  else
    let i := depth - 1
    let f := s.frame w x.obj i
    let pop (s : State) : State := s.setDepth w x.obj i x.cap
    let leave (s : State) (f : Frame) (y : NodeType) : State :=
      match s.keyBlock n w t y (t.at f.node) 0 8 with
      | .ok ks => s.present n l x t .leave y.leave f.user i f.cidx f.type f.node 0 ks
      | r => s.nodeFail n l x r
    if f.flag fLeaving then
      match t.types[f.type]? with
      | some y => leave s f y
      | none => s.nodeFail n l x (.fault 1 : NodeRead Unit)
    else if ¬ f.flag fEntered then
      match s.readNode n w t f.node with
      | .ok d =>
        let f1 := { f with type := d.type }
        if d.info.enter = noRoutine then
          s.setFrame w x.obj i ((({ f1 with pend := d.present } : Frame).setFlag fDesc false).setFlag fEntered true)
        else
          (s.setFrame w x.obj i f1).present n l x t .enter d.info.enter f.user i f.cidx d.type f.node d.present d.key
      | r => s.nodeFail n l x r
    else match t.types[f.type]? with
      | none => s.nodeFail n l x (.fault 1 : NodeRead Unit)
      | some y =>
        if f.pend ≠ 0 then
          let c := pickChild f.pend (f.flag fDesc)
          if depth = x.cap then s.finish n l x 4 5 2
          else match s.childPtr n w t y (t.at f.node) c with
            | .ok none => s.setFrame w x.obj i { f with pend := f.pend - 2 ^ c }
            | .ok (some child) =>
              match s.readNode n w t child with
              | .ok d =>
                if d.info.prune = noRoutine then
                  let s1 := s.setFrame w x.obj i { f with pend := f.pend - 2 ^ c }
                  let s2 := s1.setFrame w x.obj depth
                    { node := child, pend := 0, user := f.user, type := d.type, flags := 0, cidx := c, jidx := 0 }
                  s2.setDepth w x.obj (depth + 1) x.cap
                else
                  s.present n l x t (.prune (Fin.ofNat 32 c)) d.info.prune f.user depth c d.type child
                    (child + d.type * 2 ^ 32) d.key
              | r => s.nodeFail n l x r
            | .fault r => s.nodeFail n l x (.fault r : NodeRead Unit)
            | .stall a b => s.nodeFail n l x (.stall a b : NodeRead Unit)
            | .lost a => s.nodeFail n l x (.lost a : NodeRead Unit)
            | .wait => s.stallLine (.lane n l)
        else if f.flag fJoined ∧ ¬ s.joinReady n then s
        else
          let j : State × Option Bool :=
            if f.flag fJoined then (s.acquire w.id.place).joinLoop w (s.cellOf w x.obj x.cap f) (2 ^ 33) else (s, some true)
          match j with
          | (s1, none) => s1.finish n l x 4 6 2
          | (s1, some false) =>
            (pop s1).setWave n ((s1.wave n).setSlot x.slot.val { t with skipped := t.skipped + 1 })
          | (s1, some true) =>
            if y.leave = noRoutine then pop s1
            else leave (s1.setFrame w x.obj i (f.setFlag fLeaving true)) (f.setFlag fLeaving true) y

/-- NODE_PRESENTATION: the engine takes one Step for a lane whose work is due (R282). A lane with nothing due is left alone. -/
def execNodePresentation (wave : Nat) (lane : Lane) (s : State) : Out :=
  let w := s.wave wave
  match w.walkOf lane.val with
  | some x =>
    match w.slot x.slot.val with
    | some t =>
      if w.live ∧ x.phase = .due ∧ x.stall = none ∧ (s.gang w.id.gang).runs then
        .next ((s.relieved (.lane wave lane.val)).walkStep wave lane.val x t)
      else .next s
    | none => .next s
  | none => .next s

/-! ## Starting walks (R281) -/

/-- Bounds of a set of lanes. -/
def minLane (m : BitVec 64) : Nat := ((lanesOf m).head?.map (·.val)).getD 0
def maxLane (m : BitVec 64) : Nat := ((lanesOf m).getLast?.map (·.val)).getD 0

/-- The lowest offset at which an object of the lanes leaves .d (R281). -/
def objsOut (w : Wave) (b obj : Nat) (ls : List Lane) : Option Nat :=
  ((ls.find? (fun l => ¬ w.inRange .d (b + l.val * obj) obj)).map
    (fun l => max (b + l.val * obj) w.seg.d.limit.toNat))

/-- The range of the objects of lanes `m` (R281). -/
def State.objRange (s : State) (w : Wave) (b obj : Nat) (m : BitVec 64) : Range :=
  s.rangeOf w .d (b + minLane m * obj) ((maxLane m + 1 - minLane m) * obj)

/-- v21 to v31 are named implicitly (R280). -/
def walkRegs : List VReg := [31]

/-- Begin the walk of one lane: bind the object and write its header and frame 0 (R281). TYPE of the frame, which the engine writes again
when it enters the node, is 0 until then (log entry 98). -/
def State.startLane (s : State) (w : Wave) (t : TreeSlot) (tw : Fin 4) (va : VReg) (b : Nat) (l : Lane) : State :=
  let obj := b + l.val * objBytes t.cap
  let root := (w.rv va l).toNat
  let s1 := s.setHeader w obj (if root = nullNode then 0 else 1) t.cap 1 tw.val 0 t.treeBase.toNat (w.ownerOf l.val)
  s1.setFrame w obj 0 { node := root, pend := 0, user := (w.rv 21 l).toNat, type := 0, flags := 0, cidx := 31, jidx := 0 }

/-- The lanes `m` park: each has its walk bound, and stands in a walk entry at the word (R279). The wave returns to normal mode where no handler
entry is left (R105). A lane that was in a walk, in a handler entry which a routine's trap made, has the new walk instead of the old one (log
entry 108). -/
def Wave.park (w : Wave) (m : BitVec 64) (cap b : Nat) (vd : VReg) (tw : Fin 4) (lock : Nat) : Wave :=
  let w1 := (lanesOf m).foldl (fun (w : Wave) l => w.setWalk l.val
    { obj := b + l.val * objBytes cap, cap, vd, slot := tw, lock, back := w.run.pc, kind := w.run.kind, phase := .due,
      child := 0, stall := none }) w
  let w2 := if w.run.mask &&& ~~~m = 0 then w1 else { w1 with run := w1.run.past 1 }
  let w3 := w2.moveLanes m (freshEntry w.run.pc .walk m)
  { w3 with mode := modeAfter w3.mode (w3.run :: w3.rest) }

/-- `twstart` (R281). -/
def execTwstart (vd va : VReg) (sb : SReg) (tw : Fin 4) (s : State) : Out :=
  s.checked ⟨3, true, false, [vd, va] ++ walkRegs⟩ (
    let w := s.me
    match w.slot tw.val with
    | none => s.trap causeStack (stackInfo 2 0)
    | some t =>
      let act := w.act
      let b := (w.rs sb).toNat
      let obj := objBytes t.cap
      if act = 0 then s.done w
      else if b % 8 ≠ 0 then s.trap causeMisaligned (spaceInfo .d b)
      else match objsOut w b obj (lanesOf act) with
        | some o => s.trap causeSegment (spaceInfo .d o)
        | none =>
          let r := s.objRange w b obj act
          match w.freeLock.andThen (fun _ => w.lockXfer none (some r)) with
            | .ok () =>
              let s1 := (lanesOf act).foldl (fun s l => s.startLane w t tw va b l) s
              let w1 := { w with locks := w.locks ++ [(⟨s.seq, none, some r⟩ : Interlock)] }
              .next (s1.next.setMe (w1.park act t.cap b vd tw s.seq))
            | x => s.failed w .store s.hold x)

/-! ## Ending routines (R283, R284) -/

/-- The lanes of the run that a routine's end concerns. -/
def Wave.routineLanes (w : Wave) : List Lane := lanesOf w.run.mask

/-- The user word of a routine's end goes to the frame it belongs to (R283). -/
def State.takeUser (s : State) (w : Wave) (x : WalkLane) (l : Lane) : State :=
  let i := s.depthOf w x.obj - 1
  match x.phase with
  | .enter => s.setFrame w x.obj i { s.frame w x.obj i with user := (w.rv 21 l).toNat }
  | .prune _ => s.setFrame w x.obj i { s.frame w x.obj i with user := (w.rv 21 l).toNat }
  | _ => s

/-- `twret` for one lane, by the kind of its presentation (R283). -/
def State.retLane (s : State) (w : Wave) (va : VReg) (l : Lane) : State :=
  match w.walkOf l.val with
  | none => s
  | some x =>
    let r := (w.rv va l).toNat
    let s1 := s.takeUser w x l
    let depth := s1.depthOf w x.obj
    let i := depth - 1
    let f := s1.frame w x.obj i
    match x.phase with
    | .enter =>
      s1.setFrame w x.obj i
        ((({ f with pend := (r % 2 ^ 31) &&& x.child } : Frame).setFlag fDesc (r.testBit 31)).setFlag fEntered true)
    | .prune c =>
      let s2 := s1.setFrame w x.obj i { f with pend := if f.pend.testBit c.val then f.pend - 2 ^ c.val else f.pend }
      if r ≠ 0 then s2
      else
        (s2.setFrame w x.obj depth
          { node := x.child % 2 ^ 32, pend := 0, user := f.user, type := x.child / 2 ^ 32, flags := 0, cidx := c.val,
            jidx := 0 }).setDepth w x.obj (depth + 1) x.cap
    | .leave => s1.setDepth w x.obj i x.cap
    | _ => s1

/-- `twret` (R283). -/
def execTwret (va : VReg) (s : State) : Out :=
  s.checked ⟨3, false, false, [va]⟩ (
    let w := s.me
    if w.run.kind ≠ .walk then s.trap causeStack (stackInfo 1 0)
    else
      let ls := w.routineLanes
      let s1 := ls.foldl (fun s l => s.retLane w va l) s
      let w1 := ls.foldl (fun (w : Wave) l => match w.walkOf l.val with
        | some x => (w.setWalk l.val { x with phase := .due }).moveLanes (bit64 l.val) (freshEntry x.back .walk 0)
        | none => w) w
      .next (s1.next.setMe w1))

/-- End the walks of the lanes with STOPPED, without a routine result (R284, R290). -/
def State.stopLanes (s : State) (n : Nat) (ls : List Lane) (user : Bool) : State :=
  ls.foldl (fun s l =>
    let w := s.wave n
    match w.walkOf l.val with
    | some x =>
      if x.phase = .idle then s else (if user then s.takeUser w x l else s).finish n l.val x 3 0 1
    | none => s) s

/-- `twstop` (R284). -/
def execTwstop (s : State) : Out :=
  s.checked ⟨3, false, false, []⟩ (
    let w := s.me
    if w.run.kind ≠ .walk then s.trap causeStack (stackInfo 1 0)
    else .next (s.stopLanes s.cur w.routineLanes true))

/-! ## Cutting and adopting (R287, R288) -/

/-- The lanes that are cut: they have a bound object whose STATE is not ACTIVE. -/
def State.cutLanes (s : State) (w : Wave) : List (Lane × WalkLane) :=
  (lanesOf w.act).filterMap (fun l => match w.walkOf l.val with
    | some x => if s.dRead w (x.obj + 4) 1 = 1 then none else some (l, x)
    | none => none)

/-- The highest frame below `n` with a pending child. -/
def State.lastPend (s : State) (w : Wave) (obj : Nat) : Nat → Option Nat
  | 0 => none
  | n + 1 => if (s.frame w obj n).pend ≠ 0 then some n else s.lastPend w obj n

/-- Move frames `i` to `i + n - 1` of X to Y, each joined at Y's cell (R287). -/
def State.cutFrames (s : State) (w : Wave) (x y cap i : Nat) : Nat → State
  | 0 => s
  | n + 1 =>
    let f := s.frame w x i
    let next := if f.flag fJoined then s.cellOf w x cap f else nullNode
    let s1 := s.dWrite w (cellAt y cap i) 8 (2 + next % 2 ^ 32 * 2 ^ 32)
    let s2 := s1.setFrame w y i { (((f.setFlag fJoined true).setFlag fForeign false).setFlag fLeaving false) with jidx := i }
    let s3 := s2.setFrame w x i { ((f.setFlag fJoined true).setFlag fForeign true) with pend := 0, jidx := i }
    s3.cutFrames w x y cap (i + 1) n

/-- Cut one lane's object at the depth it asks for; answers the value for vd (R287). -/
def State.cutLane (s : State) (w : Wave) (x : WalkLane) (y d : Nat) : State × Word :=
  let depth := s.depthOf w x.obj
  let slot := s.dRead w (x.obj + 5) 1
  let base := s.dRead w (x.obj + 8) 8
  match s.lastPend w x.obj (min d depth) with
  | none => (s.setHeader w y 0 x.cap 2 slot 8 base 0, 0)
  | some j =>
    let s1 := s.cutFrames w x.obj y x.cap 0 (j + 1)
    let s2 := s1.dWrite w (x.obj + 16) 8 (cellAt y x.cap 0)
    (s2.setHeader w y (j + 1) x.cap 0 slot 8 base 0, BitVec.ofNat 32 (j + 1))

/-- Whether two ranges of bytes overlap. -/
def overlaps (a n b m : Nat) : Bool := a < b + m ∧ b < a + n

/-- The least of a list of numbers. -/
def lowest (l : List Nat) : Option Nat := l.foldl (fun m x => some (match m with
  | some y => min y x
  | none => x)) none

/-- STATE of the objects bound to lanes of Act may be read: none of the wave's stores is late and no pending transfer writes a header of them. An
entry of a walk does not count: what a walk writes is ACTIVE, and nothing is checked for an object that is (R225, R287). -/
def State.cutReadable (s : State) (w : Wave) : Access Unit :=
  match (lanesOf w.act).filterMap (fun l => w.walkOf l.val) with
  | [] => .ok ()
  | xs =>
    if w.late ≠ [] then .hold
    else w.lockCheck (fun i => !w.walkLock i && xs.any (fun x => (s.rangeOf w .d x.obj 32).hits i.dst))

/-- `twcut` (R287), which leaves %vstart at 0 (R116). -/
def execTwcut (vd va : VReg) (sb : SReg) (s : State) : Out :=
  s.checked ⟨3, true, false, [vd, va]⟩ (
    let w := s.me
    let b := (w.rs sb).toNat
    let cut := s.cutLanes w
    let out := lowest ((cut.filter (fun e => ¬ w.inRange .d (b + e.1.val * objBytes e.2.cap) (objBytes e.2.cap))).map
      (fun e => max (b + e.1.val * objBytes e.2.cap) w.seg.d.limit.toNat))
    let bound := (lanesOf w.act).filterMap (fun l => w.walkOf l.val)
    let clash := cut.any (fun e => bound.any (fun x =>
      overlaps (b + e.1.val * objBytes e.2.cap) (objBytes e.2.cap) x.obj (objBytes x.cap)))
    let none1 := (lanesOf w.act).foldl (fun (w : Wave) l => w.setV vd l 0xFFFFFFFF) w
    match s.cutReadable w with
    | .ok () =>
    if cut = [] then s.done none1.clearStart
    else if b % 8 ≠ 0 then s.trap causeMisaligned (spaceInfo .d b)
    else match out with
      | some o => s.trap causeSegment (spaceInfo .d o)
      | none =>
        if clash then s.trap causeStack (stackInfo 3 0)
        else
          let lo := cut.map (fun e => b + e.1.val * objBytes e.2.cap)
          let r := cut.map (fun e => s.rangeOf w .d (b + e.1.val * objBytes e.2.cap) (objBytes e.2.cap))
          match w.lockCheck (fun i => (r ++ cut.map (fun e => s.rangeOf w .d e.2.obj (objBytes e.2.cap))).any
              (fun x => x.hits i.dst || x.hits i.src)) with
          | .ok () =>
            let go := (cut.zip lo).foldl (fun (a : State × Wave) e =>
              let c := a.1.cutLane w e.1.2 e.2 (w.rv va e.1.1).toNat
              (c.1, a.2.setV vd e.1.1 c.2)) (s, none1)
            go.1.done go.2.clearStart
          | x => s.failed w .store s.hold x
    | x => s.failed w .load s.hold x)

/-- The claim of an object (R288): its two steps; the status for a lane that finishes at once, or none for a lane that walks. -/
def State.claim (s : State) (w : Wave) (obj slot cap l : Nat) : State × Option Nat :=
  let state := s.dRead w (obj + 4) 1
  let osl := s.dRead w (obj + 5) 1
  let flags := s.dRead w (obj + 6) 2
  if state = 1 then (s, some 3)
  else if 4 < state ∨ osl ≠ slot then (s, some 4)
  else if s.dRead w (obj + 2) 2 ≠ cap ∨ cap < s.depthOf w obj then (s, some 4)
  else ((s.setObjWord w obj 1 slot flags).dWrite w (obj + 24) 8 (w.ownerOf l), none)

/-- `twadopt` (R288). -/
def execTwadopt (vd : VReg) (sb : SReg) (s : State) : Out :=
  s.checked ⟨3, true, false, [vd] ++ walkRegs⟩ (
    let w := s.me
    let act := w.act
    let b := (w.rs sb).toNat
    if act = 0 then s.done w
    else if b % 8 ≠ 0 then s.trap causeMisaligned (spaceInfo .d b)
    else if ¬ w.inRange .d b 32 then s.trap causeSegment (spaceInfo .d (max b w.seg.d.limit.toNat))
    else match (if w.late ≠ [] then .hold else w.lockLoad (s.rangeOf w .d b 32) : Access Unit) with
    | .ok () =>
      let slot := s.dRead w (b + 5) 1
      if 3 < slot then s.done ((lanesOf act).foldl (fun (w : Wave) l => w.setV vd l 4) w)
      else match w.slot slot with
        | none => s.trap causeStack (stackInfo 2 0)
        | some t =>
          let obj := objBytes t.cap
          match objsOut w b obj (lanesOf act) with
          | some o => s.trap causeSegment (spaceInfo .d o)
          | none =>
            let r := s.objRange w b obj act
            match w.freeLock.andThen (fun _ => w.lockXfer none (some r)) with
              | .ok () =>
                let go := (lanesOf act).foldl (fun (a : State × Wave × BitVec 64) l =>
                  match a.1.claim w (b + l.val * obj) slot t.cap l.val with
                  | (s1, none) => (s1, a.2.1, a.2.2 ||| bit64 l.val)
                  | (s1, some x) => (s1, a.2.1.setV vd l (BitVec.ofNat 32 x), a.2.2)) (s, w, 0)
                let m := go.2.2
                if m = 0 then go.1.done go.2.1
                else
                  let w1 := { go.2.1 with locks := w.locks ++ [(⟨s.seq, none, some r⟩ : Interlock)] }
                  .next (go.1.next.setMe (w1.park m t.cap b vd (Fin.ofNat 4 slot) s.seq))
              | x => s.failed w .store s.hold x
    | x => s.failed w .load s.hold x)

/-! ## `exit` (R94, R290) -/

/-- `exit` (R94): it waits for the wave's transfers, tile commands and stores; lanes in a walk first finish with STOPPED (R290); then
the run leaves the table, and with the last entry the wave exits. In a handler entry that a routine's trap made, the lanes leave their walks
unfinished (log entry 108). -/
def execExit (sa : SReg) (s : State) : Out :=
  let w := s.me
  match w.transfersDone with
  | .ok () =>
    if w.tilesPending then s.hold
    else s.afterStores (s.graceHolds s.cur) (
      let s1 := s.setMe { w with exit := (w.rs sa).truncate 32 }
      if w.run.kind = .walk then
        let lanes := w.run.mask
        let s2 := (w.routineLanes.foldl (fun s l => match (s.wave s.cur).walkOf l.val with
          | some x =>
            let s3 := s.closeObj (s.wave s.cur) x 3 0
            let w3 := s3.wave s.cur
            s3.setMe (((w3.setV x.vd l 1).setWalk l.val { x with phase := .idle, stall := none }).freeWalkLock x.lock)
          | none => s) s1)
        .next ((s2.leaveTable { s2.me with run := { s2.me.run with mask := lanes } }).settle)
      else .next (s1.leaveTable s1.me))
  | x => s.failed w .load s.hold x

end Sys2Proof.Machine
end

