-- ==== Sys2Proof/Machine/Operands.lean ====
section
/-! DEFINITION. The operand forms of vector instructions: the lanes that take part (R114, R116), reading and writing the lanes of a
register, and the forms that the families share. -/

namespace Sys2Proof.Machine

/-! ## Lane sets -/

/-- Part: the lanes of Act that the mask admits; km = 0 is no mask (R31, R114). -/
def Wave.part (w : Wave) (km : KReg) : BitVec 64 := if km = 0 then w.act else w.act &&& w.rk km

/-- Lanes at or above %vstart (R116). -/
def Wave.unfinished (w : Wave) (m : BitVec 64) : BitVec 64 := m &&& ~~~(lowLanes (min w.sr.vstart.toNat 64))

/-- The highest lane of a mask; lane 0 for none. -/
def topLane (m : BitVec 64) : Lane := Fin.ofNat 64 m.toNat.log2

/-- Write the lanes `m` of a vector register, each with its value. The register is dirty, and HW rises to the highest lane when that
is higher (R323). -/
def Wave.setLanes (w : Wave) (r : VReg) (m : BitVec 64) (f : Lane → Word) : Wave :=
  if m = 0 then w
  else
    { w with
      v := w.v.set r (Vector.ofFn (fun l : Lane => if m.getLsbD l.val then f l else w.v[r][l]))
      dirty := w.dirty ||| (1 : BitVec 32) <<< r.val
      hw := if w.dirty.getLsbD r.val ∧ topLane m ≤ w.hw[r] then w.hw else w.hw.set r (topLane m) }

/-- Write the lanes `m` of a predicate register (R125, R126). -/
def Wave.setKLanes (w : Wave) (r : KReg) (m : BitVec 64) (f : Lane → Bool) : Wave :=
  w.setK r ((w.rk r &&& ~~~m) ||| BitVec.ofNat 64 ((List.finRange 64).foldl (fun n l => if m.getLsbD l.val && f l then n + 2 ^ l.val else n) 0))

/-- The flags of all the lanes `m` (R70). -/
def laneFlags (m : BitVec 64) (f : Lane → FpFlags) : FpFlags := (lanesOf m).foldl (fun a l => a ||| f l) flagNone

/-! ## Element-wise forms (R116, R118) -/

/-- vd[l] ← f(l), with flags, for every lane of Part from %vstart on. -/
def State.perLane (s : State) (regs : List VReg) (vd : VReg) (km : KReg) (f : Wave → Lane → Fp) : Out :=
  s.withRegs regs (
    let w := s.me
    let m := w.unfinished (w.part km)
    s.done (((w.setLanes vd m (fun l => (f w l).1)).addFlags (laneFlags m (fun l => (f w l).2))).clearStart))

/-- VR with two sources: integer functions. -/
def State.vecVV (s : State) (f : Word → Word → Word) (vd va vb : VReg) (km : KReg) : Out :=
  s.perLane [vd, va, vb] vd km (fun w l => (f (w.rv va l) (w.rv vb l), flagNone))

/-- s[sb][31:0] (R119). -/
def Wave.rsLow (w : Wave) (sb : SReg) : Word := (w.rs sb).truncate 32

/-- VS: the second source is a scalar. -/
def State.vecVS (s : State) (f : Word → Word → Word) (vd va : VReg) (sb : SReg) (km : KReg) : Out :=
  s.perLane [vd, va] vd km (fun w l => (f (w.rv va l) (w.rsLow sb), flagNone))

/-- One source. -/
def State.vecV (s : State) (f : Word → Word) (vd va : VReg) (km : KReg) : Out :=
  s.perLane [vd, va] vd km (fun w l => (f (w.rv va l), flagNone))

/-- F32 forms, with flags. -/
def State.vecFVV (s : State) (f : Word → Word → Fp) (vd va vb : VReg) (km : KReg) : Out :=
  s.perLane [vd, va, vb] vd km (fun w l => f (w.rv va l) (w.rv vb l))

def State.vecFVS (s : State) (f : Word → Word → Fp) (vd va : VReg) (sb : SReg) (km : KReg) : Out :=
  s.perLane [vd, va] vd km (fun w l => f (w.rv va l) (w.rsLow sb))

def State.vecFV (s : State) (f : Word → Fp) (vd va : VReg) (km : KReg) : Out :=
  s.perLane [vd, va] vd km (fun w l => f (w.rv va l))

/-- A compare (R125): k[kd][l] for every lane of Part from %vstart on. -/
def State.compareLanes (s : State) (f : Word → Word → Bool × FpFlags) (kd : KReg) (va vb : VReg) (km : KReg) : Out :=
  s.withRegs [va, vb] (
    let w := s.me
    let m := w.unfinished (w.part km)
    let r (l : Lane) : Bool × FpFlags := f (w.rv va l) (w.rv vb l)
    s.done (((w.setKLanes kd m (fun l => (r l).1)).addFlags (laneFlags m (fun l => (r l).2))).clearStart))

/-! ## Indivisible forms (R116, R129) -/

/-- An indivisible instruction completes. -/
def State.indivisible (s : State) (w : Wave) : Out := s.done w.clearStart

/-- A cross-lane instruction is a lane barrier (R110): it waits for the stores of the wave that are late. -/
def State.laneBarrier (s : State) (body : Out) : Out := if s.me.late ≠ [] then s.hold else body

/-- Element j of a cross-lane source: 0 where it is not available (R129). -/
def Wave.available (w : Wave) (va : VReg) (j : Int) : Word :=
  if 0 ≤ j ∧ j < 64 ∧ w.act.getLsbD j.toNat then w.rv va (Fin.ofNat 64 j.toNat) else 0

/-- vd[l] ← f(l) for every lane of Part, all sources read first. -/
def State.crossLanes (s : State) (regs : List VReg) (vd : VReg) (km : KReg) (f : Wave → Lane → Word) : Out :=
  s.withRegs regs (s.laneBarrier (
    let w := s.me
    s.indivisible (w.setLanes vd (w.part km) (f w))))

end Sys2Proof.Machine
end

