-- ==== Sys2Proof/Machine/Vector.lean ====
section
/-! DEFINITION. Scalar F32 (MAJ 0x0C) and the element-wise vector instructions of MAJ 0x10 to 0x1B and of MAJ 0x1D (R97, R119 to R125,
R127). A chain bit changes no result (R32). -/

namespace Sys2Proof.Machine

/-! ## Scalar F32 (R97) -/

/-- A scalar F32 result: s[sd] and the flags. -/
def State.putF (s : State) (sd : SReg) (x : DWord) (f : FpFlags) : Out := s.done ((s.me.addFlags f).setS sd x)

/-- Two F32 operands, the result zero-extended. -/
def State.scalarF2 (s : State) (f : Word → Word → Fp) (sd sa sb : SReg) : Out :=
  let r := f (s.me.rsLow sa) (s.me.rsLow sb)
  s.putF sd (r.1.zeroExtend 64) r.2

def State.scalarF1 (s : State) (f : Word → Fp) (sd sa : SReg) : Out :=
  let r := f (s.me.rsLow sa)
  s.putF sd (r.1.zeroExtend 64) r.2

/-- A comparison: 1 or 0. -/
def State.scalarFC (s : State) (f : Word → Word → Bool × FpFlags) (sd sa sb : SReg) : Out :=
  let r := f (s.me.rsLow sa) (s.me.rsLow sb)
  s.putF sd (flag64 r.1) r.2

/-- a = b, a < b and a ≤ b of R97 and R125, and what a NaN makes of each. -/
def f32Eq : Word → Word → Bool × FpFlags := f32Compare (fun x y => x = y) false false
def f32Ne : Word → Word → Bool × FpFlags := f32Compare (fun x y => x ≠ y) true false
def f32Lt : Word → Word → Bool × FpFlags := f32Compare (fun x y => x < y) false true
def f32Le : Word → Word → Bool × FpFlags := f32Compare (fun x y => x ≤ y) false true
def f32Gt : Word → Word → Bool × FpFlags := f32Compare (fun x y => y < x) false true
def f32Ge : Word → Word → Bool × FpFlags := f32Compare (fun x y => y ≤ x) false true
def f32Un : Word → Word → Bool × FpFlags := f32Compare (fun _ _ => false) true false
def f32Ord : Word → Word → Bool × FpFlags := f32Compare (fun _ _ => true) false false

/-- `fadd` (R97). -/
def execFadd (sd sa sb : SReg) (s : State) : Out := s.scalarF2 f32Add sd sa sb

/-- `fsub` (R97). -/
def execFsub (sd sa sb : SReg) (s : State) : Out := s.scalarF2 f32Sub sd sa sb

/-- `fmul` (R97). -/
def execFmul (sd sa sb : SReg) (s : State) : Out := s.scalarF2 f32Mul sd sa sb

/-- `fdiv` (R97). -/
def execFdiv (sd sa sb : SReg) (s : State) : Out := s.scalarF2 f32Div sd sa sb

/-- `fmin` (R97). -/
def execFmin (sd sa sb : SReg) (s : State) : Out := s.scalarF2 f32Min sd sa sb

/-- `fmax` (R97). -/
def execFmax (sd sa sb : SReg) (s : State) : Out := s.scalarF2 f32Max sd sa sb

/-- `fsqrt` (R97). -/
def execFsqrt (sd sa : SReg) (s : State) : Out := s.scalarF1 f32Sqrt sd sa

/-- `flt` (R97). -/
def execFlt (sd sa sb : SReg) (s : State) : Out := s.scalarFC f32Lt sd sa sb

/-- `feq` (R97). -/
def execFeq (sd sa sb : SReg) (s : State) : Out := s.scalarFC f32Eq sd sa sb

/-- `fle` (R97). -/
def execFle (sd sa sb : SReg) (s : State) : Out := s.scalarFC f32Le sd sa sb

/-- `fcvt.f32.si` (R69). -/
def execFcvtF32Si (sd sa : SReg) (s : State) : Out := s.scalarF1 (fun a => f32OfInt a.toInt) sd sa

/-- `fcvt.si.f32`: Convert(SI, a), sign-extended (R68). -/
def execFcvtSiF32 (sd sa : SReg) (s : State) : Out :=
  let r := convertSi (s.me.control slotSi) (readF32 (s.me.rsLow sa))
  s.putF sd (r.1.signExtend 64) r.2

/-! ## Integer functions (R119, R120) -/

/-- Shift amounts use only b[4:0]. -/
def shift5 (b : Word) : Nat := b.toNat % 32

def laneAdd (a b : Word) : Word := a + b
def laneSub (a b : Word) : Word := a - b
def laneMul (a b : Word) : Word := a * b
def laneMulh (a b : Word) : Word := BitVec.ofInt 32 (a.toInt * b.toInt / 2 ^ 32)
def laneMulhu (a b : Word) : Word := BitVec.ofNat 32 (a.toNat * b.toNat / 2 ^ 32)
def laneMin (a b : Word) : Word := if a.slt b then a else b
def laneMax (a b : Word) : Word := if a.slt b then b else a
def laneMinu (a b : Word) : Word := if a.ult b then a else b
def laneMaxu (a b : Word) : Word := if a.ult b then b else a
def laneAnd (a b : Word) : Word := a &&& b
def laneOr (a b : Word) : Word := a ||| b
def laneXor (a b : Word) : Word := a ^^^ b
def laneAndn (a b : Word) : Word := a &&& ~~~b
def laneShl (a b : Word) : Word := a <<< shift5 b
def laneShr (a b : Word) : Word := a >>> shift5 b
def laneSar (a b : Word) : Word := a.sshiftRight (shift5 b)

/-- `vadd vd, va, vb`: a + b (R119). -/
def execVadd (vd va vb : VReg) (km : KReg) (_ca _cb : Bool) (s : State) : Out := s.vecVV laneAdd vd va vb km

/-- `vsub vd, va, vb`: a - b (R119). -/
def execVsub (vd va vb : VReg) (km : KReg) (_ca _cb : Bool) (s : State) : Out := s.vecVV laneSub vd va vb km

/-- `vmul vd, va, vb`: a * b (R119). -/
def execVmul (vd va vb : VReg) (km : KReg) (_ca _cb : Bool) (s : State) : Out := s.vecVV laneMul vd va vb km

/-- `vmulh vd, va, vb` (R119). -/
def execVmulh (vd va vb : VReg) (km : KReg) (_ca _cb : Bool) (s : State) : Out := s.vecVV laneMulh vd va vb km

/-- `vmulhu vd, va, vb` (R119). -/
def execVmulhu (vd va vb : VReg) (km : KReg) (_ca _cb : Bool) (s : State) : Out := s.vecVV laneMulhu vd va vb km

/-- `vmin vd, va, vb` (R119). -/
def execVmin (vd va vb : VReg) (km : KReg) (_ca _cb : Bool) (s : State) : Out := s.vecVV laneMin vd va vb km

/-- `vmax vd, va, vb` (R119). -/
def execVmax (vd va vb : VReg) (km : KReg) (_ca _cb : Bool) (s : State) : Out := s.vecVV laneMax vd va vb km

/-- `vminu vd, va, vb` (R119). -/
def execVminu (vd va vb : VReg) (km : KReg) (_ca _cb : Bool) (s : State) : Out := s.vecVV laneMinu vd va vb km

/-- `vmaxu vd, va, vb` (R119). -/
def execVmaxu (vd va vb : VReg) (km : KReg) (_ca _cb : Bool) (s : State) : Out := s.vecVV laneMaxu vd va vb km

/-- `vand vd, va, vb`: a &&& b (R119). -/
def execVand (vd va vb : VReg) (km : KReg) (_ca _cb : Bool) (s : State) : Out := s.vecVV laneAnd vd va vb km

/-- `vor vd, va, vb`: a ||| b (R119). -/
def execVor (vd va vb : VReg) (km : KReg) (_ca _cb : Bool) (s : State) : Out := s.vecVV laneOr vd va vb km

/-- `vxor vd, va, vb`: a ^^^ b (R119). -/
def execVxor (vd va vb : VReg) (km : KReg) (_ca _cb : Bool) (s : State) : Out := s.vecVV laneXor vd va vb km

/-- `vandn vd, va, vb`: a &&& ~~~b (R119). -/
def execVandn (vd va vb : VReg) (km : KReg) (_ca _cb : Bool) (s : State) : Out := s.vecVV laneAndn vd va vb km

/-- `vshl vd, va, vb` (R119). -/
def execVshl (vd va vb : VReg) (km : KReg) (_ca _cb : Bool) (s : State) : Out := s.vecVV laneShl vd va vb km

/-- `vshr vd, va, vb` (R119). -/
def execVshr (vd va vb : VReg) (km : KReg) (_ca _cb : Bool) (s : State) : Out := s.vecVV laneShr vd va vb km

/-- `vsar vd, va, vb` (R119). -/
def execVsar (vd va vb : VReg) (km : KReg) (_ca _cb : Bool) (s : State) : Out := s.vecVV laneSar vd va vb km

/-- `vadd vd, va, sb` (R119). -/
def execVaddVs (vd va : VReg) (sb : SReg) (km : KReg) (_ca : Bool) (s : State) : Out := s.vecVS laneAdd vd va sb km

/-- `vsub vd, va, sb` (R119). -/
def execVsubVs (vd va : VReg) (sb : SReg) (km : KReg) (_ca : Bool) (s : State) : Out := s.vecVS laneSub vd va sb km

/-- `vmul vd, va, sb` (R119). -/
def execVmulVs (vd va : VReg) (sb : SReg) (km : KReg) (_ca : Bool) (s : State) : Out := s.vecVS laneMul vd va sb km

/-- `vmulh vd, va, sb` (R119). -/
def execVmulhVs (vd va : VReg) (sb : SReg) (km : KReg) (_ca : Bool) (s : State) : Out := s.vecVS laneMulh vd va sb km

/-- `vmulhu vd, va, sb` (R119). -/
def execVmulhuVs (vd va : VReg) (sb : SReg) (km : KReg) (_ca : Bool) (s : State) : Out := s.vecVS laneMulhu vd va sb km

/-- `vmin vd, va, sb` (R119). -/
def execVminVs (vd va : VReg) (sb : SReg) (km : KReg) (_ca : Bool) (s : State) : Out := s.vecVS laneMin vd va sb km

/-- `vmax vd, va, sb` (R119). -/
def execVmaxVs (vd va : VReg) (sb : SReg) (km : KReg) (_ca : Bool) (s : State) : Out := s.vecVS laneMax vd va sb km

/-- `vminu vd, va, sb` (R119). -/
def execVminuVs (vd va : VReg) (sb : SReg) (km : KReg) (_ca : Bool) (s : State) : Out := s.vecVS laneMinu vd va sb km

/-- `vmaxu vd, va, sb` (R119). -/
def execVmaxuVs (vd va : VReg) (sb : SReg) (km : KReg) (_ca : Bool) (s : State) : Out := s.vecVS laneMaxu vd va sb km

/-- `vand vd, va, sb` (R119). -/
def execVandVs (vd va : VReg) (sb : SReg) (km : KReg) (_ca : Bool) (s : State) : Out := s.vecVS laneAnd vd va sb km

/-- `vor vd, va, sb` (R119). -/
def execVorVs (vd va : VReg) (sb : SReg) (km : KReg) (_ca : Bool) (s : State) : Out := s.vecVS laneOr vd va sb km

/-- `vxor vd, va, sb` (R119). -/
def execVxorVs (vd va : VReg) (sb : SReg) (km : KReg) (_ca : Bool) (s : State) : Out := s.vecVS laneXor vd va sb km

/-- `vandn vd, va, sb` (R119). -/
def execVandnVs (vd va : VReg) (sb : SReg) (km : KReg) (_ca : Bool) (s : State) : Out := s.vecVS laneAndn vd va sb km

/-- `vshl vd, va, sb` (R119). -/
def execVshlVs (vd va : VReg) (sb : SReg) (km : KReg) (_ca : Bool) (s : State) : Out := s.vecVS laneShl vd va sb km

/-- `vshr vd, va, sb` (R119). -/
def execVshrVs (vd va : VReg) (sb : SReg) (km : KReg) (_ca : Bool) (s : State) : Out := s.vecVS laneShr vd va sb km

/-- `vsar vd, va, sb` (R119). -/
def execVsarVs (vd va : VReg) (sb : SReg) (km : KReg) (_ca : Bool) (s : State) : Out := s.vecVS laneSar vd va sb km

/-- `vaddi` (R120). -/
def execVaddi (vd va : VReg) (imm : BitVec 9) (km : KReg) (_ca : Bool) (s : State) : Out := s.vecV (fun a => a + imm.signExtend 32) vd va km

/-- `vrsubi` (R120). -/
def execVrsubi (vd va : VReg) (imm : BitVec 9) (km : KReg) (_ca : Bool) (s : State) : Out := s.vecV (fun a => imm.signExtend 32 - a) vd va km

/-- `vshli` (R120). -/
def execVshli (vd va : VReg) (sh : Fin 32) (km : KReg) (_ca : Bool) (s : State) : Out := s.vecV (fun a => a <<< sh.val) vd va km

/-- `vshri` (R120). -/
def execVshri (vd va : VReg) (sh : Fin 32) (km : KReg) (_ca : Bool) (s : State) : Out := s.vecV (fun a => a >>> sh.val) vd va km

/-- `vsari` (R120). -/
def execVsari (vd va : VReg) (sh : Fin 32) (km : KReg) (_ca : Bool) (s : State) : Out := s.vecV (fun a => a.sshiftRight sh.val) vd va km

/-- `vandi` (R120). -/
def execVandi (vd va : VReg) (imm : BitVec 9) (km : KReg) (_ca : Bool) (s : State) : Out := s.vecV (fun a => a &&& imm.zeroExtend 32) vd va km

/-! ## F32 (R121, R122) -/

/-- `vfadd vd, va, vb` (R121). -/
def execVfadd (vd va vb : VReg) (km : KReg) (_ca _cb : Bool) (s : State) : Out := s.vecFVV f32Add vd va vb km

/-- `vfsub vd, va, vb` (R121). -/
def execVfsub (vd va vb : VReg) (km : KReg) (_ca _cb : Bool) (s : State) : Out := s.vecFVV f32Sub vd va vb km

/-- `vfmul vd, va, vb` (R121). -/
def execVfmul (vd va vb : VReg) (km : KReg) (_ca _cb : Bool) (s : State) : Out := s.vecFVV f32Mul vd va vb km

/-- `vfdiv vd, va, vb` (R121). -/
def execVfdiv (vd va vb : VReg) (km : KReg) (_ca _cb : Bool) (s : State) : Out := s.vecFVV f32Div vd va vb km

/-- `vfmin vd, va, vb` (R121). -/
def execVfmin (vd va vb : VReg) (km : KReg) (_ca _cb : Bool) (s : State) : Out := s.vecFVV f32Min vd va vb km

/-- `vfmax vd, va, vb` (R121). -/
def execVfmax (vd va vb : VReg) (km : KReg) (_ca _cb : Bool) (s : State) : Out := s.vecFVV f32Max vd va vb km

/-- `vfcopysign vd, va, vb` (R121). -/
def execVfcopysign (vd va vb : VReg) (km : KReg) (_ca _cb : Bool) (s : State) : Out := s.vecFVV (fun a b => f32Signed (fun _ => b.getLsbD 31) a) vd va vb km

/-- `vfsqrt vd, va` (R121). -/
def execVfsqrt (vd va : VReg) (km : KReg) (_ca : Bool) (s : State) : Out := s.vecFV f32Sqrt vd va km

/-- `vfabs vd, va` (R121). -/
def execVfabs (vd va : VReg) (km : KReg) (_ca : Bool) (s : State) : Out := s.vecFV (f32Signed (fun _ => false)) vd va km

/-- `vfneg vd, va` (R121). -/
def execVfneg (vd va : VReg) (km : KReg) (_ca : Bool) (s : State) : Out := s.vecFV (f32Signed (fun x => !x)) vd va km

/-- `vfrint vd, va` (R121). -/
def execVfrint (vd va : VReg) (km : KReg) (_ca : Bool) (s : State) : Out := s.vecFV (f32Integral .nearest) vd va km

/-- `vffloor vd, va` (R121). -/
def execVffloor (vd va : VReg) (km : KReg) (_ca : Bool) (s : State) : Out := s.vecFV (f32Integral .down) vd va km

/-- `vfceil vd, va` (R121). -/
def execVfceil (vd va : VReg) (km : KReg) (_ca : Bool) (s : State) : Out := s.vecFV (f32Integral .up) vd va km

/-- `vftrunc vd, va` (R121). -/
def execVftrunc (vd va : VReg) (km : KReg) (_ca : Bool) (s : State) : Out := s.vecFV (f32Integral .zero) vd va km

/-- `vffract vd, va` (R121). -/
def execVffract (vd va : VReg) (km : KReg) (_ca : Bool) (s : State) : Out := s.vecFV f32Fract vd va km

/-- `vfadd vd, va, sb` (R121). -/
def execVfaddVs (vd va : VReg) (sb : SReg) (km : KReg) (_ca : Bool) (s : State) : Out := s.vecFVS f32Add vd va sb km

/-- `vfsub vd, va, sb` (R121). -/
def execVfsubVs (vd va : VReg) (sb : SReg) (km : KReg) (_ca : Bool) (s : State) : Out := s.vecFVS f32Sub vd va sb km

/-- `vfmul vd, va, sb` (R121). -/
def execVfmulVs (vd va : VReg) (sb : SReg) (km : KReg) (_ca : Bool) (s : State) : Out := s.vecFVS f32Mul vd va sb km

/-- `vfmin vd, va, sb` (R121). -/
def execVfminVs (vd va : VReg) (sb : SReg) (km : KReg) (_ca : Bool) (s : State) : Out := s.vecFVS f32Min vd va sb km

/-- `vfmax vd, va, sb` (R121). -/
def execVfmaxVs (vd va : VReg) (sb : SReg) (km : KReg) (_ca : Bool) (s : State) : Out := s.vecFVS f32Max vd va sb km

/-- The three-bit km of VF selects k1 to k7 (R31). -/
def wideK (km : Fin 8) : KReg := Fin.ofNat 16 km.val

/-- `vfma` and `vfnma`: one rounding (R122). -/
def State.fused (s : State) (negate : Bool) (vd va vb vc : VReg) (km : Fin 8) : Out :=
  s.perLane [vd, va, vb, vc] vd (wideK km) (fun w l => f32Fma negate (w.rv va l) (w.rv vb l) (w.rv vc l))

/-- `vfma` (R122). -/
def execVfma (vd va vb vc : VReg) (km : Fin 8) (_ch : Bool) (s : State) : Out := s.fused false vd va vb vc km

/-- `vfnma` (R122). -/
def execVfnma (vd va vb vc : VReg) (km : Fin 8) (_ch : Bool) (s : State) : Out := s.fused true vd va vb vc km

/-! ## Conversions and packing (R123) -/

/-- `cvt.f32.si` (R123). -/
def execCvtF32Si (vd va : VReg) (km : KReg) (_ca : Bool) (s : State) : Out := s.vecFV (fun a => f32OfInt a.toInt) vd va km

/-- `cvt.f32.ui` (R123). -/
def execCvtF32Ui (vd va : VReg) (km : KReg) (_ca : Bool) (s : State) : Out := s.vecFV (fun a => f32OfInt (a.toNat : Int)) vd va km

/-- `up.bf16.lo` (R123). -/
def execUpBf16Lo (vd va : VReg) (km : KReg) (_ca : Bool) (s : State) : Out := s.vecFV (fun a => (widen fmtBf16 (fld a.toNat 0 16), flagNone)) vd va km

/-- `up.bf16.hi` (R123). -/
def execUpBf16Hi (vd va : VReg) (km : KReg) (_ca : Bool) (s : State) : Out := s.vecFV (fun a => (widen fmtBf16 (fld a.toNat 16 16), flagNone)) vd va km

/-- `up.f16.lo` (R123). -/
def execUpF16Lo (vd va : VReg) (km : KReg) (_ca : Bool) (s : State) : Out := s.vecFV (fun a => (widen fmtF16 (fld a.toNat 0 16), flagNone)) vd va km

/-- `up.f16.hi` (R123). -/
def execUpF16Hi (vd va : VReg) (km : KReg) (_ca : Bool) (s : State) : Out := s.vecFV (fun a => (widen fmtF16 (fld a.toNat 16 16), flagNone)) vd va km

/-- `cvt.si.f32` (R123). -/
def execCvtSiF32 (vd va : VReg) (km : KReg) (_ca : Bool) (s : State) : Out := s.vecFV (fun a => convertSi (s.me.control slotSi) (readF32 a)) vd va km

/-- `cvt.ui.f32` (R123). -/
def execCvtUiF32 (vd va : VReg) (km : KReg) (_ca : Bool) (s : State) : Out := s.vecFV (fun a => convertUi (s.me.control slotUi) (readF32 a)) vd va km

/-- Two halves packed, `b` above `a` (R123). -/
def pack16 (f : FloatFmt) (c : Control) (a b : Word) : Fp :=
  let x := convertFloat f c (readF32 a)
  let y := convertFloat f c (readF32 b)
  (BitVec.ofNat 32 (y.1 * 2 ^ 16 + x.1), x.2 ||| y.2)

/-- Two bytes packed below the low half of the old destination (R123). -/
def packBytes (d : Word) (x y : Nat × FpFlags) : Fp := ((d <<< 16) ||| BitVec.ofNat 32 (y.1 * 2 ^ 8 + x.1), x.2 ||| y.2)

/-- A packing that reads vd as a third source. -/
def State.packLanes (s : State) (f : Word → Nat × FpFlags) (vd va vb : VReg) (km : KReg) : Out :=
  s.perLane [vd, va, vb] vd km (fun w l => packBytes (w.rv vd l) (f (w.rv va l)) (f (w.rv vb l)))

/-- Byte b[1:0] of `a` (R123). -/
def byteOf (a b : Word) : Nat := fld a.toNat (8 * (b.toNat % 4)) 8

/-- `pk.bf16` (R123). -/
def execPkBf16 (vd va vb : VReg) (km : KReg) (_ca _cb : Bool) (s : State) : Out :=
  s.vecFVV (pack16 fmtBf16 (s.me.control slotBf16)) vd va vb km

/-- `pk.f16` (R123). -/
def execPkF16 (vd va vb : VReg) (km : KReg) (_ca _cb : Bool) (s : State) : Out :=
  s.vecFVV (pack16 fmtF16 (s.me.control slotF16)) vd va vb km

/-- `pk.f8a` (R123). -/
def execPkF8a (vd va vb : VReg) (km : KReg) (_ca _cb : Bool) (s : State) : Out :=
  s.packLanes (fun a => convertFloat fmtF8a (s.me.control slotF8a) (readF32 a)) vd va vb km

/-- `pk.f8b` (R123). -/
def execPkF8b (vd va vb : VReg) (km : KReg) (_ca _cb : Bool) (s : State) : Out :=
  s.packLanes (fun a => convertFloat fmtF8b (s.me.control slotF8b) (readF32 a)) vd va vb km

/-- `pk.i8` (R123). -/
def execPkI8 (vd va vb : VReg) (km : KReg) (_ca _cb : Bool) (s : State) : Out :=
  s.packLanes (convertI8 (s.me.control slotI8)) vd va vb km

/-- `up.f8a` (R123). -/
def execUpF8a (vd va vb : VReg) (km : KReg) (_ca _cb : Bool) (s : State) : Out :=
  s.vecVV (fun a b => widen fmtF8a (byteOf a b)) vd va vb km

/-- `up.f8b` (R123). -/
def execUpF8b (vd va vb : VReg) (km : KReg) (_ca _cb : Bool) (s : State) : Out :=
  s.vecVV (fun a b => widen fmtF8b (byteOf a b)) vd va vb km

/-- `up.i8` (R123). -/
def execUpI8 (vd va vb : VReg) (km : KReg) (_ca _cb : Bool) (s : State) : Out :=
  s.vecVV (fun a b => (BitVec.ofNat 8 (byteOf a b)).signExtend 32) vd va vb km

/-! ## Special functions (R124) -/

/-- `vsin` (R124). -/
def execVsin (vd va : VReg) (km : KReg) (_ca : Bool) (s : State) : Out := s.vecFV (f32Special .sin) vd va km

/-- `vcos` (R124). -/
def execVcos (vd va : VReg) (km : KReg) (_ca : Bool) (s : State) : Out := s.vecFV (f32Special .cos) vd va km

/-- `vsinpi` (R124). -/
def execVsinpi (vd va : VReg) (km : KReg) (_ca : Bool) (s : State) : Out := s.vecFV (f32Special .sinpi) vd va km

/-- `vcospi` (R124). -/
def execVcospi (vd va : VReg) (km : KReg) (_ca : Bool) (s : State) : Out := s.vecFV (f32Special .cospi) vd va km

/-- `vexp2` (R124). -/
def execVexp2 (vd va : VReg) (km : KReg) (_ca : Bool) (s : State) : Out := s.vecFV (f32Special .exp2) vd va km

/-- `vlog2` (R124). -/
def execVlog2 (vd va : VReg) (km : KReg) (_ca : Bool) (s : State) : Out := s.vecFV (f32Special .log2) vd va km

/-- `vrcp` (R124). -/
def execVrcp (vd va : VReg) (km : KReg) (_ca : Bool) (s : State) : Out := s.vecFV (f32Special .rcp) vd va km

/-- `vrsqrt` (R124). -/
def execVrsqrt (vd va : VReg) (km : KReg) (_ca : Bool) (s : State) : Out := s.vecFV (f32Special .rsqrt) vd va km

/-- `vtanh` (R124). -/
def execVtanh (vd va : VReg) (km : KReg) (_ca : Bool) (s : State) : Out := s.vecFV (f32Special .tanh) vd va km

/-- `vsigm` (R124). -/
def execVsigm (vd va : VReg) (km : KReg) (_ca : Bool) (s : State) : Out := s.vecFV (f32Special .sigm) vd va km

/-! ## Compares (R125) -/

/-- `vcmp.eq` (R125). -/
def execVcmpEq (kd : KReg) (va vb : VReg) (km : KReg) (_ca _cb : Bool) (s : State) : Out :=
  s.compareLanes (fun a b => (a = b, flagNone)) kd va vb km

/-- `vcmp.ne` (R125). -/
def execVcmpNe (kd : KReg) (va vb : VReg) (km : KReg) (_ca _cb : Bool) (s : State) : Out :=
  s.compareLanes (fun a b => (a ≠ b, flagNone)) kd va vb km

/-- `vcmp.lt` (R125). -/
def execVcmpLt (kd : KReg) (va vb : VReg) (km : KReg) (_ca _cb : Bool) (s : State) : Out :=
  s.compareLanes (fun a b => (a.slt b, flagNone)) kd va vb km

/-- `vcmp.ge` (R125). -/
def execVcmpGe (kd : KReg) (va vb : VReg) (km : KReg) (_ca _cb : Bool) (s : State) : Out :=
  s.compareLanes (fun a b => (!a.slt b, flagNone)) kd va vb km

/-- `vcmp.ltu` (R125). -/
def execVcmpLtu (kd : KReg) (va vb : VReg) (km : KReg) (_ca _cb : Bool) (s : State) : Out :=
  s.compareLanes (fun a b => (a.ult b, flagNone)) kd va vb km

/-- `vcmp.geu` (R125). -/
def execVcmpGeu (kd : KReg) (va vb : VReg) (km : KReg) (_ca _cb : Bool) (s : State) : Out :=
  s.compareLanes (fun a b => (!a.ult b, flagNone)) kd va vb km

/-- `vfcmp.eq` (R125). -/
def execVfcmpEq (kd : KReg) (va vb : VReg) (km : KReg) (_ca _cb : Bool) (s : State) : Out := s.compareLanes f32Eq kd va vb km

/-- `vfcmp.ne` (R125). -/
def execVfcmpNe (kd : KReg) (va vb : VReg) (km : KReg) (_ca _cb : Bool) (s : State) : Out := s.compareLanes f32Ne kd va vb km

/-- `vfcmp.lt` (R125). -/
def execVfcmpLt (kd : KReg) (va vb : VReg) (km : KReg) (_ca _cb : Bool) (s : State) : Out := s.compareLanes f32Lt kd va vb km

/-- `vfcmp.le` (R125). -/
def execVfcmpLe (kd : KReg) (va vb : VReg) (km : KReg) (_ca _cb : Bool) (s : State) : Out := s.compareLanes f32Le kd va vb km

/-- `vfcmp.gt` (R125). -/
def execVfcmpGt (kd : KReg) (va vb : VReg) (km : KReg) (_ca _cb : Bool) (s : State) : Out := s.compareLanes f32Gt kd va vb km

/-- `vfcmp.ge` (R125). -/
def execVfcmpGe (kd : KReg) (va vb : VReg) (km : KReg) (_ca _cb : Bool) (s : State) : Out := s.compareLanes f32Ge kd va vb km

/-- `vfcmp.un` (R125). -/
def execVfcmpUn (kd : KReg) (va vb : VReg) (km : KReg) (_ca _cb : Bool) (s : State) : Out := s.compareLanes f32Un kd va vb km

/-- `vfcmp.ord` (R125). -/
def execVfcmpOrd (kd : KReg) (va vb : VReg) (km : KReg) (_ca _cb : Bool) (s : State) : Out := s.compareLanes f32Ord kd va vb km

/-! ## Select and move (R127) -/

/-- `vsel`: km is the selector (R127). -/
def execVsel (vd va vb : VReg) (km : KReg) (_ca _cb : Bool) (s : State) : Out :=
  s.perLane [vd, va, vb] vd 0 (fun w l => (if (w.rk km).getLsbD l.val then w.rv va l else w.rv vb l, flagNone))

/-- `vmov` (R127). -/
def execVmov (vd va : VReg) (km : KReg) (_ca : Bool) (s : State) : Out := s.vecV (fun a => a) vd va km

/-- `viota` (R127). -/
def execViota (vd : VReg) (km : KReg) (s : State) : Out :=
  s.perLane [vd] vd km (fun _ l => (BitVec.ofNat 32 l.val, flagNone))

/-- `vbcast` (R128). -/
def execVbcast (vd : VReg) (sb : SReg) (km : KReg) (s : State) : Out := s.perLane [vd] vd km (fun w _ => (w.rsLow sb, flagNone))

end Sys2Proof.Machine
end

