-- ==== Sys2Proof/Machine/Lanes.lean ====
section
/-! DEFINITION. Predicates and scalar transfers (R126, R128), cross-lane instructions (R129 to R135), per-lane transfers (R136, R137),
and vector loads, stores and atomics (R138 to R140, R182 to R187). -/

namespace Sys2Proof.Machine

/-! ## Predicates (R126) -/

/-- kd[l] ← f(l) for every lane of Act; the other bits are unchanged. -/
def State.predicate (s : State) (kd : KReg) (f : Wave → BitVec 64) : Out :=
  let w := s.me
  s.indivisible (w.setK kd ((w.rk kd &&& ~~~w.act) ||| (f w &&& w.act)))

/-- `kand` (R126). -/
def execKand (kd ka kb : KReg) (s : State) : Out := s.predicate kd (fun w => w.rk ka &&& w.rk kb)

/-- `kor` (R126). -/
def execKor (kd ka kb : KReg) (s : State) : Out := s.predicate kd (fun w => w.rk ka ||| w.rk kb)

/-- `kxor` (R126). -/
def execKxor (kd ka kb : KReg) (s : State) : Out := s.predicate kd (fun w => w.rk ka ^^^ w.rk kb)

/-- `kandn` (R126). -/
def execKandn (kd ka kb : KReg) (s : State) : Out := s.predicate kd (fun w => w.rk ka &&& ~~~w.rk kb)

/-- `knot` (R126). -/
def execKnot (kd ka : KReg) (s : State) : Out := s.predicate kd (fun w => ~~~w.rk ka)

/-- `kmov` (R126). -/
def execKmov (kd ka : KReg) (s : State) : Out := s.predicate kd (fun w => w.rk ka)

/-- `kall`: all 64 bits (R126). -/
def execKall (kd : KReg) (s : State) : Out := s.indivisible (s.me.setK kd s.me.act)

/-- `knone`: all 64 bits (R126). -/
def execKnone (kd : KReg) (s : State) : Out := s.indivisible (s.me.setK kd 0)

/-! ## Scalars from lanes (R128) -/

/-- `vextr` (R128). -/
def execVextr (sd : Fin 32) (va : VReg) (sb : SReg) (_ca : Bool) (s : State) : Out :=
  s.withRegs [va] (
    let w := s.me
    s.indivisible (w.setS (lowS sd) ((w.available va (w.rs sb).toNat).zeroExtend 64)))

/-- `kcnt` (R128). -/
def execKcnt (sd : Fin 32) (ka : KReg) (s : State) : Out :=
  let w := s.me
  s.indivisible (w.setS (lowS sd) (BitVec.ofNat 64 (lanesOf (w.rk ka &&& w.act)).length))

/-- `kfst` (R128). -/
def execKfst (sd : Fin 32) (ka : KReg) (s : State) : Out :=
  let w := s.me
  s.indivisible (w.setS (lowS sd) (match (lanesOf (w.rk ka &&& w.act)).head? with
    | some l => BitVec.ofNat 64 l.val
    | none => allOnes64))

/-! ## Cross-lane moves (R130, R131, R135) -/

/-- `vperm` (R130). -/
def execVperm (vd va vb : VReg) (km : KReg) (_ca _cb : Bool) (s : State) : Out :=
  s.crossLanes [vd, va, vb] vd km (fun w l => w.available va (w.rv vb l).toNat)

/-- Move va[source] to vd[destination] for pairs of lanes; the other lanes are unchanged. -/
def State.moveElements (s : State) (vd va : VReg) (pairs : Wave → List (Lane × Lane)) : Out :=
  s.withRegs [vd, va] (s.laneBarrier (
    let w := s.me
    let ps := pairs w
    let m := ps.foldl (fun m p => m ||| bit64 p.1.val) (0 : BitVec 64)
    s.indivisible (w.setLanes vd m (fun l => match ps.find? (fun p => p.1 = l) with
      | some p => w.rv va p.2
      | none => 0))))

/-- `vcompress` (R131). -/
def execVcompress (vd va : VReg) (km : KReg) (_ca : Bool) (s : State) : Out :=
  s.moveElements vd va (fun w => (lanesOf w.act).zip (lanesOf (w.act &&& w.rk km)))

/-- `vexpand` (R131). -/
def execVexpand (vd va : VReg) (km : KReg) (_ca : Bool) (s : State) : Out :=
  s.moveElements vd va (fun w => (lanesOf (w.act &&& w.rk km)).zip (lanesOf w.act))

/-- Src of R135; none outside 0 to 63. -/
def swizzle (md : Swz) (i t : Nat) : Int :=
  match md with
  | .xor => (i ^^^ t : Nat)
  | .up => (i : Int) - t
  | .down => (i : Int) + t
  | .bcast => t

/-- `vswz` (R135). -/
def execVswz (vd va : VReg) (md : Swz) (amt : BitVec 7) (km : KReg) (_ca : Bool) (s : State) : Out :=
  s.crossLanes [vd, va] vd km (fun w l => w.available va (swizzle md l.val amt.toNat))

/-- `vswzg`: within each element group of 16 (R135). -/
def execVswzg (vd va : VReg) (md : Swz) (amt : BitVec 7) (km : KReg) (_ca : Bool) (s : State) : Out :=
  s.crossLanes [vd, va] vd km (fun w l =>
    let i := swizzle md (l.val % 16) amt.toNat
    if 0 ≤ i ∧ i ≤ 15 then w.available va (l.val - l.val % 16 + i) else 0)

/-! ## Reductions and scans (R132 to R134) -/

/-- An integer reduction over Part. -/
def State.reduceI (s : State) (f : Word → Word → Word) (empty : DWord) (ext : Word → DWord) (sd : Fin 32) (va : VReg)
    (km : KReg) : Out :=
  s.withRegs [va] (s.laneBarrier (
    let w := s.me
    s.indivisible (w.setS (lowS sd) (match (lanesOf (w.part km)).map (w.rv va) with
      | [] => empty
      | x :: xs => ext (xs.foldl f x)))))

/-- One level of the tree of R133. -/
def treeLevel (f : Word → Word → Fp) : List (Option Word) → List (Option Word) × FpFlags
  | x :: y :: t =>
    let r := treeLevel f t
    match x, y with
    | some a, some b => (some (f a b).1 :: r.1, (f a b).2 ||| r.2)
    | some a, none => (some a :: r.1, r.2)
    | none, b => (b :: r.1, r.2)
  | t => (t, flagNone)

/-- `n` levels of the tree. -/
def treeReduce (f : Word → Word → Fp) : Nat → List (Option Word) → List (Option Word) × FpFlags
  | 0, t => (t, flagNone)
  | n + 1, t =>
    let a := treeLevel f t
    let b := treeReduce f n a.1
    (b.1, a.2 ||| b.2)

/-- A NaN result is the default NaN (R118). -/
def quietNan (x : Word) : Word := if f32IsNan x then f32Nan else x

/-- An F32 reduction along the fixed tree over positions 0 to 63 (R133). -/
def State.reduceF (s : State) (f : Word → Word → Fp) (empty : Word) (sd : Fin 32) (va : VReg) (km : KReg) : Out :=
  s.withRegs [va] (s.laneBarrier (
    let w := s.me
    let m := w.part km
    let r := treeReduce f 6 ((List.finRange 64).map (fun l => if m.getLsbD l.val then some (w.rv va l) else none))
    let x := match r.1 with
      | some x :: _ => quietNan x
      | _ => empty
    s.indivisible ((w.addFlags r.2).setS (lowS sd) (x.zeroExtend 64))))

/-- `vradd.i` (R132). -/
def execVraddI (sd : Fin 32) (va : VReg) (km : KReg) (_ca : Bool) (s : State) : Out :=
  s.reduceI laneAdd 0 (·.signExtend 64) sd va km

/-- `vrmax.i` (R132). -/
def execVrmaxI (sd : Fin 32) (va : VReg) (km : KReg) (_ca : Bool) (s : State) : Out :=
  s.reduceI laneMax 0xFFFFFFFF80000000 (·.signExtend 64) sd va km

/-- `vrmin.i` (R132). -/
def execVrminI (sd : Fin 32) (va : VReg) (km : KReg) (_ca : Bool) (s : State) : Out :=
  s.reduceI laneMin 0x7FFFFFFF (·.signExtend 64) sd va km

/-- `vradd.f` (R132). -/
def execVraddF (sd : Fin 32) (va : VReg) (km : KReg) (_ca : Bool) (s : State) : Out := s.reduceF f32Add 0 sd va km

/-- `vrmax.f` (R132). -/
def execVrmaxF (sd : Fin 32) (va : VReg) (km : KReg) (_ca : Bool) (s : State) : Out := s.reduceF f32Max 0xFF800000 sd va km

/-- `vrmin.f` (R132). -/
def execVrminF (sd : Fin 32) (va : VReg) (km : KReg) (_ca : Bool) (s : State) : Out := s.reduceF f32Min 0x7F800000 sd va km

/-- `vrand` (R132). -/
def execVrand (sd : Fin 32) (va : VReg) (km : KReg) (_ca : Bool) (s : State) : Out :=
  s.reduceI laneAnd 0xFFFFFFFF (·.zeroExtend 64) sd va km

/-- `vror` (R132). -/
def execVror (sd : Fin 32) (va : VReg) (km : KReg) (_ca : Bool) (s : State) : Out :=
  s.reduceI laneOr 0 (·.zeroExtend 64) sd va km

/-- The running values of a scan with the lanes they belong to, and the flags (R134). -/
def scanFrom (f : Word → Word → Fp) (acc : Word) : List (Lane × Word) → List (Lane × Word) × FpFlags
  | [] => ([], flagNone)
  | (l, x) :: t =>
    let y := f acc x
    let r := scanFrom f y.1 t
    ((l, y.1) :: r.1, y.2 ||| r.2)

/-- A scan over Part: the first element is copied, as `first` leaves it. -/
def State.scan (s : State) (f : Word → Word → Fp) (first : Word → Word) (vd va : VReg) (km : KReg) : Out :=
  s.withRegs [vd, va] (s.laneBarrier (
    let w := s.me
    let m := w.part km
    let r := match (lanesOf m).map (fun l => (l, w.rv va l)) with
      | [] => ([], flagNone)
      | (l, x) :: t =>
        let r := scanFrom f (first x) t
        ((l, first x) :: r.1, r.2)
    s.indivisible ((w.setLanes vd m (fun l => match r.1.find? (fun p => p.1 = l) with
      | some p => p.2
      | none => 0)).addFlags r.2)))

/-- `vscan.add.i` (R134). -/
def execVscanAddI (vd va : VReg) (km : KReg) (_ca : Bool) (s : State) : Out :=
  s.scan (fun a b => (a + b, flagNone)) (fun a => a) vd va km

/-- `vscan.add.f` (R134). -/
def execVscanAddF (vd va : VReg) (km : KReg) (_ca : Bool) (s : State) : Out := s.scan f32Add quietNan vd va km

/-- `vscan.max.f` (R134). -/
def execVscanMaxF (vd va : VReg) (km : KReg) (_ca : Bool) (s : State) : Out := s.scan f32Max quietNan vd va km

/-! ## Per-lane transfers (R136, R137) -/

/-- The lanes that `vbr` and `vcall` select (R136). -/
def Wave.selected (w : Wave) (km : KReg) (ng : Bool) : BitVec 64 :=
  if km = 0 then (if ng then 0 else w.act) else w.act &&& (if ng then ~~~w.rk km else w.rk km)

/-- The lanes `m` of the run go to target `t`; the rest of the run goes on at the next word (R101). With no lane selected the run goes
on; with every lane selected it moves as a whole. -/
def Wave.send (w : Wave) (m : BitVec 64) (t : DWord) : Wave :=
  if m = 0 then w.past 1
  else if w.run.mask &&& ~~~m = 0 then w.to t
  else
    let w1 := w.past 1
    { w1 with
      run := { w1.run with mask := w.run.mask &&& ~~~m }
      rest := insertEntry (freshEntry t w.run.kind m) w.rest }

/-- `vbr` (R136). -/
def execVbr (km : KReg) (ng : Bool) (off : BitVec 18) (s : State) : Out :=
  let w := s.me.clearStart
  .next (s.setMe (w.send (w.selected km ng) (w.target off)))

/-- `vcall`: v31 takes the low half of the address of the next word, for the selected lanes (R136). -/
def execVcall (km : KReg) (ng : Bool) (off : BitVec 18) (s : State) : Out :=
  s.withRegs [31] (
    let w := s.me.clearStart
    let m := w.selected km ng
    .next (s.setMe ((w.setLanes 31 m (fun _ => w.link.truncate 32)).send m (w.target off))))

/-- t_l of R137. -/
def Wave.laneTarget (w : Wave) (va : VReg) (l : Lane) : DWord :=
  (w.run.pc >>> 32 <<< 32) ||| (w.rv va l).zeroExtend 64

/-- The run splits by target: each lane of Act to its own; lanes outside Act go on at the next word, and so does a run with no lane in Act (log
entry 106). -/
def Wave.scatter (w : Wave) (target : Lane → DWord) : Wave :=
  let stay := w.run.mask &&& ~~~w.act
  if w.act = 0 then w.past 1
  else
    let es := (lanesOf w.act).foldl (fun es l => insertEntry (freshEntry (target l) w.run.kind (bit64 l.val)) es) w.rest
    if stay ≠ 0 then
      let w1 := w.past 1
      { w1 with run := { w1.run with mask := stay }, rest := es }
    else match es with
      | [] => w
      | e :: t => { w with run := e, rest := t }

/-- The transfers of R137: MISALIGNED with the lowest bad target, or `link` written and the run split. -/
def State.jumpLanes (s : State) (va : VReg) (link : Wave → Wave) : Out :=
  let w := s.me
  match (lanesOf w.act).find? (fun l => (w.laneTarget va l).toNat % 4 ≠ 0) with
  | some l => s.trap causeMisaligned (w.laneTarget va l)
  | none => .next (s.setMe ((link w.clearStart).scatter (w.laneTarget va)))

/-- `vjr` (R137). -/
def execVjr (va : VReg) (s : State) : Out := s.withRegs [va] (s.jumpLanes va (fun w => w))

/-- `vcallr`: the targets are read before vd is written (R137). -/
def execVcallr (vd va : VReg) (s : State) : Out :=
  s.withRegs [vd, va] (s.jumpLanes va (fun w => w.setLanes vd w.act (fun _ => w.link.truncate 32)))

/-! ## Lanes that are switched off (R101, R167, R290) -/

/-- A lane in a walk finishes with STOPPED and returns to no word (R290). -/
def State.endWalk (s : State) (l : Lane) : State :=
  match s.me.walkOf l.val with
  | some x =>
    if x.phase = .idle then s
    else
      let s1 := s.closeObj s.me x 3 0
      s1.setMe (((s1.me.setV x.vd l 1).setWalk l.val { x with phase := .idle, stall := none }).freeWalkLock x.lock)
  | none => s

/-- Lane `l` of the run is switched off: it leaves the PC table and its %lfm bit is set (R167). -/
def State.switchOff (s : State) (l : Lane) : State :=
  let s1 := if s.me.run.kind = .walk then s.endWalk l else s
  let w := s1.me
  s1.setMe { w with
    sr := { w.sr with lfm := w.sr.lfm ||| bit64 l.val }
    run := { w.run with mask := w.run.mask &&& ~~~bit64 l.val } }

/-- The end of an element-wise access: %vstart ← 0 and the next word, or, where its last lane was switched off, the run leaves the
table (R101); what it has stored late is performed then, since the wave may end with it. Where it would end while tile commands of it are in
flight, the word waits for them, in the state `s0` before it, as `exit` does (R94; log entry 73). -/
def State.accessDone (s0 s : State) (before : BitVec 64) : Out :=
  let w := s.me.clearStart
  if before ≠ 0 ∧ w.run.mask = 0 then
    if w.rest = [] ∧ w.tilesPending then s0.hold
    else
      let t := (s.setMe w).performLate s.cur w.late.length
      .next (t.leaveTable t.me).settle
  else s.done w

/-! ## Vector loads and stores (R138 to R140) -/

/-- The offset of a lane (R138). -/
def Wave.laneOffset (w : Wave) (sa : SReg) (sp : Space) (md : VMode) (n : Nat) (l : Lane) : Nat :=
  let o := w.rs sa
  (match md with
    | .unit => if sp = Space.l then o else o + BitVec.ofNat 64 (l.val * n)
    | .strided i => o + BitVec.ofNat 64 l.val * w.sr.st[i]
    | .indexed vb => o + (w.rv vb l).zeroExtend 64
    | .scaled vb => o + (w.rv vb l).zeroExtend 64 * BitVec.ofNat 64 n).toNat

/-- The vector registers that an addressing names. -/
def vmodeRegs : VMode → List VReg
  | .indexed vb => [vb]
  | .scaled vb => [vb]
  | _ => []

/-- The range of a vector access: from the lowest to the highest byte that its lanes touch (R225); none where they touch none. -/
def State.vectorRange (s : State) (w : Wave) (sp : Space) (n : Nat) (os : List Nat) : Option Range :=
  match os.filter (fun o => w.inRange sp o n) with
  | [] => none
  | o :: rest =>
    let lo := rest.foldl min o
    some (s.rangeOf w sp lo (rest.foldl max o + n - lo))

/-- A vector access waits, before its first element, for the pending ranges that its own range meets (R225). -/
def State.vectorLock (s : State) (k : AccKind) (sp : Space) (n : Nat) (os : List Nat) (body : Out) : Out :=
  let w := s.me
  let x : Access Unit := match s.vectorRange w sp n os with
    | none => .ok ()
    | some r => if k = .load then w.lockLoad r else w.lockStore r
  match x with
  | .ok () => body
  | x => s.failed w k s.hold x

/-- An access at element `l` that could not be made: a trap or a request leaves %vstart at `l`; a wait leaves everything as it was before
the word, which `s0` is. -/
def State.elementFailed {α : Type} (s0 s : State) (k : AccKind) (l : Lane) : Access α → Out
  | .hold => s0.hold
  | .walk o => s0.failed s0.me k s0.hold (.walk o : Access Unit)
  | x => s.failed (s.me.setStart (BitVec.ofNat 16 l.val)) k s0.hold x

/-- An element out of range, or misaligned (R139): what becomes of it, or the access `body`. -/
def State.element (s : State) (sp : Space) (n o : Nat) (l : Lane) (off : Out) (body : Out) : Out :=
  if o % n ≠ 0 then s.trapElem s.me l.val causeMisaligned (spaceInfo sp o)
  else if ¬ s.me.inRange sp o n then
    (if sp = .q ∨ sp = .l then off else s.trapElem s.me l.val causeSegment (spaceInfo sp o))
  else body

/-- Load the elements of the lanes in order. -/
def State.loadLanes (s0 : State) (sp : Space) (n : Nat) (vd : VReg) (off : Lane → Nat) (before : BitVec 64) :
    List Lane → State → Out
  | [], s => s0.accessDone s before
  | l :: ls, s =>
    s.element sp n (off l) l (loadLanes s0 sp n vd off before ls (s.switchOff l)) (
      match s.loadAt s.me sp (bit64 l.val) l.val (off l) n with
      | .ok (s1, bs) =>
        loadLanes s0 sp n vd off before ls ((s1.setMe (s1.me.setV vd l (BitVec.ofNat 32 (leNat bs)))).noteLoad s.me sp l vd (off l) n)
      | x => s0.elementFailed s .load l x)

/-- `vld` of elements of `n` bytes. -/
def State.vload (s : State) (n : Nat) (vd : VReg) (sa : SReg) (sp : Space) (km : KReg) (md : VMode) : Out :=
  s.withRegs (vd :: vmodeRegs md) (
    let w := s.me
    let ls := lanesOf (w.unfinished (w.part km))
    s.vectorLock .load sp n (ls.map (w.laneOffset sa sp md n)) (
      s.loadLanes sp n vd (w.laneOffset sa sp md n) w.run.mask ls s))

/-- Store the elements of the lanes in order. -/
def State.storeLanes (s0 : State) (sp : Space) (n : Nat) (vd : VReg) (off : Lane → Nat) (before : BitVec 64) :
    List Lane → State → Out
  | [], s => s0.accessDone s before
  | l :: ls, s =>
    s.element sp n (off l) l (storeLanes s0 sp n vd off before ls (s.switchOff l)) (
      match s.storeAt s.me sp (bit64 l.val) l.val (off l) (bytesOfNat n (s.me.rv vd l).toNat) with
      | .ok s1 => storeLanes s0 sp n vd off before ls (s1.mark s1.me sp (off l + n))
      | x => s0.elementFailed s .store l x)

/-- `vst` of elements of `n` bytes. -/
def State.vstore (s : State) (n : Nat) (vd : VReg) (sa : SReg) (sp : Space) (km : KReg) (md : VMode) : Out :=
  s.withRegs (vd :: vmodeRegs md) (
    let w := s.me
    let ls := lanesOf (w.unfinished (w.part km))
    s.vectorLock .store sp n (ls.map (w.laneOffset sa sp md n)) (
      s.storeLanes sp n vd (w.laneOffset sa sp md n) w.run.mask ls s))

/-- `vld.w` (R138). -/
def execVldW (vd : VReg) (sa : SReg) (sp : Space) (km : KReg) (md : VMode) (s : State) : Out := s.vload 4 vd sa sp km md

/-- `vld.h` (R138). -/
def execVldH (vd : VReg) (sa : SReg) (sp : Space) (km : KReg) (md : VMode) (s : State) : Out := s.vload 2 vd sa sp km md

/-- `vld.b` (R138). -/
def execVldB (vd : VReg) (sa : SReg) (sp : Space) (km : KReg) (md : VMode) (s : State) : Out := s.vload 1 vd sa sp km md

/-- `vst.w` (R138). -/
def execVstW (vd : VReg) (sa : SReg) (sp : Space) (km : KReg) (md : VMode) (s : State) : Out := s.vstore 4 vd sa sp km md

/-- `vst.h` (R138). -/
def execVstH (vd : VReg) (sa : SReg) (sp : Space) (km : KReg) (md : VMode) (s : State) : Out := s.vstore 2 vd sa sp km md

/-- `vst.b` (R138). -/
def execVstB (vd : VReg) (sa : SReg) (sp : Space) (km : KReg) (md : VMode) (s : State) : Out := s.vstore 1 vd sa sp km md

/-! ## Atomics (R182 to R187) -/

/-- Op of R183: the new value, or none for "unchanged"; with the flags of `fadd`. -/
def atomNew (op : AtomOp) (old b c : Word) : Option Word × FpFlags :=
  match op with
  | .add => (some (old + b), flagNone)
  | .min => (some (laneMin old b), flagNone)
  | .max => (some (laneMax old b), flagNone)
  | .minu => (some (laneMinu old b), flagNone)
  | .maxu => (some (laneMaxu old b), flagNone)
  | .and => (some (old &&& b), flagNone)
  | .or => (some (old ||| b), flagNone)
  | .xor => (some (old ^^^ b), flagNone)
  | .xchg => (some b, flagNone)
  | .cas => (if old = c then some b else none, flagNone)
  | .fadd => (some (f32Add old b).1, (f32Add old b).2)
  | .fmax => (some (f32Max old b).1, flagNone)
  | .binc => (if old.ult b then some (old + 1) else none, flagNone)

/-- `vatom` removes the lines it touches from the issuing core's L1 (R173). -/
def State.dropTouched (s : State) (c : CoreId) (ps : List Piece) : State :=
  ps.foldl (fun s p => match p.1.storeKey c.die with
    | some k => s.dropLines c k p.2
    | none => s) s

/-- A lane whose word is poisoned (R186): vd[l] ← 0, its %pmask bit, and a record. -/
def State.atomPoison (s : State) (p : Place) (vd : VReg) (l : Lane) : State :=
  let w := s.me
  let loc := p.unit w.id.place.die
  let s1 := s.setMe { w.setV vd l 0 with sr := { w.sr with pmask := w.sr.pmask ||| bit64 l.val } }
  s1.report loc.die
    { (Record.blank 0x0060 2 loc).ofWave w with addr := BitVec.ofNat 64 p.addr, data0 := BitVec.ofNat 64 l.val }

/-- The word at the bank that orders it, never in an L1 (R181, R185): on a REPL page as the commits before leave it. -/
def State.atomOld (s : State) (ps : List Piece) : Word :=
  BitVec.ofNat 32 (leNat (ps.flatMap (fun p => s.homeBytes p (s.rawBytes p.1 p.2))))

/-- Store bytes at the pieces at once, below every L1. -/
def State.deviceStores (s : State) (n : Option Nat) (note : Record) : List Piece → List Byte → State
  | [], _ => s
  | (p, k) :: ps, bs => (s.deviceStore n note p (bs.take k) false).deviceStores n note ps (bs.drop k)

/-- The atomic at a word that the lane has reached. A word is two pieces where it crosses a page. -/
def State.atomWord (s : State) (op : AtomOp) (ps : List Piece) (vd vb : VReg) (l : Lane) : State :=
  let w := s.me
  let old := s.atomOld ps
  let r := atomNew op old (w.rv vb l) (w.rv vd l)
  let s1 := match r.1 with
    | some x => s.deviceStores (some s.cur) (w.storeNote l.val) ps (bytesOfNat 4 x.toNat)
    | none => s
  s1.setMe ((s1.me.setV vd l old).addFlags r.2)

/-- Whether the lane's atomic writes its word. -/
def State.atomWrites (s : State) (op : AtomOp) (ps : List Piece) (vd vb : VReg) (l : Lane) : Bool :=
  (atomNew op (s.atomOld ps) (s.me.rv vb l) (s.me.rv vd l)).1.isSome

def State.markIf (s : State) (c : Bool) (w : Wave) (sp : Space) (top : Nat) : State := if c then s.mark w sp top else s

/-- One lane: interlock, page checks, poison, the operation. It takes its place behind the commits `before`, those that the home had taken
before the word, once they are made: what it sees, every replica then has (R191, R203). -/
def State.atomLane (s : State) (before : List ReplCommit) (sp : Space) (op : AtomOp) (vd vb : VReg) (l : Lane) (o : Nat) : Access State :=
  let w := s.me
  (w.lockStore (s.rangeOf w sp o 4)).andThen fun _ =>
  (s.pieces w sp l.val o 4 .atomic).andThen fun r =>
  if r.2.any (fun p => before.any (fun c => c.meets p)) then .hold else
  let a : Agent := { w.agent with core := none }
  let s1 := r.1.dropTouched w.id.place r.2
  match r.2.find? (r.1.piecePoisoned a) with
  | some p => .ok (s1.atomPoison p.1 vd l)
  | none => .ok ((s1.atomWord op r.2 vd vb l).markIf (s1.atomWrites op r.2 vd vb l) w sp (o + 4))

/-- The end of a `vatom`: where it has made commits on REPL pages, the run goes on, with the results, when they are made (R203). -/
def State.atomDone (s0 s : State) (before : BitVec 64) : Out :=
  match s0.accessDone s before with
  | .next t =>
    if s.repl.length = s0.repl.length ∨ (before ≠ 0 ∧ s.me.run.mask = 0) then .next t
    else .next (t.next.setMe { t.me with run := { t.me.run with wait := some { what := .commits, order := t.seq, start := t.time } } })
  | o => o

/-- The lanes of a `vatom` in order. -/
def State.atomLanes (s0 : State) (sp : Space) (op : AtomOp) (vd vb : VReg) (off : Lane → Nat) (before : BitVec 64) :
    List Lane → State → Out
  | [], s => s0.atomDone s before
  | l :: ls, s =>
    s.element sp 4 (off l) l (atomLanes s0 sp op vd vb off before ls (s.switchOff l)) (
      match s.atomLane s0.repl sp op vd vb l (off l) with
      | .ok s1 => atomLanes s0 sp op vd vb off before ls s1
      | x => s0.elementFailed s .atomic l x)

/-- o_l of R182 for an atomic. -/
def Wave.atomOffset (w : Wave) (sa : SReg) (va : VReg) (l : Lane) : Nat := (w.rs sa + (w.rv va l).zeroExtend 64).toNat

/-- `vatom` (R182): no mask; the lanes are those of Act. It is performed where its words are ordered, after the wave's late stores. Its offsets
are those of R182, also where R222 says that a negative id raises SEGMENT (log entry 100). -/
def State.vatom (s : State) (sp : Space) (vd : VReg) (sa : SReg) (va vb : VReg) (op : AtomOp) : Out :=
  s.withRegs [vd, va, vb] (
    let w := s.me
    let off := w.atomOffset sa va
    let ls := lanesOf (w.unfinished w.act)
    if w.late ≠ [] then s.hold
    else s.vectorLock .atomic sp 4 (ls.map off) (s.atomLanes sp op vd vb off w.run.mask ls s))

/-- `vatom.g` (R182). -/
def execVatomG (vd : VReg) (sa : SReg) (va vb : VReg) (op : AtomOp) (s : State) : Out := s.vatom .g vd sa va vb op

/-- `vatom.d` (R182). -/
def execVatomD (vd : VReg) (sa : SReg) (va vb : VReg) (op : AtomOp) (s : State) : Out := s.vatom .d vd sa va vb op

/-- `vatom.q` (R182). -/
def execVatomQ (vd : VReg) (sa : SReg) (va vb : VReg) (op : AtomOp) (s : State) : Out := s.vatom .q vd sa va vb op

end Sys2Proof.Machine
end

