-- ==== Sys2Proof/Machine/Tiles.lean ====
section
/-! DEFINITION. The matrix unit (R245 to R266) and the arithmetic of tiles (R62 to R66, R71 to R76). A command is checked when it issues
and takes its row steps in order (R252): some of them at once, the rest before the wave's next tile command or at its retirement, an act
of its own, which merges its flags and frees its id and its interlock entry (log entry 11). -/

namespace Sys2Proof.Machine

/-! ## Formats and codes -/

/-- Element formats of tile operands (R58, R62 to R64). -/
inductive EltFmt where
  | bf16 | f16 | f8a | f8b | i8 | bi8 | pw2 | f32 | i4
  deriving DecidableEq, Repr

/-- Activation and weight formats of the pairs (R33, R240). -/
def actFmt (fm : Nat) : EltFmt :=
  match fm with
  | 0 => .bf16
  | 1 => .f16
  | 2 => .f8a
  | 3 => .f8b
  | 4 => .f8a
  | 5 => .f8b
  | 6 => .i8
  | 7 => .bi8
  | 8 => .bi8
  | 9 => .f32
  | _ => .i4

def wgtFmt (fm : Nat) : EltFmt :=
  match fm with
  | 3 => .f8a
  | 4 => .f8b
  | 7 => .pw2
  | _ => actFmt fm

/-- The element size in half bytes (R230). -/
def EltFmt.halves : EltFmt → Nat
  | .bf16 => 4
  | .f16 => 4
  | .f32 => 8
  | .i4 => 1
  | _ => 2

def EltFmt.code : EltFmt → Nat
  | .bf16 => 0
  | .f16 => 1
  | .f8a => 2
  | .f8b => 3
  | .i8 => 4
  | .bi8 => 5
  | .pw2 => 6
  | .f32 => 7
  | .i4 => 8

/-- The type of the accumulator (R240). -/
def accTypeOf (fm : Nat) : AccType := if fm = 6 ∨ fm = 10 then .i32 else .f32

/-- A floating-point code as a value. -/
def EltFmt.value (f : EltFmt) (x : Nat) : FVal :=
  match f with
  | .bf16 => fmtBf16.read x
  | .f16 => fmtF16.read x
  | .f8a => fmtF8a.read x
  | .f8b => fmtF8b.read x
  | .f32 => fmtF32.read x
  | _ => .nan

/-- A term of a PW2 weight (R64). -/
def pw2Term (x : Nat) : Int :=
  let e := x % 8
  if e = 7 then 0 else if x / 8 % 2 = 1 then -(2 ^ e) else 2 ^ e

/-- A reserved PW2 code: a term with e = 7 and s = 1. -/
def pw2Reserved (x : Nat) : Bool := x % 16 = 15 ∨ x / 16 % 16 = 15

/-- An integer code as a number (R62 to R64). -/
def EltFmt.number (f : EltFmt) (x : Nat) : Int :=
  match f with
  | .i4 => (BitVec.ofNat 4 x).toInt
  | .pw2 => pw2Term (x / 16) + pw2Term x
  | _ => (BitVec.ofNat 8 x).toInt

/-! ## Sums (R71 to R75) -/

/-- acc plus the exact products of one group, rounded once; the flags of the products are added. -/
def groupSum (acc : Word) (ps : List (FVal × FpFlags)) : Fp :=
  let r := f32Sum (readF32 acc :: ps.map (·.1))
  (r.1, ps.foldl (fun f p => f ||| p.2) r.2)

/-- The products in groups of `n`, in increasing k. `fuel` bounds the groups. -/
def groupSums (n : Nat) : Nat → Word → List (FVal × FpFlags) → Fp
  | 0, acc, _ => (acc, flagNone)
  | fuel + 1, acc, ps =>
    if ps = [] then (acc, flagNone)
    else
      let a := groupSum acc (ps.take n)
      let b := groupSums n fuel a.1 (ps.drop n)
      (b.1, a.2 ||| b.2)

/-- A masked k contributes the product +0 (R75). -/
def maskedProduct : FVal × FpFlags := (.fin false 0 0, flagNone)

/-- What one accumulator element is combined with: the codes of the activation row, those of the weight column, both for
k < `n`, and the masked k up to Grant(k). -/
def floatDot (fm : Nat) (acc : Word) (a w : List Nat) (gk : Nat) : Fp :=
  let ps := List.zipWith (fun x y => ((actFmt fm).value x).mul ((wgtFmt fm).value y)) a w
  let all := ps ++ List.replicate (gk - ps.length) maskedProduct
  groupSums (if fm = 9 then 1 else 8) (gk + 1) acc all

/-- Σ n_a × w. -/
def intDot (f g : EltFmt) (a w : List Nat) : Int :=
  (List.zipWith (fun x y => f.number x * g.number y) a w).foldl (· + ·) 0

/-- I × 2^(ea + ew − 254) as an exact term (R73). -/
def blockTerm (i : Int) (ea ew : Nat) : FVal := .fin (i < 0) i.natAbs ((ea : Int) + ew - 254)

/-- The blocks of R73 in increasing k. -/
def blockDot (fm : Nat) : Nat → Word → List Nat → List Nat → List Nat → List Nat → Fp
  | 0, acc, _, _, _, _ => (acc, flagNone)
  | n + 1, acc, a, w, ea, ew =>
    let i := intDot (actFmt fm) (wgtFmt fm) (a.take 32) (w.take 32)
    let x := f32Sum [readF32 acc, blockTerm i (ea.headD 0) (ew.headD 0)]
    let r := blockDot fm n x.1 (a.drop 32) (w.drop 32) ea.tail ew.tail
    (r.1, x.2 ||| r.2)

/-- One element of `tmma`: the accumulator combined with a row and a column (R71 to R75). -/
def tileDot (fm : Nat) (acc : Word) (a w ea ew : List Nat) (gk : Nat) : Fp :=
  if fm = 6 ∨ fm = 10 then (acc + BitVec.ofInt 32 (intDot (actFmt fm) (wgtFmt fm) a w), flagNone)
  else if blockFmt fm then blockDot fm (gk / 32) acc a w ea ew
  else floatDot fm acc a w gk

/-! ## Accumulators and banks (R249, R250) -/

def accRows (c : CoreId) : Nat := if CoreId.isE c then 16 else 128
def accCols (c : CoreId) : Nat := if CoreId.isE c then 16 else 64

/-- Element (i, j); a dead accumulator reads +0. -/
def Accum.get (a : Accum) (i j : Nat) : Word := if a.live then look 0 a.el (64 * i + j) else 0

/-- The command that writes an accumulator makes it live. -/
def Accum.wake (a : Accum) (t : AccType) : Accum := if a.live then a else { Accum.dead with live := true, type := t }

def Accum.set (a : Accum) (i j : Nat) (x : Word) : Accum := { a with el := put a.el (64 * i + j) x }

/-- HM and HN only grow. -/
def Accum.grow (a : Accum) (m n : Nat) : Accum := { a with hm := max a.hm m, hn := max a.hn n }

def Bank.weight (b : Bank) (k n : Nat) : Nat := look 0 b.w (256 * k + n)

def Bank.scale (b : Bank) (blk n : Nat) : Nat := look 0 b.sc (256 * blk + n)

/-- The bank that the next `tmma` uses (R250). -/
def Core.bankFor (c : Core) : Bank := if c.fresh then c.shadow else c.active

/-- The `tmma` with number `n` makes the latest tile active. -/
def Core.activate (c : Core) (n : Nat) : Core :=
  if c.fresh then { c with active := c.shadow, shadow := .empty, fresh := false, turned := n } else c

def Core.accDead (c : Core) : Bool := c.acc.all (fun a => !a.live)

/-! ## Operand spans and their checks (R245, R246, R253, R254) -/

/-- Bytes of an operand: the offset of a run and its length. -/
abbrev Span := Nat × Nat

/-- base + i × stride. -/
def rowAt (base stride : DWord) (i : Nat) : Nat := (base + BitVec.ofNat 64 i * stride).toNat

/-- The bytes that `n` elements of `h` half bytes take. -/
def packedBytes (n h : Nat) : Nat := (n * h + 1) / 2

/-- `rows` rows of `len` bytes; none where they are empty. -/
def rowSpans (base stride : DWord) (rows len : Nat) : List Span :=
  if len = 0 then [] else (List.range rows).map (fun i => (rowAt base stride i, len))

/-- The lowest offset at which a span leaves a segment of `limit` bytes. The bytes of a range are those of its rows: a gap between two rows
does not fail (R254; log entry 92). -/
def spansOut (limit : Nat) (sp : List Span) : Option Nat :=
  (sp.filter (fun x => limit < x.1 + x.2)).foldl (fun m x => match m with
    | none => some (max x.1 limit)
    | some y => some (min y (max x.1 limit))) none

/-- The range from the lowest to the highest byte of the spans (R225). -/
def State.spansRange (s : State) (w : Wave) (space : Space) (sp : List Span) : Option Range :=
  match sp with
  | [] => none
  | x :: xs =>
    let lo := xs.foldl (fun m y => min m y.1) x.1
    let hi := xs.foldl (fun m y => max m (y.1 + y.2)) (x.1 + x.2)
    some (s.rangeOf w space lo (hi - lo))

/-- The alignment of a tile command's element in bytes: max(ES, 1) (R254). -/
def EltFmt.align (f : EltFmt) : Nat := max (f.halves / 2) 1

/-- Step 2 of R254: the misaligned offset. -/
def misalignedTile (base stride : DWord) (n : Nat) : Option Nat :=
  if base.toNat % n ≠ 0 then some base.toNat
  else if stride.toNat % n ≠ 0 then some (base + stride).toNat
  else none

/-- ⌈n ÷ 32⌉: the blocks that hold an unmasked element. -/
def blocksOf (n : Nat) : Nat := (n + 31) / 32

/-- The spans that `tldw` reads (R253). -/
def ldwSpans (fm : Nat) (base stride : DWord) (vk vn gk : Nat) : List Span :=
  rowSpans base stride vk (packedBytes vn (wgtFmt fm).halves) ++
  (if blockFmt fm ∧ vn ≠ 0 then (List.range (blocksOf vk)).map (fun b => (rowAt base stride (gk + b), vn)) else [])

/-- The spans that `tmma` reads. -/
def mmaSpans (fm : Nat) (base stride : DWord) (vm vk gk : Nat) : List Span :=
  rowSpans base stride vm (packedBytes vk (actFmt fm).halves) ++
  (if blockFmt fm ∧ vk ≠ 0 then (List.range vm).map (fun i => (rowAt base stride i + gk, blocksOf vk)) else [])

/-! ## Reading and writing .q -/

/-- `n` bytes of the wave's .q at an offset, and whether a granule read is poisoned. -/
def State.qBytes (s : State) (w : Wave) (o n : Nat) : List Byte × Bool :=
  let q := s.quad w.id.place.die w.id.place.quad
  let a := w.seg.q.base.toNat + o
  (q.bytes a n, q.poisoned a n)

/-- Element `k` of the row that starts at offset `o`, of `h` half bytes, with its poison. -/
def State.qCode (s : State) (w : Wave) (o h k : Nat) : Nat × Bool :=
  let r := s.qBytes w (o + k * h / 2) ((h + 1) / 2)
  (if h = 1 then leNat r.1 / 2 ^ (4 * (k % 2)) % 16 else leNat r.1, r.2)

/-- The record that a tile command of a wave makes where it covers part of a poisoned granule. -/
def Wave.tileNote (w : Wave) (pc : DWord) : Record :=
  { (Record.partialStore (coreLoc w.id.place 7 0)).ofWave w with pc := pc.truncate 32 }

/-- Store bytes word by word for wave `n`; `note` gives the record of the word at an offset into them. `fuel` bounds the words. -/
def State.wordStores : Nat → State → Nat → (Nat → Record) → Nat → Place → List Byte → State
  | 0, s, _, _, _, _, _ => s
  | fuel + 1, s, n, note, k, p, bs =>
    if bs = [] then s
    else
      let room := 4 - p.addr % 4
      State.wordStores fuel (s.perform n (note k) p (bs.take room)) n note (k + room) (p.plus room) (bs.drop room)

/-- Write bytes to .q for wave `n`, whose word stands at `pc`; a poisoned accumulator poisons every granule it writes (R257). `elem` gives
the element that the byte at an offset belongs to, for the record of a poisoned word that is covered in part (R332). -/
def State.qWrite (s : State) (n : Nat) (pc : DWord) (elem : Nat → Nat) (o : Nat) (bs : List Byte) (pois : Bool) : State :=
  let w := s.wave n
  let c := w.id.place
  let a := w.seg.q.base.toNat + o
  let s1 := s.mark w .q (o + bs.length)
  if pois then
    let q := s1.quad c.die c.quad
    let q1 := q.wakes (a / 256) ((a + bs.length) / 256 - a / 256 + 1)
    s1.setQuad c.die c.quad { q1 with scratch := memWrites q1.scratch a bs, poison := poisonWords q1.poison a bs.length }
  else
    State.wordStores (bs.length + 1) s1 n (fun k => { w.tileNote pc with data0 := BitVec.ofNat 64 (elem k) }) 0 (.scratch c.die c.quad a) bs

/-- The one record of a command that writes from a poisoned accumulator (R257). -/
def State.poisRecord (s : State) (w : Wave) (addr count : Nat) : State :=
  let c := w.id.place
  s.report c.die
    { (Record.blank 0x0060 2 (coreLoc c 7 0)).ofWave w with
      addr := BitVec.ofNat 64 addr, data0 := BitVec.ofNat 64 count, data1 := 2 }

/-- The distinct granules that spans touch, `base` being the segment's base. -/
def granules (base : Nat) (sp : List Span) : Nat :=
  (sp.flatMap (fun x => (List.range ((base + x.1 + x.2 - 1) / 4 + 1 - (base + x.1) / 4)).map (fun i => (base + x.1) / 4 + i))).eraseDups.length

def lowestOf (sp : List Span) : Nat :=
  match sp with
  | [] => 0
  | x :: xs => xs.foldl (fun m y => min m y.1) x.1

/-! ## What a command latches at issue (R229) -/

structure TileGeom where
  fm : Nat
  vm : Nat
  vn : Nat
  vk : Nat
  gm : Nat
  gn : Nat
  gk : Nat
  ad : Nat
  base : DWord
  stride : DWord
  deriving DecidableEq, Repr

def Wave.geom (w : Wave) (ad : Nat) (base stride : DWord) : TileGeom where
  fm := w.sr.gf.toNat
  vm := w.sr.vm.toNat
  vn := w.sr.vn.toNat
  vk := w.sr.vk.toNat
  gm := w.sr.gm.toNat
  gn := w.sr.gn.toNat
  gk := w.sr.gk.toNat
  ad := ad
  base := base
  stride := stride

def TileGeom.pack (g : TileGeom) : List Nat := [g.fm, g.vm, g.vn, g.vk, g.gm, g.gn, g.gk, g.ad, g.stride.toNat]

def TileGeom.unpack (base : DWord) (l : List Nat) : TileGeom where
  fm := l.getD 0 0
  vm := l.getD 1 0
  vn := l.getD 2 0
  vk := l.getD 3 0
  gm := l.getD 4 0
  gn := l.getD 5 0
  gk := l.getD 6 0
  ad := l.getD 7 0
  base := base
  stride := BitVec.ofNat 64 (l.getD 8 0)

/-- Where the check of R66 stops a command: what is held of the row, the offset of the byte and the byte. -/
structure CodeStop where
  row  : HeldRow
  off  : Nat
  byte : Nat
  deriving DecidableEq, Repr

/-! ## `tldw` (R259) -/

/-- Latch the elements from position `p` on, `n` of them: each code, with the scale of its block at the first row of a block. Where the
code and the scale of one element are both reserved, the code is met first (log entry 74). -/
def State.ldwFrom (s : State) (w : Wave) (g : TileGeom) (b : Bank) (p : Nat) : Nat → Bank × Option CodeStop
  | 0 => (b, none)
  | n + 1 =>
    let f := wgtFmt g.fm
    let k := p / g.vn
    let j := p % g.vn
    let o := rowAt g.base g.stride k
    let x := s.qCode w o f.halves j
    let e := k * g.gn + j
    if f = .pw2 ∧ pw2Reserved x.1 then (b, some { row := ⟨e, [], false⟩, off := o + j, byte := x.1 })
    else
      let b1 := { b with w := put b.w (256 * k + j) x.1, pois := b.pois || x.2 }
      if blockFmt g.fm ∧ k % 32 = 0 then
        let so := rowAt g.base g.stride (g.gk + k / 32) + j
        let y := s.qCode w so 2 0
        if y.1 = 255 then (b1, some { row := ⟨e, [], false⟩, off := so, byte := 255 })
        else s.ldwFrom w g { b1 with sc := put b1.sc (256 * (k / 32) + j) y.1, pois := b1.pois || y.2 } (p + 1) n
      else s.ldwFrom w g b1 (p + 1) n

/-- The shadow bank when a `tldw` begins. -/
def TileGeom.bank (g : TileGeom) : Bank :=
  { Bank.empty with wf := (wgtFmt g.fm).code, lgk := g.gk, lgn := g.gn, lvk := g.vk, lvn := g.vn }

/-- A `tldw` goes on from element `e`, or begins: the core with its shadow bank, and where it stopped. -/
def State.runLdw (s : State) (w : Wave) (g : TileGeom) (start : Option Nat) : State × Option CodeStop :=
  let c := s.core w.id.place
  let b := if start.isNone then g.bank else c.shadow
  let p := match start with
    | some e => e / g.gn * g.vn + e % g.gn
    | none => 0
  let r := s.ldwFrom w g b p (g.vk * g.vn - p)
  (s.setCore w.id.place { c with shadow := { r.1 with complete := r.2.isNone }, fresh := true }, r.2)

/-- A `tldw` without codes to check begins: its bank is empty. -/
def State.beginLdw (s : State) (w : Wave) (g : TileGeom) : State :=
  s.setCore w.id.place { s.core w.id.place with shadow := g.bank, fresh := true }

/-- Row step `k` of such a `tldw`; the last one makes the bank COMPLETE. -/
def State.ldwRow (s : State) (w : Wave) (g : TileGeom) (k : Nat) : State :=
  let c := s.core w.id.place
  let r := s.ldwFrom w g c.shadow (k * g.vn) g.vn
  s.setCore w.id.place { c with shadow := { r.1 with complete := decide (k + 1 = g.vk) } }

/-! ## `tmma` (R260) -/

/-- What is read of an activation row. -/
structure ActRow where
  codes  : List Nat
  scales : List Nat
  pois   : Bool
  deriving DecidableEq, Repr

/-- The codes and block scales of activation row `i`; `h` holds those below element `k0`, read before. A reserved scale stops at the first
element of its block, and what lies below it is held with its poison (R256, R257). -/
def State.actRow (s : State) (w : Wave) (g : TileGeom) (i k0 : Nat) (h : HeldRow) : ActRow × Option CodeStop :=
  let f := actFmt g.fm
  let o := rowAt g.base g.stride i
  let codes := (List.range (g.vk - k0)).map (fun k => s.qCode w o f.halves (k0 + k))
  let all := h.kept.take k0 ++ codes.map (·.1)
  if blockFmt g.fm then
    let b0 := k0 / 32
    let scales := (List.range (blocksOf g.vk - b0)).map (fun b => s.qCode w (o + g.gk + b0 + b) 2 0)
    let es := h.kept.drop k0 ++ scales.map (·.1)
    match es.findIdx? (· = 255) with
    | some b =>
      let bad := h.pois || (codes.take (32 * b - k0)).any (·.2) || (scales.take (b - b0)).any (·.2)
      (⟨all, es, false⟩,
        some { row := ⟨i * g.gk + 32 * b, all.take (32 * b) ++ es.take b, bad⟩, off := o + g.gk + b, byte := 255 })
    | none => (⟨all, es, h.pois || codes.any (·.2) || scales.any (·.2)⟩, none)
  else (⟨all, [], h.pois || codes.any (·.2)⟩, none)

/-- Combine one row with every column of the bank. A k that is masked on one side only gives the product +0 too (log entry 51). -/
def mmaRow (g : TileGeom) (b : Bank) (i : Nat) (a ea : List Nat) (acc : Accum) : Accum × FpFlags :=
  let n := min g.vk b.lvk
  (List.range b.lvn).foldl (fun r j =>
    let ws := (List.range n).map (fun k => b.weight k j)
    let ew := (List.range (g.gk / 32)).map (fun x => b.scale x j)
    let x := tileDot g.fm (r.1.get i j) (a.take n) ws ea ew g.gk
    (r.1.set i j x.1, r.2 ||| x.2)) (acc, flagNone)

def HeldRow.none : HeldRow := ⟨0, [], false⟩

/-- Rows `i` and up, `n` of them; the first starts at element `k0` with what was held. -/
def State.mmaRows (s : State) (w : Wave) (g : TileGeom) (b : Bank) (i k0 : Nat) (h : HeldRow) (acc : Accum) :
    Nat → Accum × FpFlags × Option CodeStop
  | 0 => (acc, flagNone, .none)
  | n + 1 =>
    match s.actRow w g i k0 h with
    | (_, some stop) => (acc, flagNone, some stop)
    | (x, .none) =>
      let r := mmaRow g b i x.codes x.scales acc
      let t := s.mmaRows w g b (i + 1) 0 .none ({ r.1 with pois := r.1.pois || x.pois }.grow (i + 1) b.lvn) n
      (t.1, r.2 ||| t.2.1, t.2.2)

/-- A `tmma` begins: the latest tile becomes active, the accumulator live, and a `tldw` passes its poison to the first `tmma` of its bank
(R250, R257). -/
def State.beginMma (s : State) (w : Wave) (g : TileGeom) : State :=
  let c := (s.core w.id.place).activate s.seq
  let ad : Fin 4 := Fin.ofNat 4 g.ad
  let a := c.acc[ad].wake (accTypeOf g.fm)
  s.setCore w.id.place
    { c with acc := c.acc.set ad { a with pois := a.pois || c.active.pois }, active := { c.active with pois := false } }

/-- Rows of a `tmma` that has begun: from row `i` and element `k0`, `n` rows. -/
def State.runMma (s : State) (w : Wave) (g : TileGeom) (i k0 : Nat) (h : HeldRow) (n : Nat) : State × FpFlags × Option CodeStop :=
  let c := s.core w.id.place
  let ad : Fin 4 := Fin.ofNat 4 g.ad
  let r := s.mmaRows w g c.active i k0 h c.acc[ad] n
  (s.setCore w.id.place { c with acc := c.acc.set ad r.1 }, r.2.1, r.2.2)

/-! ## Output rows (R261) -/

/-- One row of `tst` or `tstb`: the bytes and flags of each element are what `conv` gives. -/
def State.storeRowOut (s : State) (n : Nat) (pc : DWord) (g : TileGeom) (size : Nat) (conv : Word → Nat × FpFlags) (i : Nat) :
    State × FpFlags :=
  let a := (s.core (s.wave n).id.place).acc[(Fin.ofNat 4 g.ad : Fin 4)]
  let es := (List.range g.vn).map (fun j => conv (a.get i j))
  (s.qWrite n pc (fun k => i * g.vn + k / size) (rowAt g.base g.stride i) (es.flatMap (fun e => bytesOfNat size e.1)) a.pois, es.foldl (fun f e => f ||| e.2) flagNone)

/-- A `tmma` of a block format goes on at row `i`: its sums begin from the accumulator as it stands, and it is the next command to be numbered. -/
def State.noteSums (s : State) (w : Wave) (g : TileGeom) (i : Nat) : State :=
  let c := s.core w.id.place
  s.setCore w.id.place { c with sums := some { num := s.seq, row := i, el := c.acc[(Fin.ofNat 4 g.ad : Fin 4)].el } }

/-- The conversion of `tst`: bit for bit. -/
def convWord (x : Word) : Nat × FpFlags := (x.toNat, flagNone)

/-- The conversion of `tstb`: Convert(BF16) under the slot of the %cvt in force at issue (R68, R261). -/
def convBf16 (cvt : BitVec 24) (x : Word) : Nat × FpFlags :=
  convertFloat fmtBf16 (controlOf cvt slotBf16) (readF32 x)

/-! ## Row steps (R251, R253) -/

/-- Row step `t.next` of a command of wave `n`. -/
def State.rowStep (s : State) (n : Nat) (t : TileCmd) : State × TileCmd :=
  let w := s.wave n
  let g := TileGeom.unpack t.base t.geom
  let r : State × FpFlags := match t.op with
    | .ldw => (s.ldwRow w g t.next, flagNone)
    | .mma =>
      let r := s.runMma w g t.next 0 .none 1
      (r.1, r.2.1)
    | .st => s.storeRowOut n t.pc g 4 convWord t.next
    | .stb => s.storeRowOut n t.pc g 2 (convBf16 t.cvt) t.next
    | .one => (s, flagNone)
    | .reg => (s, flagNone)
  (r.1, { t with next := t.next + 1, flags := t.flags ||| r.2 })

/-- The next `k` row steps. -/
def State.rowSteps (s : State) (n : Nat) (t : TileCmd) : Nat → State × TileCmd
  | 0 => (s, t)
  | k + 1 => (s.rowStep n t).1.rowSteps n (s.rowStep n t).2 k

/-- The row steps that a command has still to take. -/
def TileCmd.left (t : TileCmd) : Nat := if t.held.isSome then 0 else t.rows - t.next

def setTile (l : List TileCmd) (t : TileCmd) : List TileCmd := l.map (fun x => if x.num = t.num then t else x)

/-- A command of wave `n` leaves the sequencer, and its interlock entry is free; the unit is free if a `tfree` left it so and nothing is in
flight. -/
def State.dropTile (s : State) (n : Nat) (t : TileCmd) : State :=
  let w := s.wave n
  let w1 := { w with
    tiles := w.tiles.filter (fun x => x.num ≠ t.num)
    locks := w.locks.filter (fun i => i.owner ≠ t.num) }
  let c := s.core w.id.place
  let s1 := s.setWave n w1
  if c.owner = some n ∧ c.freeing ∧ w1.tiles.all (fun t => t.held.isSome) then
    s1.setCore w.id.place { c with owner := none, freeing := false }
  else s1

/-- A command of wave `n` that has taken its rows retires: its flags are merged (R253, R324). -/
def State.retireNow (s : State) (n : Nat) (t : TileCmd) : State := (s.setWave n ((s.wave n).addFlags t.flags)).dropTile n t

/-- A command may start: those of the commands `deps` that are still in flight, and have taken their rows, retire (R251). -/
def State.retireDeps (s : State) (n : Nat) (deps : List Nat) : State :=
  ((s.wave n).tiles.filter (fun t => t.num ∈ deps ∧ t.held.isNone)).foldl (fun s t => s.retireNow n t) s

/-- Take row steps of one command; it has started, so that what it depends on has retired (R251). -/
def State.advanceTile (s : State) (n : Nat) (t : TileCmd) (k : Nat) : State :=
  if k = 0 then s
  else
    let r := (s.retireDeps n t.deps).rowSteps n t k
    let w := r.1.wave n
    r.1.setWave n { w with tiles := setTile w.tiles r.2 }

/-- Take every row step that the commands of wave `n` have still to take, in order. -/
def State.finishTiles (s : State) (n : Nat) : State :=
  ((s.wave n).tiles.filter (fun t => t.left ≠ 0)).foldl (fun s t => s.advanceTile n t t.left) s

/-! ## Issue (R248, R251, R254, R256) -/

/-- Another wave owns the matrix unit (R248). -/
def State.unitTaken (s : State) : Bool :=
  match (s.core s.here).owner with
  | some n => n ≠ s.cur
  | none => false

/-- A command with this id is in flight (R251); a held command does not count, for it is discarded. -/
def Wave.idLive (w : Wave) (id : Fin 32) : Bool := id ≠ 0 && w.tiles.any (fun t => t.held.isNone && t.id = id)

/-- The held command, if the word that issues continues it (R256). -/
def State.continues (s : State) : Option (TileCmd × HeldRow) :=
  let w := s.me
  (w.tiles.find? (fun t => t.held.any (fun h => h.elem = w.sr.vstart.toNat) && t.word = s.ir && t.pc = w.run.pc)).bind
    (fun t => t.held.map (fun h => (t, h)))

/-- A held command is discarded (R256). -/
def Wave.discard (w : Wave) : Wave := { w with tiles := w.tiles.filter (fun t => t.held.isNone) }

/-- The wave owns the unit, and no `tfree` of it is about to give it up. -/
def State.own (s : State) : State :=
  let c := s.core s.here
  s.setCore s.here { c with owner := some s.cur, freeing := false }

/-- What is the same of every command: its word, what it latched, and its ranges. -/
structure TileSpec where
  op  : TileOp
  id  : Fin 32
  p1  : Fin 32
  p2  : Fin 32
  geom : TileGeom
  src : Option Range
  dst : Option Range
  deriving DecidableEq, Repr

/-- The command of `l` that was issued last with id `p`, if it is in flight (R251). -/
def latestTile (l : List TileCmd) (p : Fin 32) : List Nat :=
  if p = 0 then [] else ((l.reverse.find? (fun t => t.id = p)).map (·.num)).toList

/-- The commands in flight that a new one of the issuing wave depends on: its predecessors, and the previous command where it has id 0 or is of
format TG (R251); a `tldw` also on every `tmma` that reads the bank it will write, the one that is not active (R250). -/
def State.tileDeps (s : State) (c : TileSpec) : List Nat :=
  let l := s.me.tiles.filter (fun t => t.held.isNone)
  latestTile l c.p1 ++ latestTile l c.p2 ++ (if c.id = 0 ∨ c.op = .reg then (l.getLast?.map (·.num)).toList else []) ++
  (if c.op = .ldw then (l.filter (fun t => t.op = .mma ∧ t.num < (s.core s.here).turned)).map (·.num) else [])

/-- The command starts as it issues: it takes effect in one step, or its codes are checked (R256). -/
def TileSpec.atOnce (c : TileSpec) : Bool :=
  match c.op with
  | .one => true
  | .reg => true
  | .ldw => blockFmt c.geom.fm
  | .mma => blockFmt c.geom.fm
  | _ => false

/-- The command as the sequencer takes it, with `rows` row steps. -/
def State.newTile (s : State) (c : TileSpec) (rows : Nat) (flags : FpFlags) : TileCmd :=
  { num := s.seq, op := c.op, word := s.ir, pc := s.me.run.pc, id := c.id, deps := if c.atOnce then [] else s.tileDeps c, base := c.geom.base,
    geom := c.geom.pack, cvt := s.me.sr.cvt, rows, next := 0, flags, lock := c.src.isSome || c.dst.isSome, held := none }

/-- A command is in flight, its interlock entry taken, and some of its row steps, as the hardware chooses. -/
def State.launch (s : State) (c : TileSpec) (rows : Nat) (flags : FpFlags) : Out :=
  let w := s.me
  let t := s.newTile c rows flags
  let s1 := ({ s with fresh := s.fresh + 1 } : State).next.setMe { w with
    tiles := w.tiles ++ [t]
    locks := if t.lock then w.locks ++ [(⟨s.seq, c.src, c.dst⟩ : Interlock)] else w.locks
    sr := { w.sr with vstart := 0 } }
  let s2 := s1.advanceTile s.cur t (Config.rowsTaken s.fresh % (rows + 1))
  s2.done s2.me

/-- The command stops at a reserved code (R256): the trap of R66, and the command held with the flags of its rows, which are merged when it
retires (R324; log entry 12). It keeps no interlock entry while it is held, for the handler may rewrite the byte (R66; log entry 12). -/
def State.stopTile (s : State) (c : TileSpec) (flags : FpFlags) (x : CodeStop) : Out :=
  let w := s.me
  let t : TileCmd := { s.newTile c 0 flags with lock := false, held := some x.row }
  let w1 := { w.discard with sr := { w.sr with vstart := BitVec.ofNat 16 x.row.elem } }
  (s.next.setMe { w1 with tiles := w1.tiles ++ [t] }).trap causeReservedCode
    (BitVec.ofNat 64 (x.off % 2 ^ 48 + x.byte * 2 ^ 48 + spaceCode .q * 2 ^ 61))

/-- The interlock table lets a command take its ranges (R225); one without ranges takes no entry. -/
def State.tileLock (s : State) (src dst : Option Range) (go : Out) : Out :=
  let w := s.me
  if src = none ∧ dst = none then go
  else match w.freeLock.andThen (fun _ => w.lockXfer src dst) with
    | .ok () => go
    | x => s.failed w .store s.hold x

/-- Issue a tile command: the unit, its id, the checks `bad` of R254 against the state that the wave's earlier commands leave, the
interlock table, then `body` in a state in which the wave owns the unit and holds no stopped command; one that starts at once lets those
retire that it depends on (R251). -/
def State.issueTile (s : State) (c : TileSpec) (bad : State → Option (BitVec 8 × DWord)) (body : State → Out) : Out :=
  let w := s.me
  if s.unitTaken ∨ w.idLive c.id then s.hold
  else
    let s1 := s.finishTiles s.cur
    match bad s1 with
    | some (k, i) => s1.trap k i
    | none => s1.tileLock c.src c.dst (
        let s2 := s1.own.setMe (s1.own.me.discard)
        body (if c.atOnce then s2.retireDeps s2.cur (s2.tileDeps c) else s2))

/-- A command that the handler's repair lets go on (R256): it takes its interlock entry again. -/
def State.resumeTile (s : State) (src : Option Range) (body : State → Out) : Out :=
  let s1 := s.finishTiles s.cur
  s1.tileLock src none (body s1)

/-- An empty command does nothing and retires at once (R255). -/
def State.emptyTile (s : State) (c : TileSpec) (bad : Option (BitVec 8 × DWord)) : Out :=
  s.issueTile { c with op := .st, src := none, dst := none } (fun _ => bad) (fun s => s.done s.me.clearStart)

/-- A word of MAJ 0x2D to 0x2F: profile 2 (R310). -/
def State.tileWord (s : State) (regs : List VReg) (body : Out) : Out := s.checked ⟨2, false, false, regs⟩ body

def tileBad (reason : Nat) : Option (BitVec 8 × DWord) := some (causeTileOperand, BitVec.ofNat 64 reason)

/-- Steps 2 and 3 of R254 after step 1. -/
def memoryBad (one : Option (BitVec 8 × DWord)) (space : Space) (mis out : Option Nat) : Option (BitVec 8 × DWord) :=
  match one, mis, out with
  | some x, _, _ => some x
  | none, some o, _ => some (causeMisaligned, spaceInfo space o)
  | none, none, some o => some (causeSegment, spaceInfo space o)
  | none, none, none => none

/-! ## The commands -/

/-- `tzero` (R258). -/
def execTzero (ad : Fin 4) (id p1 p2 : Fin 32) (s : State) : Out :=
  s.tileWord [] (
    let g := s.me.geom ad.val 0 0
    let x : TileSpec := ⟨.one, id, p1, p2, g, none, none⟩
    s.issueTile x (fun _ => none) (fun s =>
      let c := s.core s.here
      (s.setCore s.here { c with acc := c.acc.set ad (Accum.dead.wake (accTypeOf g.fm)) }).launch x 0 flagNone))

/-- The end of a code-checked command's check: in flight with every row taken, or stopped. -/
def State.checkedTile (s : State) (c : TileSpec) (flags : FpFlags) (stop : Option CodeStop) : Out :=
  match stop with
  | some x => s.stopTile c flags x
  | none => (s.setMe s.me.discard).launch c 0 flags

/-- `tldw` (R259). -/
def execTldw (sa : SReg) (id p1 p2 : Fin 32) (s : State) : Out :=
  s.tileWord [] (
    let w := s.me
    let g := w.geom 0 (w.rs sa) w.sr.tldb
    let mis := misalignedTile g.base g.stride (wgtFmt g.fm).align
    if s.unitTaken then s.hold
    else match s.continues with
      | some (t, h) =>
        let x := TileGeom.unpack t.base t.geom
        let src := s.spansRange w .q (ldwSpans x.fm x.base x.stride x.vk x.vn x.gk)
        s.resumeTile src (fun s =>
          let r := s.runLdw s.me x (some h.elem)
          r.1.checkedTile ⟨.ldw, id, p1, p2, x, src, none⟩ flagNone r.2)
      | none =>
        if g.vk = 0 ∨ g.vn = 0 then s.emptyTile ⟨.ldw, id, p1, p2, g, none, none⟩ (memoryBad none .q mis none)
        else
          let spans := ldwSpans g.fm g.base g.stride g.vk g.vn g.gk
          let src := s.spansRange w .q spans
          let c : TileSpec := ⟨.ldw, id, p1, p2, g, src, none⟩
          s.issueTile c (fun _ => memoryBad none .q mis (spansOut w.seg.q.limit.toNat spans)) (fun s =>
            if blockFmt g.fm then
              let r := s.runLdw s.me g none
              r.1.checkedTile c flagNone r.2
            else (s.beginLdw s.me g).launch c g.vk flagNone))

/-- Reasons 2 to 4 for `tmma` (R254). -/
def State.mmaBad (s : State) (g : TileGeom) : Option (BitVec 8 × DWord) :=
  let c := s.core s.here
  let b := c.bankFor
  let a := c.acc[(Fin.ofNat 4 g.ad : Fin 4)]
  if b.lgk = 0 then tileBad 3
  else if b.wf ≠ (wgtFmt g.fm).code then tileBad 2
  else if ¬ b.complete ∨ b.lgk ≠ g.gk then tileBad 3
  else if a.live ∧ a.type ≠ accTypeOf g.fm then tileBad 4
  else none

/-- `tmma` (R260). It reads %vm and %vk only and is empty where one of them is 0 (R255), also where R269 speaks of N = 0 (log entry 85). -/
def execTmma (ad : Fin 4) (sa : SReg) (id p1 p2 : Fin 32) (s : State) : Out :=
  s.tileWord [] (
    let w := s.me
    let g := w.geom ad.val (w.rs sa) w.sr.tlda
    let mis := misalignedTile g.base g.stride (actFmt g.fm).align
    if s.unitTaken then s.hold
    else match s.continues with
      | some (t, h) =>
        let x := TileGeom.unpack t.base t.geom
        let src := s.spansRange w .q (mmaSpans x.fm x.base x.stride x.vm x.vk x.gk)
        s.resumeTile src (fun s =>
          let r := (s.noteSums s.me x (h.elem / x.gk)).runMma s.me x (h.elem / x.gk) (h.elem % x.gk) h (x.vm - h.elem / x.gk)
          r.1.checkedTile ⟨.mma, id, p1, p2, x, src, none⟩ (t.flags ||| r.2.1) r.2.2)
      | none =>
        if g.vm = 0 ∨ g.vk = 0 then s.emptyTile ⟨.mma, id, p1, p2, g, none, none⟩ (memoryBad none .q mis none)
        else
          let spans := mmaSpans g.fm g.base g.stride g.vm g.vk g.gk
          let src := s.spansRange w .q spans
          let c : TileSpec := ⟨.mma, id, p1, p2, g, src, none⟩
          s.issueTile c (fun s => memoryBad (s.mmaBad g) .q mis (spansOut w.seg.q.limit.toNat spans)) (fun s =>
            let s1 := s.beginMma s.me g
            if blockFmt g.fm then
              let r := (s1.noteSums s1.me g 0).runMma s1.me g 0 0 .none g.vm
              r.1.checkedTile c r.2.1 r.2.2
            else s1.launch c g.vm flagNone))

/-- `tst` and `tstb`, with their element size and check. -/
def State.outTile (s : State) (op : TileOp) (ad : Fin 4) (sa : SReg) (id p1 p2 : Fin 32) (size : Nat)
    (one : Accum → Option (BitVec 8 × DWord)) : Out :=
  s.tileWord [] (
    let w := s.me
    let g := w.geom ad.val (w.rs sa) w.sr.tldc
    let mis := misalignedTile g.base g.stride size
    if g.vm = 0 ∨ g.vn = 0 then s.emptyTile ⟨op, id, p1, p2, g, none, none⟩ (memoryBad none .q mis none)
    else
      let spans := rowSpans g.base g.stride g.vm (size * g.vn)
      let c : TileSpec := ⟨op, id, p1, p2, g, none, s.spansRange w .q spans⟩
      s.issueTile c (fun s => memoryBad (one (s.core s.here).acc[ad]) .q mis (spansOut w.seg.q.limit.toNat spans)) (fun s =>
        let s1 := if (s.core s.here).acc[ad].pois then s.poisRecord w (lowestOf spans) (granules w.seg.q.base.toNat spans) else s
        s1.launch c g.vm flagNone))

/-- `tst` (R261). -/
def execTst (ad : Fin 4) (sa : SReg) (id p1 p2 : Fin 32) (s : State) : Out := s.outTile .st ad sa id p1 p2 4 (fun _ => none)

/-- `tstb` (R261). -/
def execTstb (ad : Fin 4) (sa : SReg) (id p1 p2 : Fin 32) (s : State) : Out :=
  s.outTile .stb ad sa id p1 p2 2 (fun a => if a.live ∧ a.type = .i32 then tileBad 4 else none)

/-- One word of the region of `tadd` (R262): the new state and the flags; a poisoned target stays, with a record. A dead accumulator has no
TYPE: its +0 is added as an F32 (log entry 93). -/
def State.addWord (s : State) (w : Wave) (a : Accum) (g : TileGeom) (i j : Nat) : State × FpFlags :=
  let d := s.segDie w
  let x := w.seg.d.base.toNat + rowAt g.base g.stride i + 4 * j
  if (s.die d).poisoned x 4 then
    let loc := (Place.die d x).unit d
    (s.report d { (Record.blank 0x0060 2 loc).ofWave w with
      addr := BitVec.ofNat 64 x, data0 := BitVec.ofNat 64 (i * g.vn + j) }, flagNone)
  else
    let old : Word := BitVec.ofNat 32 (leNat ((s.die d).bytes x 4))
    let r : Fp := if a.live ∧ a.type = .i32 then (old + a.get i j, flagNone) else f32Add old (a.get i j)
    (s.perform s.cur (w.tileNote w.run.pc) (.die d x) (bytesOfNat 4 r.1.toNat), r.2)

/-- Every word of the region, row by row. -/
def State.addTile (s : State) (w : Wave) (a : Accum) (g : TileGeom) : State × FpFlags :=
  (List.range g.vm).foldl (fun r i =>
    (List.range g.vn).foldl (fun r j =>
      let x := r.1.addWord w a g i j
      (x.1, r.2 ||| x.2)) r) (s, flagNone)

/-- Poison the region: every target word is left unchanged and poisoned (R257). -/
def State.poisonDie (s : State) (w : Wave) (sp : List Span) : State :=
  let d := s.segDie w
  let x := s.die d
  s.setDie d { x with poison := sp.foldl (fun p y => poisonWords p (w.seg.d.base.toNat + y.1) y.2) x.poison }

/-- `tadd` (R262): the whole region in one event. A dead accumulator adds +0. -/
def execTadd (ad : Fin 4) (sa : SReg) (id p1 p2 : Fin 32) (s : State) : Out :=
  s.tileWord [] (
    let w := s.me
    let g := w.geom ad.val (w.rs sa) w.sr.tldc
    let mis := misalignedTile g.base g.stride 4
    if g.vm = 0 ∨ g.vn = 0 then s.emptyTile ⟨.one, id, p1, p2, g, none, none⟩ (memoryBad none .d mis none)
    else
      let spans := rowSpans g.base g.stride g.vm (4 * g.vn)
      let dst := s.spansRange w .d spans
      let c : TileSpec := ⟨.one, id, p1, p2, g, none, dst⟩
      s.issueTile c (fun _ => memoryBad none .d mis (spansOut w.seg.d.limit.toNat spans)) (fun s =>
        let a := (s.core s.here).acc[ad]
        if a.pois then
          ((s.poisonDie w spans).poisRecord w (lowestOf spans) (granules w.seg.d.base.toNat spans)).launch c 0 flagNone
        else
          let r := s.addTile s.me a g
          r.1.launch c 0 r.2))

/-! ### Images (R263) -/

def imageMark : Nat := 0xACC00001

/-- The bytes of an accumulator's image. That of a dead one has FMT 0 (log entry 94). -/
def accImage (a : Accum) (vm vn : Nat) : List Byte :=
  let m := if a.live then vm else 0
  let n := if a.live then vn else 0
  bytesOfNat 4 imageMark ++ bytesOfNat 2 m ++ bytesOfNat 2 n ++ bytesOfNat 1 (if a.live ∧ a.type = .i32 then 1 else 0) ++
  bytesOfNat 1 a.live.toNat ++ List.replicate 54 0 ++
  (List.range m).flatMap (fun i => (List.range n).flatMap (fun j => bytesOfNat 4 (a.get i j).toNat))

/-- The length of the image that `tsave` writes: the header, and the elements of a live accumulator. -/
def imageLen (a : Accum) (vm vn : Nat) : Nat := 64 + (if a.live then 4 * vm * vn else 0)

/-- `tsave` (R263). -/
def execTsave (ad : Fin 4) (sa : SReg) (id p1 p2 : Fin 32) (s : State) : Out :=
  s.tileWord [] (
    let w := s.me
    let g := w.geom ad.val (w.rs sa) 0
    let spans : List Span := [(g.base.toNat, imageLen (s.core s.here).acc[ad] g.vm g.vn)]
    let c : TileSpec := ⟨.one, id, p1, p2, g, none, s.spansRange w .q spans⟩
    s.issueTile c (fun _ => memoryBad none .q (misalignedTile g.base 0 4) (spansOut w.seg.q.limit.toNat spans)) (fun s =>
      let a := (s.core s.here).acc[ad]
      let s1 := s.qWrite s.cur w.run.pc (fun _ => 0) g.base.toNat (accImage a g.vm g.vn) a.pois
      let s2 := if a.pois then s1.poisRecord w g.base.toNat (granules w.seg.q.base.toNat spans) else s1
      s2.launch c 0 flagNone))

/-- Whether a header breaks R263. -/
def badImage (hd : List Byte) (c : CoreId) : Bool :=
  let vm := field hd 4 2
  let vn := field hd 6 2
  field hd 0 4 ≠ imageMark ∨ 1 < field hd 8 1 ∨ 1 < field hd 9 1 ∨ field hd 10 54 ≠ 0 ∨ accRows c < vm ∨ accCols c < vn ∨
  (field hd 9 1 = 0 ∧ (vm ≠ 0 ∨ vn ≠ 0))

/-- The accumulator that an image gives. -/
def accOfImage (bs : List Byte) (pois : Bool) : Accum :=
  let vm := field bs 4 2
  let vn := field bs 6 2
  if field bs 9 1 = 0 then .dead
  else
    (List.range vm).foldl (fun a i =>
      (List.range vn).foldl (fun a j => a.set i j (BitVec.ofNat 32 (field bs (64 + 4 * (i * vn + j)) 4))) a)
      { live := true, type := if field bs 8 1 = 1 then .i32 else .f32, hm := vm, hn := vn, pois, el := [] }

/-- `trest` (R263). The header is read once no pending transfer writes it (R225, R252), then checked, then the elements it declares. A
header that cannot be read, since it leaves the segment, is no header that breaks R263: the checks of R254 then begin with the alignment
of the base. -/
def execTrest (ad : Fin 4) (sa : SReg) (id p1 p2 : Fin 32) (s : State) : Out :=
  s.tileWord [] (
    let w := s.me
    let g := w.geom ad.val (w.rs sa) 0
    let o := g.base.toNat
    let mis := misalignedTile g.base 0 4
    match spansOut w.seg.q.limit.toNat [(o, 64)] with
    | some out => s.issueTile ⟨.one, id, p1, p2, g, none, none⟩ (fun _ => memoryBad none .q mis (some out)) (fun s => s.done s.me)
    | none =>
      s.tileLock (s.spansRange w .q [(o, 64)]) none (
        let hd := (s.qBytes w o 64).1
        let len := 64 + 4 * field hd 4 2 * field hd 6 2
        let spans : List Span := [(o, len)]
        let x : TileSpec := ⟨.one, id, p1, p2, g, s.spansRange w .q spans, none⟩
        s.issueTile x (fun _ => memoryBad (if badImage hd s.here then tileBad 5 else none) .q mis
            (spansOut w.seg.q.limit.toNat spans)) (fun s =>
          let r := s.qBytes s.me o len
          let c := s.core s.here
          (s.setCore s.here { c with acc := c.acc.set ad (accOfImage r.1 r.2) }).launch x 0 flagNone)))

/-! ### Rows to and from vector registers (R264) -/

/-- The lanes of Act below %vn. -/
def Wave.tileLanes (w : Wave) : BitVec 64 := w.act &&& lowLanes w.sr.vn.toNat

/-- `tvget` (R264, R257). -/
def execTvget (vd : VReg) (ad : Fin 4) (sb : SReg) (id : Fin 32) (s : State) : Out :=
  s.tileWord [vd] (
    let w := s.me
    let r := (w.rs sb).toNat
    let g := w.geom ad.val 0 0
    let m := w.tileLanes
    let x : TileSpec := ⟨.reg, id, 0, 0, g, none, none⟩
    s.issueTile x (fun _ => if accRows s.here ≤ r then tileBad 6 else none) (fun s =>
      let a := (s.core s.here).acc[ad]
      let w1 := s.me.setLanes vd m (fun l => if a.pois then 0 else a.get r l.val)
      let w2 := if a.pois then { w1 with sr := { w1.sr with pmask := w1.sr.pmask ||| m } } else w1
      let s1 := s.setMe w2
      let s2 := if a.pois ∧ m ≠ 0 then s1.poisRecord w 0 (lanesOf m).length else s1
      s2.launch x 0 flagNone))

/-- `tvset` (R264). -/
def execTvset (vd : VReg) (ad : Fin 4) (sb : SReg) (id : Fin 32) (s : State) : Out :=
  s.tileWord [vd] (
    let w := s.me
    let r := (w.rs sb).toNat
    let g := w.geom ad.val 0 0
    let bad (s : State) : Option (BitVec 8 × DWord) :=
      let a := (s.core s.here).acc[ad]
      if a.live ∧ a.type ≠ accTypeOf g.fm then tileBad 4 else if accRows s.here ≤ r then tileBad 6 else none
    let x : TileSpec := ⟨.reg, id, 0, 0, g, none, none⟩
    s.issueTile x bad (fun s =>
      let a := (s.core s.here).acc[ad]
      let a1 := (lanesOf w.tileLanes).foldl (fun a l => a.set r l.val (w.rv vd l)) (a.wake (accTypeOf g.fm))
      let c := s.core s.here
      (s.setCore s.here { c with acc := c.acc.set ad (a1.grow (r + 1) g.vn) }).launch x 0 flagNone))

/-! ### `twait` and `tfree` (R265, R266) -/

/-- `twait` (R266). -/
def execTwait (id : Fin 32) (s : State) : Out := s.tileWord [] (s.await (.twait id))

/-- `tfree` (R265): with all four accumulators dead, both banks go too, and the unit is free once the wave's commands have
retired. -/
def execTfree (ad : Fin 4) (id : Fin 32) (s : State) : Out :=
  s.tileWord [] (
    let g := s.me.geom ad.val 0 0
    let x : TileSpec := ⟨.reg, id, 0, 0, g, none, none⟩
    s.issueTile x (fun _ => none) (fun s =>
      let c := s.core s.here
      let c1 := { c with acc := c.acc.set ad .dead }
      let c2 := if c1.accDead then { c1 with shadow := .empty, active := .empty, fresh := false, freeing := true } else c1
      (s.setCore s.here c2).launch x 0 flagNone))

/-! ## Retirement (R253) -/

/-- The oldest command of wave `n` that is not held takes its last row steps and retires. -/
def State.retireTile (s : State) (n : Nat) : State :=
  match (s.wave n).tiles.find? (fun t => t.held.isNone) with
  | none => s
  | some t =>
    let r := s.rowSteps n t t.left
    r.1.retireNow n r.2

/-- Whether the engines work for a gang: it holds a quad and is not frozen. One that is stopping, or is to be killed, still lets its engines
act until it has stopped. -/
def Gang.engines (g : Gang) : Bool := g.live && !g.frozen && g.place.isSome

/-- TILE_COMMAND_RETIRE: a wave with no command in flight is left alone. -/
def execTileCommandRetire (wave : Nat) (s : State) : Out :=
  let w := s.wave wave
  if w.live ∧ (s.gang w.id.gang).engines then .next (s.retireTile wave) else .next s

end Sys2Proof.Machine
end

