-- ==== Sys2Proof/Machine/Copies.lean ====
section
/-! DEFINITION. The quad copy engine (R224 to R236): box copies, copy nests and gathers. A copy is checked and latched when it issues;
its bytes move row by row, as the engine serves the streams of its quad round robin, when COPY_COMPLETION acts (log entry 27). -/

namespace Sys2Proof.Machine

/-! ## Boxes (R229, R230) -/

/-- The shape that a bx field selects, as latched at issue. -/
structure BoxShape where
  rows   : Nat
  elems  : Nat
  es     : Nat
  vrows  : Nat
  velems : Nat
  qstr   : DWord
  deriving DecidableEq, Repr

def Wave.shape (w : Wave) (bx : Box) : BoxShape :=
  let r := w.sr
  let fm := r.gf.toNat
  match bx with
  | .a => ⟨r.gm.toNat, r.gk.toNat, (actFmt fm).halves, r.vm.toNat, r.vk.toNat, r.tlda⟩
  | .b => ⟨r.gk.toNat, r.gn.toNat, (wgtFmt fm).halves, r.vk.toNat, r.vn.toNat, r.tldb⟩
  | .c => ⟨r.gm.toNat, r.gn.toNat, 8, r.vm.toNat, r.vn.toNat, r.tldc⟩
  | .x =>
    let rows := fld r.bx0.toNat 0 16
    let bytes := fld r.bx0.toNat 16 32
    ⟨rows, bytes, 2, rows, bytes, r.bx1⟩

/-- A box of shape `h` between two offsets. -/
def BoxShape.place (h : BoxShape) (q f fstr : DWord) : BoxGeom :=
  { rows := h.rows, elems := h.elems, es := h.es, vrows := h.vrows, velems := h.velems, q, qstr := h.qstr, f, fstr, also := [], lanes := [] }

/-- Bytes of a row of the box, and of its valid elements. -/
def BoxGeom.rowBytes (b : BoxGeom) : Nat := packedBytes b.elems b.es
def BoxGeom.validBytes (b : BoxGeom) : Nat := packedBytes b.velems b.es

/-- A masked nibble shares the last valid byte (R230). -/
def BoxGeom.nibble (b : BoxGeom) : Bool := b.velems * b.es % 2 = 1

/-- The .q bytes that a box touches: all of it where the copy loads, else its valid elements (R228). -/
def BoxGeom.qSpans (load : Bool) (b : BoxGeom) : List Span :=
  if load then rowSpans b.q b.qstr b.rows b.rowBytes else rowSpans b.q b.qstr b.vrows b.validBytes

/-- The far-side bytes that a box touches. -/
def BoxGeom.fSpans (b : BoxGeom) : List Span := rowSpans b.f b.fstr b.vrows b.validBytes

/-- The space of a far side. -/
def farSpace : Far → Space
  | .g => .g
  | .d => .d

/-! ## Moving bytes -/

/-- Bytes with whether each comes from a poisoned granule (R228). -/
abbrev Marked := List (Byte × Bool)

/-- The copy engine as an agent: it has no L1 (R173). -/
def Transfer.agent (t : Transfer) : Agent := ⟨t.asid, t.part, t.die, .none⟩

/-- Read pieces below every L1. -/
def State.markedRead (s : State) (a : Agent) : List Piece → Marked
  | [] => []
  | (p, n) :: ps =>
    (List.range n).map (fun i => ((s.rawBytes (p.plus i) 1).headD 0, s.piecePoisoned a (p.plus i, 1))) ++ s.markedRead a ps

/-- The poison granule of a place (R172). -/
def Place.granule : Place → Nat
  | .phys _ _ _ => 32
  | _ => 4

/-- Write bytes of one granule for wave `n`, where one made the transfer: a granule that receives a byte of a poisoned one becomes poisoned
(R172, R228). The line that the issuing core's L1 holds is dropped, so that the wave's own loads see the transfer (R225). -/
def State.granuleWrite (s : State) (n : Option Nat) (note : Record) (p : Place) (bs : Marked) : State :=
  let s1 := s.deviceStore n note p (bs.map (·.1)) (bs.any (·.2))
  match n with
  | none => s1
  | some k =>
    let c := (s.wave k).id.place
    match p.storeKey c.die with
    | some a => s1.dropLines c a bs.length
    | none => s1

/-- Write the bytes of one piece, granule by granule; `note` gives the record of a partial store of the granule whose first byte is the `i`-th that is
written. `fuel` bounds them. -/
def State.pieceWrite : Nat → State → Option Nat → (Nat → Record) → Nat → Place → Marked → State
  | 0, s, _, _, _, _, _ => s
  | fuel + 1, s, n, note, i, p, bs =>
    if bs = [] then s
    else
      let room := p.granule - p.addr % p.granule
      State.pieceWrite fuel (s.granuleWrite n (note i) p (bs.take room)) n note (i + room) (p.plus room) (bs.drop room)

def State.markedWrite (s : State) (n : Option Nat) (note : Nat → Record) (i : Nat) : List Piece → Marked → State
  | [], _ => s
  | (p, k) :: ps, bs => (State.pieceWrite (k + 1) s n note i p (bs.take k)).markedWrite n note (i + k) ps (bs.drop k)

/-- The record of a partial store by a transfer of wave `w`, at byte `k` of row `i` of a box: DATA0 is the element's place in the box, or the lane of a
gather's row (R332; log entry 113). -/
def Transfer.note (t : Transfer) (w : Wave) (b : BoxGeom) (lane : Option Nat) (i k : Nat) : Record :=
  { (Record.partialStore (dieLoc t.die 11 0)).ofWave w with
    pc := t.pc.truncate 32, data0 := BitVec.ofNat 64 (lane.getD (i * b.elems + 2 * k / b.es)) }

/-- The .q offsets that a row of the box goes to, with their lanes. -/
def BoxGeom.targets (b : BoxGeom) : List (DWord × Option Nat) := (b.q :: b.also).mapIdx (fun j q => (q, b.lanes[j]?))

/-- The pieces of `n` far-side bytes, which the engine reads where `reads` is set; it fills no TLB. A read waits for lines on whose commit
it must wait (R203). -/
def State.farPieces (s : State) (t : Transfer) (k : AccKind) (reads : Bool) (o n : Nat) : Access (List Piece) :=
  match t.far with
  | .d => .ok [(.die t.segDie (t.fbase + o), n)]
  | .g =>
    (s.reach t.agent k false (splitPages (n / 2 ^ 16 + 2) (t.fbase + o) n)).andThen fun r =>
    if reads ∧ s.anyLocked (some t.wave) r.2 then .hold else .ok r.2

def Transfer.qPiece (t : Transfer) (o n : Nat) : Piece := (.scratch t.die t.quad (t.qbase + o), n)

/-- Keep the lower nibble of the last byte and take the upper one from `old`. -/
def mergeNibble (bs old : Marked) : Marked :=
  match bs.getLast?, old.getLast? with
  | some b, some o =>
    bs.dropLast ++ [(BitVec.ofNat 8 (b.1.toNat % 16 + o.1.toNat / 16 * 16), b.2 || o.2)]
  | _, _ => bs

/-- The bytes of a store at pieces `ps` whose last byte keeps its upper nibble, `old` being what stands there. A poisoned granule is not
covered whole and keeps what it has (R172, R230): the byte is left out where other bytes of its granule go with it. -/
def halfStore (ps : List Piece) (bs old : Marked) : Marked :=
  match old.getLast?, ps.getLast? with
  | some (_, true), some (p, k) => if (p.plus (k - 1)).addr % p.granule ≠ 0 ∧ 1 < bs.length then bs.dropLast else mergeNibble bs old
  | _, _ => mergeNibble bs old

/-- Row `i` of a box that loads into .q: masked elements are written as 0 (R230, R231). -/
def State.loadRow (s : State) (t : Transfer) (w : Wave) (b : BoxGeom) (i : Nat) : Access State :=
  let n := if i < b.vrows then b.validBytes else 0
  (s.farPieces t .load true (rowAt b.f b.fstr i) n).andThen fun ps =>
  let bs := s.markedRead t.agent ps
  let now := if b.nibble then mergeNibble bs [(0, false)] else bs
  let row := now ++ List.replicate (b.rowBytes - n) (0, false)
  .ok (b.targets.foldl (fun s x =>
    let q := rowAt x.1 b.qstr i
    (s.markedWrite (some t.wave) (t.note w b x.2 i) 0 [t.qPiece q b.rowBytes] row).mark w .q (q + b.rowBytes)) s)

/-- Row `i` of a box that stores to the far side: the valid elements only; a masked nibble is read and kept (R230). The engine's read of
that byte needs no R of its page, of which the spec says nothing (log entry 90). -/
def State.storeRow (s : State) (t : Transfer) (w : Wave) (b : BoxGeom) (i : Nat) : Access State :=
  (s.farPieces t .store b.nibble (rowAt b.f b.fstr i) b.validBytes).andThen fun ps =>
  let bs := s.markedRead t.agent [t.qPiece (rowAt b.q b.qstr i) b.validBytes]
  .ok (s.markedWrite (some t.wave) (t.note w b none i) 0 ps (if b.nibble then halfStore ps bs (s.markedRead t.agent ps) else bs))

/-! ### Puts (R232) -/

/-- The fields of a remote address. -/
def remoteMod (x : DWord) : Fin 64 := Fin.ofNat 64 (fld x.toNat 58 6)
def remoteDie (x : DWord) : Fin 4 := Fin.ofNat 4 (fld x.toNat 56 2)
def remoteZero (x : DWord) : Nat := fld x.toNat 27 29
def remoteAddr (x : DWord) : Nat := fld x.toNat 0 27

/-- The 256-byte flits of the bytes at a remote address (R232); the last carries whether its last byte is a nibble. A flit whose address
leaves the 27 bits of ADDR lies outside every window: there is none to send. `fuel` bounds them. -/
def putFlits (f : DWord → Marked → Bool → PutPacket) : Nat → DWord → Marked → Bool → List PutPacket
  | 0, _, _, _ => []
  | fuel + 1, a, bs, half =>
    let room := 256 - a.toNat % 256
    let last := decide (bs.length ≤ room)
    (if remoteZero a = 0 then [f a (bs.take room) (half && last)] else []) ++
    (if last then [] else putFlits f fuel (a + BitVec.ofNat 64 room) (bs.drop room) half)

/-- A packet of a put. The destination partition has the number of the sending one (log entry 28). -/
def State.putPacket (s : State) (t : Transfer) (a : DWord) (bs : Marked) (half : Bool) : PutPacket :=
  { srcMod := s.module, srcPart := t.part, dstMod := remoteMod a, dstPart := t.part, die := remoteDie a, addr := remoteAddr a,
    data := bs, half }

/-- Row `i` of a put is sent. -/
def State.sendRow (s : State) (t : Transfer) (b : BoxGeom) (i : Nat) : State :=
  let bs := s.markedRead t.agent [t.qPiece (rowAt b.q b.qstr i) b.validBytes]
  { s with
    outbox := s.outbox ++
      (putFlits (s.putPacket t) (b.validBytes / 256 + 2) (BitVec.ofNat 64 (rowAt b.f b.fstr i)) bs b.nibble).map Message.put }

/-- A row of the box has a byte whose address leaves the 27 bits of ADDR. -/
def BoxGeom.remoteOut (b : BoxGeom) : Bool :=
  b.fSpans.any (fun x => remoteZero (BitVec.ofNat 64 x.1) ≠ 0 ∨ 2 ^ 27 < remoteAddr (BitVec.ofNat 64 x.1) + x.2)

/-- The final packet. -/
def State.putSignal (s : State) (t : Transfer) : PutSig :=
  { srcMod := s.module, srcPart := t.part, dstMod := remoteMod t.sig, dstPart := t.part, die := remoteDie t.sig,
    addr := remoteAddr t.sig, dec := t.dec }

/-! ## The end of a transfer (R218, R226, R228, R238) -/

def Quad.stream (q : Quad) (i : Fin 16) : Stream := look .idle q.streams i.val

/-- The stream and the interlock entry of transfer `n` are free; `stat` is what `cpnest.stat` returns from now on. -/
def State.freeStream (s : State) (n : Nat) (t : Transfer) (stat : Fin 4) : State :=
  let q := s.quad t.die t.quad
  let w := s.wave t.wave
  let s1 := s.setQuad t.die t.quad
    { q with streams := put q.streams t.stream.val { q.stream t.stream with busy := none, stat } }
  let s2 := s1.setWave t.wave { w with locks := w.locks.filter (fun i => i.owner ≠ n) }
  { s2 with transfers := drop s2.transfers n }

/-- The workgroup of a wave by its number. -/
def wgOf (n : Nat) : Nat := n / 16 % 4

/-- The completion object of a transfer takes note: an arrival with PEND − 1 at a named barrier, or the publication of a ring's slot.
Where the transfer has failed, only its count of pending transfers falls. -/
def State.signalEnd (s : State) (t : Transfer) (arrives : Bool) : State :=
  let g := s.gang t.gang
  match t.kind with
  | .ldr rg slot =>
    let r := g.ring rg
    let r1 := if arrives then r.publish slot .filling else r
    s.setGang t.gang (g.setRing rg { r1 with ldr := r1.ldr - 1 })
  | _ =>
    let b := g.bar (wgOf t.wave) t.nb
    let b1 := if arrives then b.arrive else b
    s.setGang t.gang (g.setBar (wgOf t.wave) t.nb { b1 with pend := b1.pend - 1 })

/-- A transfer completes (R226): its object is told, in the same step every waiter that this satisfies goes on. `stat` is what a nest
leaves for `cpnest.stat`. -/
def State.completeTransfer (s : State) (n : Nat) (t : Transfer) (stat : Fin 4) : State :=
  ((s.freeStream n t stat).signalEnd t true).settle

/-- The stream ends, and the gang is stopped as for an undelivered trap of `cause` (R228). -/
def State.failTransfer (s : State) (n : Nat) (t : Transfer) (cause : BitVec 8) : State :=
  (((s.freeStream n t 0).signalEnd t false).lose t.wave cause).settle

/-- KIND of a fault-service request from a stream (R316). -/
def copyKind (load : Bool) : Nat := if load then 4 else 5

/-- What a failed move comes to: only that stream stalls, or the stream ends, or the bytes cannot be moved yet (R228). -/
def State.moveFailed (s : State) (n : Nat) (t : Transfer) (load : Bool) : Access State → State
  | .ask _ c va =>
    let s1 := { s with transfers := put s.transfers n { t with stall := some s.tag } }
    s1.request (.stream n) t.die t.asid t.part (copyKind load) c va (s.gang t.gang).task
  | .trap c _ => s.failTransfer n t c
  | .lost c => s.failTransfer n t c
  | _ => s

/-! ## Service (R226, R227, R235) -/

/-- A nest, and whether it loads. -/
def XferKind.isNest : XferKind → Bool
  | .nest _ => true
  | _ => false

/-- Whether the copy writes into .q. -/
def XferKind.loads : XferKind → Bool
  | .st => false
  | .put => false
  | .nest load => load
  | _ => true

/-- The rows of a box that hold bytes to move. -/
def BoxGeom.rowsDue (load : Bool) (b : BoxGeom) : Nat :=
  if load then (if b.rowBytes = 0 then 0 else b.rows) else if b.validBytes = 0 then 0 else b.vrows

/-- Whether the transfer has a row for the engine to serve: a stop lets a box that has begun go on, and no further box begins (R235). -/
def Transfer.due (t : Transfer) : Bool := t.boxes ≠ [] && !(t.stop && !t.begun) && t.stall.isNone

/-- Row `t.row` of the first box. -/
def State.moveRow (s : State) (t : Transfer) (b : BoxGeom) : Access State :=
  let w := s.wave t.wave
  match t.kind with
  | .put => .ok (s.sendRow t b t.row)
  | k => if k.loads then s.loadRow t w b t.row else s.storeRow t w b t.row

/-- The first box of transfer `n` is done; a nest counts it. -/
def State.boxDone (s : State) (n : Nat) (t : Transfer) (rest : List BoxGeom) : State :=
  let q := s.quad t.die t.quad
  let x := q.stream t.stream
  let s1 := if t.kind.isNest then
      s.setQuad t.die t.quad { q with streams := put q.streams t.stream.val { x with boxes := x.boxes + 1 } }
    else s
  { s1 with transfers := put s1.transfers n { t with boxes := rest, row := 0, begun := false } }

/-- The engine serves transfer `n` one row (R227); the Bool tells whether anything came of it. A row that waits for a locked line is served
before the next lock (R203). -/
def State.serveRow (s0 : State) (n : Nat) (t : Transfer) : State × Bool :=
  let s := s0.relieved (.stream n)
  match t.boxes with
  | [] => (s, false)
  | b :: bs =>
    if b.rowsDue t.kind.loads ≤ t.row then (s.boxDone n t bs, true)
    else match s.moveRow t b with
      | .ok s1 =>
        if t.row + 1 = b.rowsDue t.kind.loads then (s1.boxDone n t bs, true)
        else ({ s1 with transfers := put s1.transfers n { t with row := t.row + 1, begun := true } }, true)
      | .hold => (s.stallLine (.stream n), false)
      | x => (s.moveFailed n { t with begun := true } t.kind.loads x, true)

/-- The transfer of the stream whose turn is next: the first after the one served last that has a row due. -/
def State.nextStream (s : State) (die : Fin 4) (quad : Fin 36) : Option (Fin 16 × Nat) :=
  let q := s.quad die quad
  ((List.range 16).map (fun j => (Fin.ofNat 16 (q.served + 1 + j) : Fin 16))).findSome? (fun i =>
    match (q.stream i).busy with
    | some n => if (s.xfer n).due then some (i, n) else none
    | none => none)

/-- The engine of transfer `n` serves its streams, one row each in turn, until at most `left` boxes of `n` are left, or `n` can get no
further now. `fuel` bounds the rows. -/
def State.serve : Nat → State → Nat → Nat → State
  | 0, s, _, _ => s
  | fuel + 1, s, n, left =>
    let t := s.xfer n
    if (lookOpt s.transfers n).isNone ∨ ¬ t.due ∨ t.boxes.length ≤ left then s
    else match s.nextStream t.die t.quad with
      | none => s
      | some (i, m) =>
        let s1 := s.setQuad t.die t.quad { s.quad t.die t.quad with served := i.val }
        let r := s1.serveRow m (s1.xfer m)
        if m = n ∧ ¬ r.2 then r.1 else State.serve fuel r.1 n left

/-- The rows that the engine serves at most until `t` is done: all sixteen streams have a turn for each of its rows. -/
def Transfer.turns (t : Transfer) : Nat := 16 * (t.boxes.foldl (fun n b => n + b.rowsDue t.kind.loads + 1) 1)

/-- A put ends: with every packet acknowledged the signal is sent and the put arrives at its barrier; else, or where a byte or the counter
lies outside every window, it is an undelivered PROTECT with a record of type 0x0050 (R232). So is one whose counter is no multiple of 4,
for which the spec gives no effect (log entry 91). -/
def State.endPut (s : State) (n : Nat) (t : Transfer) (delivered : Bool) : State :=
  if delivered ∧ ¬ t.out ∧ (t.dec = 0 ∨ remoteAddr t.sig % 4 = 0) then
    (if t.dec = 0 then s else s.send (.signal (s.putSignal t))).completeTransfer n t 0
  else
    let port := Config.linkError s.fresh
    let s1 := { s with fresh := s.fresh + 2 }
    let r : Record := { (Record.blank 0x0050 2 (dieLoc t.die 14 (port % 2 ^ 16))).ofWave (s.wave t.wave) with
      pc := t.pc.truncate 32
      data0 := BitVec.ofNat 64 port
      data1 := BitVec.ofNat 64 (Config.linkError (s.fresh + 1)) }
    (s1.report t.die (s1.policyMark t.gang r)).failTransfer n t causeProtect

/-- Transfer `n` completes if it has no box to move any more and what it wrote is performed (R226). A stopped nest whose last box had begun has moved
all its boxes, and has completed (log entry 107). -/
def State.finishTransfer (s : State) (n : Nat) (delivered : Bool) : State :=
  match lookOpt s.transfers n with
  | none => s
  | some t =>
    if t.stall.isSome ∨ t.due ∨ s.commitsOf t.wave then s
    else match t.kind with
      | .put => s.endPut n t delivered
      | .nest _ => s.completeTransfer n t (if t.boxes = [] then 2 else 3)
      | _ => s.completeTransfer n t 0

/-- COPY_COMPLETION of transfer `n`: the engine serves its streams until `n` is done, or one more box of a nest is, and `n` completes when
it has nothing left. `delivered` matters only to a put, whose packets the other module acknowledges. A number that is no transfer, or a
stalled one, is left alone. -/
def execCopyCompletion (transfer : Nat) (delivered : Bool) (s : State) : Out :=
  match lookOpt s.transfers transfer with
  | none => .next s
  | some t =>
    if t.stall.isSome then .next s
    else
      let left := if t.kind.isNest then t.boxes.length - 1 else 0
      .next ((State.serve t.turns s transfer left).finishTransfer transfer delivered)

/-! ## Issue (R227, R228, R231) -/

/-- The streams of a quad that are free. -/
def Quad.freeStreams (q : Quad) : List (Fin 16) := (List.finRange 16).filter (fun i => (q.stream i).busy.isNone)

/-- Step 2 of R228: the .q side first, then the far side. -/
def copyOut (w : Wave) (far : Space) (q f : List Span) : Option DWord :=
  match spansOut w.seg.q.limit.toNat q with
  | some o => some (spaceInfo .q o)
  | none => (spansOut (w.segment far).limit.toNat f).map (spaceInfo far)

/-- What a copy is, beside what the state gives: its kind, its boxes, its sides. -/
structure CopySpec where
  kind  : XferKind
  far   : Far
  nb    : Fin 16
  boxes : List BoxGeom
  src   : Option Range
  dst   : Option Range
  deriving DecidableEq, Repr

/-- The transfer that issues on stream `i`. -/
def State.newTransfer (s : State) (c : CopySpec) (i : Fin 16) : Transfer :=
  let w := s.me
  let base := match c.far with
    | .g => w.seg.g.base.toNat
    | .d => w.seg.d.base.toNat
  { wave := s.cur, gang := w.id.gang, die := w.id.place.die, quad := w.id.place.quad, stream := i, kind := c.kind, far := c.far,
    asid := w.id.asid.toNat, part := w.id.part, segDie := s.segDie w, nb := c.nb, pc := w.run.pc,
    qbase := w.seg.q.base.toNat, fbase := base, boxes := c.boxes, row := 0, begun := false, stop := false,
    out := decide (c.kind = .put) && c.boxes.any BoxGeom.remoteOut,
    sig := w.sr.sig0, dec := w.sr.sig1, stall := none }

/-- PEND + 1, or the ring's slot from RESERVED to FILLING. -/
def State.startObject (s : State) (c : CopySpec) : State :=
  let w := s.me
  let g := s.gang w.id.gang
  match c.kind with
  | .ldr rg slot =>
    let r := g.ring rg
    s.setGang w.id.gang (g.setRing rg { r.setSlot slot .filling with ldr := r.ldr + 1 })
  | _ =>
    let b := g.bar w.id.wg.val c.nb
    s.setGang w.id.gang (g.setBar w.id.wg.val c.nb { b with pend := b.pend + 1 })

/-- Whether a transfer touches no byte (R228); a put that signals has its final packet to send. -/
def CopySpec.empty (c : CopySpec) (signals : Bool) : Bool := c.src.isNone && c.dst.isNone && !signals

/-- A copy instruction issues only when a stream and an interlock entry are free (R227); which of the free streams it takes is a choice of
the hardware. -/
def State.withStream (s : State) (body : Fin 16 → Out) : Out :=
  let w := s.me
  match w.freeLock with
  | .ok () =>
    let frees := (s.quad w.id.place.die w.id.place.quad).freeStreams
    match frees[Config.streamPick s.fresh % frees.length]? with
    | none => s.hold
    | some i => body i
  | x => s.failed w .store s.hold x

/-- It issues only when no pending transfer of the wave overlaps its ranges (R225). -/
def State.whenClear (s : State) (src dst : Option Range) (body : Out) : Out :=
  match s.me.lockXfer src dst with
  | .ok () => body
  | x => s.failed s.me .store s.hold x

/-- Issue a checked copy on stream `i`; one that touches no byte completes at once, which is a release (R226, R228). `after` is what the
word writes to the wave. -/
def State.issueCopy (s : State) (c : CopySpec) (i : Fin 16) (signals : Bool) (after : Wave → Wave) : Out :=
  let t := s.newTransfer c i
  let n := s.seq
  let s1 := ({ s with fresh := s.fresh + 1 }.next).startObject c
  let q := s1.quad t.die t.quad
  let none := c.empty signals
  let s2 := s1.setQuad t.die t.quad
    { q with streams := put q.streams i.val
               { busy := some n, gang := t.gang,
                 boxes := if none ∧ c.kind.isNest then BitVec.ofNat 32 c.boxes.length else 0,
                 stat := if c.kind.isNest then 1 else 0 } }
  let s3 := s2.setMe { (after s2.me) with locks := s2.me.locks ++ [(⟨n, c.src, c.dst⟩ : Interlock)] }
  let s4 := s3.setMe (s3.me.past 1)
  if none then s.afterStores false (.next (s4.completeTransfer n t (if c.kind.isNest then 2 else 0)))
  else .next { s4 with transfers := put s4.transfers n t }

/-- A copy names a valid barrier (R216, R228 step 1). -/
def State.whenValid (s : State) (b : NamedBar) (body : Out) : Out := if ¬ b.valid then s.trapWord causeBarInvalid else body

/-- `cp.ld` and `cp.st` after their common checks. -/
def State.boxCopy (s : State) (load : Bool) (kind : XferKind) (far : Far) (nb : Fin 16) (b : BoxGeom) : Out :=
  let w := s.me
  let qs := b.qSpans load
  let q := s.spansRange w .q qs
  let f := s.spansRange w (farSpace far) b.fSpans
  let src := if load then f else q
  let dst := if load then q else f
  s.withBar nb fun _ x => s.withStream fun i => s.whenClear src dst (s.whenValid x (
    match copyOut w (farSpace far) qs b.fSpans with
    | some o => s.trap causeSegment o
    | none => s.issueCopy { kind, far, nb, boxes := [b], src, dst } i false id))

/-- `cp.ld` (R231). -/
def execCpLd (sa sb : SReg) (nb : Fin 16) (bx : Box) (xs : Far) (s : State) : Out :=
  s.boxCopy true .ld xs nb ((s.me.shape bx).place (s.me.rs sa) (s.me.rs sb) s.me.sr.cpld)

/-- `cp.st` (R231). -/
def execCpSt (sa sb : SReg) (nb : Fin 16) (bx : Box) (xs : Far) (s : State) : Out :=
  s.boxCopy false .st xs nb ((s.me.shape bx).place (s.me.rs sa) (s.me.rs sb) s.me.sr.cpld)

/-- The remote addresses of a put that must have a zero field: the destination's, and the counter's if a signal is sent (R232). -/
def Wave.remoteBad (w : Wave) (sb : SReg) : Option DWord :=
  if remoteZero (w.rs sb) ≠ 0 then some (w.rs sb)
  else if w.sr.sig1 ≠ 0 ∧ remoteZero w.sr.sig0 ≠ 0 then some w.sr.sig0
  else none

/-- `cp.put` (R232): profile 3. A nonzero zero field of a remote address raises SEGMENT; %tinfo is the whole address (log entry 75). -/
def execCpPut (sa sb : SReg) (nb : Fin 16) (bx : Box) (s : State) : Out :=
  let w := s.me
  let b := (w.shape bx).place (w.rs sa) (w.rs sb) w.sr.cpld
  let qs := b.qSpans false
  let src := s.spansRange w .q qs
  s.checked ⟨3, false, false, []⟩ (s.withBar nb fun _ x => s.withStream fun i => s.whenClear src none (s.whenValid x (
    match spansOut w.seg.q.limit.toNat qs with
    | some o => s.trap causeSegment (spaceInfo .q o)
    | none => match w.remoteBad sb with
      | some a => s.trap causeSegment a
      | none => s.issueCopy { kind := .put, far := .d, nb, boxes := [b], src, dst := none } i (w.sr.sig1 ≠ 0) id)))

/-- `cp.ldr` (R231): into a RESERVED slot of a ring. -/
def execCpLdr (sa sb : SReg) (rg : Fin 8) (bx : Box) (xs : Far) (s : State) : Out :=
  s.withRing rg fun g r => s.withStream fun i =>
    let w := s.me
    let slot := (w.rs sa).toNat % r.slots
    let q0 : DWord := BitVec.ofNat 64 (r.base + slot * r.bytes)
    let h := w.shape bx
    let b := h.place q0 (w.rs sb) w.sr.cpld
    let src := s.spansRange w (farSpace xs) b.fSpans
    let dst := s.spansRange w .q (b.qSpans true)
    if ¬ r.made then s.trapWord causeBarInvalid
    else s.whenClear src dst (
      match copyOut w (farSpace xs) (b.qSpans true) b.fSpans with
      | some o => s.trap causeSegment o
      | none =>
        if r.slot slot ≠ .reserved then (s.setGang w.id.gang (g.setRing rg { r with err := true })).done w
        else if (r.bytes : Int) < h.rows * h.qstr.toInt then s.trap causeSegment (spaceInfo .q q0.toNat)
        else s.issueCopy { kind := .ldr rg slot, far := xs, nb := 0, boxes := [b], src, dst } i false id)

/-! ## Copy nests (R233 to R235) -/

/-- A level of a nest with the grants applied. -/
structure NestLevel where
  count : Nat
  q     : DWord
  f     : DWord
  dim   : Option Dim
  total : Nat
  deriving DecidableEq, Repr

/-- Whether a copy program breaks R233. -/
def badNest (bs : List Byte) : Bool :=
  let n := field bs 2 1
  1 < field bs 0 1 ∨ 1 < field bs 1 1 ∨ n = 0 ∨ 6 < n ∨ 3 < field bs 3 1 ∨ field bs 4 4 ≠ 0 ∨ field bs 0xC 4 ≠ 0 ∨
  field bs 0x18 8 ≠ 0 ∨ field bs (0x20 + 16 * n) (96 - 16 * n) ≠ 0 ∨
  (List.range n).any (fun j => 1 < fld (field bs (0x20 + 16 * j) 4) 30 2)

def dimOf (x : Nat) : Dim :=
  match x with
  | 0 => .m
  | 1 => .n
  | 2 => .k
  | _ => .vl

/-- ⌈a ÷ b⌉, 0 where `b` is 0 (R233). -/
def ceilDiv (a b : Nat) : Nat := if b = 0 then 0 else (a + b - 1) / b

/-- Level `j` under the grants in force. -/
def Wave.nestLevel (w : Wave) (bs : List Byte) (j : Nat) : NestLevel :=
  let o := 0x20 + 16 * j
  let c := field bs o 4
  let q : DWord := (BitVec.ofNat 32 (field bs (o + 4) 4)).signExtend 64
  let f : DWord := BitVec.ofNat 64 (field bs (o + 8) 8)
  if fld c 30 2 = 0 then { count := fld c 0 30, q, f, dim := none, total := 0 }
  else
    let d := dimOf (fld c 28 2)
    let g := w.granted d
    { count := ceilDiv (fld c 0 28) g, q := q * BitVec.ofNat 64 g, f := f * BitVec.ofNat 64 g, dim := some d,
      total := fld c 0 28 }

/-- The iteration vectors, the outermost level slowest; a vector lists the innermost level first (R234). -/
def iterations : List Nat → List (List Nat)
  | [] => [[]]
  | c :: cs => (iterations cs).flatMap (fun rest => (List.range c).map (fun i => i :: rest))

/-- The valid count of a dimension at an iteration: the innermost level that counts it decides (R234). -/
def validAt (w : Wave) (d : Dim) (v : Nat) (ls : List (NestLevel × Nat)) : Nat :=
  match ls.find? (fun x => x.1.dim = some d) with
  | none => v
  | some x => min (w.granted d) (x.1.total - x.2 * w.granted d)

/-- The dimensions of a box's rows and elements. -/
def boxDims : Box → Dim × Dim
  | .a => (.m, .k)
  | .b => (.k, .n)
  | .c => (.m, .n)
  | .x => (.vl, .vl)

/-- The box of one iteration. -/
def Wave.nestBox (w : Wave) (bx : Box) (q0 f0 : DWord) (ls : List (NestLevel × Nat)) : BoxGeom :=
  let h := w.shape bx
  let q := ls.foldl (fun a x => a + BitVec.ofNat 64 x.2 * x.1.q) q0
  let f := ls.foldl (fun a x => a + BitVec.ofNat 64 x.2 * x.1.f) f0
  let h1 := if bx = .x then h
    else { h with vrows := validAt w (boxDims bx).1 h.vrows ls, velems := validAt w (boxDims bx).2 h.velems ls }
  h1.place q f w.sr.cpld

def boxOf (x : Nat) : Box :=
  match x with
  | 0 => .a
  | 1 => .b
  | 2 => .c
  | _ => .x

/-- Every box of a nest in the order in which it is emitted. -/
def Wave.nestBoxes (w : Wave) (bs : List Byte) : List BoxGeom :=
  let ls := (List.range (field bs 2 1)).map (w.nestLevel bs)
  (iterations (ls.map (·.count))).map (fun it =>
    w.nestBox (boxOf (field bs 3 1)) (BitVec.ofNat 64 (field bs 8 4)) (BitVec.ofNat 64 (field bs 0x10 8)) (ls.zip it))

/-- `cpnest.run` (R234), with the 128 bytes of its copy program. -/
def State.runNest (s : State) (sd : SReg) (nb : Fin 16) (x : NamedBar) (i : Fin 16) (bs : List Byte) : Out :=
  let w := s.me
  let load : Bool := field bs 0 1 = 0
  let far : Far := if field bs 1 1 = 0 then .g else .d
  let boxes := w.nestBoxes bs
  let qs := boxes.flatMap (BoxGeom.qSpans load)
  let fs := boxes.flatMap BoxGeom.fSpans
  let q := s.spansRange w .q qs
  let f := s.spansRange w (farSpace far) fs
  let src := if load then f else q
  let dst := if load then q else f
  if badNest bs then s.trapWord causeIllegalOp
  else s.whenClear src dst (s.whenValid x (
    match copyOut w (farSpace far) qs fs with
    | some o => s.trap causeSegment o
    | none =>
      s.issueCopy { kind := .nest load, far, nb, boxes, src, dst } i false (fun w => w.setS sd (BitVec.ofNat 64 i.val))))

def execCpnestRun (sd sa : SReg) (nb : Fin 16) (s : State) : Out :=
  s.withBar nb fun _ x => s.withStream fun i =>
    let w := s.me
    let o := (w.rs sa).toNat
    if o % 128 ≠ 0 then s.trap causeMisaligned (spaceInfo .c o)
    else if ¬ w.inRange .c o 128 then s.trap causeSegment (spaceInfo .c o)
    else match s.loadAt w .c w.run.mask 0 o 128 with
      | .ok (s1, bs) => s1.runNest sd nb x i bs
      | x => s.failed w .load s.hold x

/-- The stream that s[sa][3:0] names, if it holds a nest of the wave's gang (R235). -/
def State.nestStream (s : State) (sa : SReg) : Option (Fin 16 × Stream) :=
  let w := s.me
  let i : Fin 16 := Fin.ofNat 16 (w.rs sa).toNat
  let x := (s.quad w.id.place.die w.id.place.quad).stream i
  if x.stat ≠ 0 ∧ x.gang = w.id.gang then some (i, x) else none

/-- `cpnest.stop` (R235). -/
def execCpnestStop (sa : SReg) (s : State) : Out :=
  match s.nestStream sa with
  | some (_, ⟨some n, _, _, _⟩) =>
    { s with transfers := put s.transfers n { s.xfer n with stop := true } }.done s.me
  | _ => s.done s.me

/-- `cpnest.stat` (R235). -/
def execCpnestStat (sd sa : SReg) (s : State) : Out :=
  match s.nestStream sa with
  | some (_, x) => s.putS sd (BitVec.ofNat 64 (x.boxes.toNat + x.stat.val * 2 ^ 32))
  | none => s.putS sd 0

/-! ## Gathers (R236) -/

/-- Whether a lower lane of `m` holds the index of lane `l`. -/
def Wave.duplicate (w : Wave) (vb : VReg) (m : BitVec 64) (l : Lane) : Bool :=
  (lanesOf m).any (fun j => j < l ∧ w.rv vb j = w.rv vb l)

/-- The row of lane `l`, as a box of one row. -/
def Wave.gatherRow (w : Wave) (vb : VReg) (q0 f0 : DWord) (l : Lane) : BoxGeom :=
  let n := w.sr.cprow.toNat
  { rows := 1, elems := n, es := 2, vrows := 1, velems := n,
    q := q0 + BitVec.ofNat 64 l.val * BitVec.ofNat 64 n, qstr := 0,
    f := f0 + (w.rv vb l).zeroExtend 64 * w.sr.cpld, fstr := 0, also := [], lanes := [l.val] }

/-- The rows that are read, one for each index, with the destinations of all of its lanes. -/
def Wave.gatherBoxes (w : Wave) (vb : VReg) (q0 f0 : DWord) : List BoxGeom :=
  let ls := lanesOf w.act
  (ls.filter (fun l => !w.duplicate vb w.act l)).map (fun l =>
    let others := ls.filter (fun j => decide (l < j) && decide (w.rv vb j = w.rv vb l))
    { w.gatherRow vb q0 f0 l with
      also := others.map (fun j => (w.gatherRow vb q0 f0 j).q)
      lanes := l.val :: others.map (·.val) })

/-- Step 2 of R228 row by row, the .q destination of each before its .g source. -/
def gatherOut (w : Wave) (rows : List BoxGeom) : Option DWord :=
  rows.foldl (fun r b => match r with
    | some i => some i
    | none => copyOut w .g (b.qSpans true) b.fSpans) none

/-- `cp.gath` (R236). -/
def execCpGath (kd : KReg) (vb : VReg) (sa sb : SReg) (nb : Fin 16) (s : State) : Out :=
  let w := s.me
  let rows := (lanesOf w.act).map (w.gatherRow vb (w.rs sa) (w.rs sb))
  let src := s.spansRange w .g (rows.flatMap BoxGeom.fSpans)
  let dst := s.spansRange w .q (rows.flatMap (BoxGeom.qSpans true))
  s.withBar nb fun _ x => s.withRegs [vb] (s.withStream fun i => s.whenClear src dst (s.whenValid x (
    match gatherOut w rows with
    | some o => s.trap causeSegment o
    | none =>
      s.issueCopy { kind := .gath, far := .g, nb, boxes := w.gatherBoxes vb (w.rs sa) (w.rs sb), src, dst } i false
        (fun w => (w.setKLanes kd w.act (fun l => w.duplicate vb w.act l)).clearStart))))

/-! ## Puts from other modules (R232, R353) -/

/-- Whether a window of the destination partition matches the source, the die and every byte (R353). -/
def Partition.admits (p : Partition) (mod : Fin 64) (part : Fin 8) (die : Fin 4) (addr n : Nat) : Bool :=
  p.windows.any (fun x => x.srcMod = mod && x.srcPart = part && x.die = die && decide (x.base ≤ addr) &&
    decide (addr + n ≤ x.base + x.size))

/-- Write the bytes of a packet to die memory, word by word. -/
def State.putWrite (s : State) (d : Fin 4) (a : Nat) (bs : Marked) : State :=
  State.pieceWrite (bs.length + 1) s none (fun _ => Record.partialStore (dieLoc d 14 0)) 0 (.die d a) bs

/-- PUT_PACKET_ARRIVAL: a packet lands if a window admits it, else it is refused. -/
def execPutPacketArrival (p : PutPacket) (s : State) : Out :=
  let x := s.partn p.dstPart
  if x.made ∧ p.dstMod = s.module ∧ x.admits p.srcMod p.srcPart p.die p.addr p.data.length then
    let d := x.physDie p.die.val
    let old := s.markedRead ⟨0, 0, d, none⟩ [(.die d p.addr, p.data.length)]
    .next (s.putWrite d p.addr (if p.half then halfStore [(.die d p.addr, p.data.length)] p.data old else p.data))
  else .next s

/-- PUT_SIGNAL: counter ← counter − SIGDEC at the bank of the word (R232). A counter in a poisoned word keeps what it has, without a
record (log entry 76). -/
def execPutSignal (p : PutSig) (s : State) : Out :=
  let x := s.partn p.dstPart
  if x.made ∧ p.dstMod = s.module ∧ p.addr % 4 = 0 ∧ x.admits p.srcMod p.srcPart p.die p.addr 4 then
    let d := x.physDie p.die.val
    if (s.die d).poisoned p.addr 4 then .next s
    else
      let old : Word := BitVec.ofNat 32 (leNat ((s.die d).bytes p.addr 4))
      .next (s.putWrite d p.addr ((bytesOfNat 4 (old - p.dec).toNat).map (fun b => (b, false))))
  else .next s

end Sys2Proof.Machine
end

