-- ==== Sys2Proof/Machine/Fetch.lean ====
section
/-! DEFINITION. Choosing what issues (R100, R160), fetching and checking a packet (R14 to R17, R22, R57), and what surrounds the
execution of a word: the launch entry of R338, the age queue and the turns of waves (R160), late stores (R109), and shadows (R327). -/

namespace Sys2Proof.Machine

/-! ## Patches (R55, R57) -/

/-- Put `len` bits of `x` at bit `lo` of a word. -/
def setBits (w : Word) (lo len x : Nat) : Word :=
  BitVec.ofNat 32 (w.toNat - fld w.toNat lo len * 2 ^ lo + x % 2 ^ len * 2 ^ lo)

/-- Bytes of the access that sz selects in `ld` and `st` (R33). -/
def szBytes (w : Word) : Nat :=
  match fld w.toNat 7 3 with
  | 0 => 1
  | 1 => 1
  | 2 => 2
  | 3 => 2
  | 4 => 4
  | 5 => 4
  | _ => 8

/-- Word `i` of the code as patch `p` leaves it (R57). -/
def Patch.apply (p : Patch) (i : Nat) (w : Word) : Word :=
  if p.kind = 6 then (if i = p.word + 1 then p.value.truncate 32 else w)
  else if p.kind = 7 then
    (if i = p.word + 1 then p.value.truncate 32 else if i = p.word + 2 then (p.value >>> 32).truncate 32 else w)
  else if i ≠ p.word then w
  else match p.kind with
    | 0 => setBits w 0 10 p.value.toNat
    | 1 => setBits w 0 19 p.value.toNat
    | 2 => setBits w 0 7 (p.value.toNat / szBytes w)
    | 3 => setBits w 6 9 p.value.toNat
    | 4 => setBits w 6 9 p.value.toNat
    | 5 => setBits w 0 10 p.value.toNat
    | _ => w

/-- The word at a code address as the waves of a gang fetch it (R57). -/
def Gang.patched (g : Gang) (va : DWord) (w : Word) : Word :=
  g.patches.foldl (fun w p => p.apply ((va - g.record.entry).toNat / 4) w) w

/-! ## Fetching (R14, R22) -/

/-- Fetch one word. A poisoned granule is met as a load meets one (R172; log entry 24). A fetch reads the newest bytes that are performed when
the packet is fetched; the spec does not order it against data stores (log entry 78). -/
def State.fetchWord (s : State) (w : Wave) (va : DWord) : Access (State × Word) :=
  (s.reach w.agent .fetch false [(va.toNat, 4)]).andThen fun r =>
  if r.1.anyLocked (some s.cur) r.2 then .hold
  else if r.2.any (fun p => r.1.piecePoisoned { w.agent with core := none } p) then .trap causePoison va
  else
    let bs := r.2.flatMap (fun p => r.1.rawBytes p.1 p.2)
    .ok (r.1, (s.gang w.id.gang).patched va (BitVec.ofNat 32 (leNat bs)))

/-- The address from which the run's packet may not be fetched: no word, not a packet start at ENTRY (R13), or not a packet
start at %thb (R28). A packet start is a multiple of 12 (R14), against the address at which R295 places its code (log entry 86). -/
def Wave.badPc (w : Wave) : Bool :=
  let pc := w.run.pc
  pc.toNat % 4 ≠ 0 ∨ (pc.toNat % 12 ≠ 0 ∧ (¬ w.begun ∨ (w.run.kind = .handler ∧ pc = w.sr.thb)))

/-- Fetch and check the packet of the issuing wave's run; it is kept with the run. Otherwise what became of the wave. -/
def State.fetch (s : State) : Except Out (State × Packet) :=
  let w := s.me
  let a := packetStart w.run.pc
  let stop {α : Type} (x : Access α) : Except Out (State × Packet) := .error (s.failed w .fetch s.hold x)
  if w.badPc then .error (s.trap causeMisaligned w.run.pc)
  else match s.fetchWord w a with
    | .ok (s0, w0) =>
      match s0.fetchWord w (a + 4) with
      | .ok (s1, w1) =>
        match s1.fetchWord w (a + 8) with
        | .ok (s2, w2) =>
          let p : Packet := ⟨w0, w1, w2⟩
          if p.legal then
            let w3 := s2.me
            .ok (s2.setMe { w3 with begun := true, run := { w3.run with buf := some p, tied := false } }, p)
          else .error (s2.trap causeIllegalPacket (w0.zeroExtend 64))
        | x => stop x
      | x => stop x
    | x => stop x

/-! ## Which run issues (R100) -/

/-- The lanes of a wave that are parked inside the tree-walk engine, which works for them (R279). -/
def Wave.parkedLanes (w : Wave) : BitVec 64 :=
  w.walks.foldl (fun m e => if e.2.phase = .due then m ||| bit64 e.1 else m) 0

/-- An entry that holds a parked lane. Lanes of a routine that come to its word merge with it, and go on when the parked ones have left
(R98, R100, R101; log entry 87). -/
def Wave.parked (w : Wave) (e : Entry) : Bool := decide (e.kind = .walk) && decide (e.mask &&& w.parkedLanes ≠ 0)

/-- A run whose atomics are on their way to the replicas; it is the run that R100 takes, and its next group waits for them (R20, R203). -/
def Entry.committing (e : Entry) : Bool :=
  match e.wait with
  | some x => x.what = .commits
  | none => false

def Wave.runnable (w : Wave) (e : Entry) : Bool :=
  (e.wait.isNone || e.committing) && !w.parked e && (w.mode = .normal || e.kind = .handler)

/-- Take entry `i` of the table as the run that issues. -/
def Wave.choose (w : Wave) (t : List Entry) (e : Entry) : Wave :=
  { w with run := e, rest := t.filter (fun x => !x.meets e) }

/-- The wave with the run that R100 takes; none where no entry is runnable. Inside a tie group the run goes on. -/
def Wave.pick (w : Wave) : Option Wave :=
  if w.run.tied ∧ w.runnable w.run then some w
  else
    let t := w.table
    (t.find? w.runnable).map (w.choose t)

/-- The run stands inside a tie group and could go on with it. -/
def Wave.midGroup (w : Wave) : Bool := w.run.tied && w.runnable w.run

/-- A gang that has begun to stop lets a wave finish its tie group (R312, R318). -/
def Gang.finishes (g : Gang) : Bool := g.live && !g.frozen && g.place.isSome

/-- Whether wave `n` may issue now. -/
def State.canIssue (s : State) (n : Nat) : Bool :=
  let w := s.wave n
  let g := s.gang w.id.gang
  w.live && w.wait = .none && !w.held && (g.runs || (g.finishes && w.midGroup)) && match w.pick with
    | some x => x.run.wait.isNone
    | none => false

/-! ## Which wave issues (R160) -/

/-- The waves that may issue, with their numbers. -/
def State.readyWaves (s : State) : List Nat := (s.liveWaves.filter (fun e => s.canIssue e.1)).map (·.1)

def State.prio (s : State) (n : Nat) : Nat := (s.gang (s.wave n).id.gang).eprio.val

/-- The place of slot `i` in the round robin of a core (log entry 103). -/
def Core.turnOf (c : Core) (i : Nat) : Nat :=
  match c.order.findIdx? (· = i) with
  | some k => 16 + k
  | none => i

/-- The better of two by a measure, the first when they are equal. -/
def betterOf (f : Nat → Nat) (a b : Nat) : Nat := if f b < f a then b else a

/-- The wave that a core takes among `ns`: the first of the age queue, else the highest priority and the next in its turn. -/
def State.pickWave (s : State) (c : CoreId) (ns : List Nat) : Option Nat :=
  match (s.core c).ageq.find? (fun n => n ∈ ns) with
  | some n => some n
  | none =>
    let top := ns.foldl (fun m n => max m (s.prio n)) 0
    let key (n : Nat) : Nat := (s.core c).turnOf (s.wave n).id.slot.val
    match ns.filter (fun n => s.prio n = top) with
    | [] => none
    | x :: xs => some (xs.foldl (betterOf key) x)

/-- The waves of core `c` among `ns`. -/
def State.onCore (s : State) (c : CoreId) (ns : List Nat) : List Nat := ns.filter (fun n => (s.wave n).id.place = c)

/-- The core that issues when nothing schedules one: the next core after the last one, in order of their numbers. -/
def State.nextCore (s : State) (ns : List Nat) : Option CoreId :=
  let mine := CoreId.key s.me.id.place
  let far (n : Nat) : Nat := (CoreId.key (s.wave n).id.place + 575 - mine) % 576
  match ns with
  | [] => none
  | x :: xs => some (s.wave (xs.foldl (betterOf far) x)).id.place

/-! ## After a word -/

/-- A wave that joins the age queue of its core (R160). -/
def State.joinAge (s : State) (n : Nat) : State :=
  let c := (s.wave n).id.place
  let x := s.core c
  if n ∈ x.ageq then s else s.setCore c { x with ageq := x.ageq ++ [n] }

/-- One more cycle of core `c` without wave `n`: a ready wave counts it, any other leaves the age queue (R160). -/
def State.passOver (s : State) (c : CoreId) (ready : List Nat) (n : Nat) : State :=
  let w := s.wave n
  if n ∈ ready then
    let s1 := s.setWave n { w with ready := min 4096 (w.ready + 1) }
    if 4096 ≤ w.ready + 1 then s1.joinAge n else s1
  else
    let s1 := if w.ready = 0 then s else s.setWave n { w with ready := 0 }
    let x := s1.core c
    if n ∈ x.ageq then s1.setCore c { x with ageq := x.ageq.filter (· ≠ n) } else s1

/-- Wave `n` issues on core `c`: it leaves the age queue and goes to the back of the round robin (R160). -/
def State.takeTurn (s : State) (c : CoreId) (n : Nat) : State :=
  let x := s.core c
  ((s.setCore c { x with ageq := x.ageq.filter (· ≠ n) }).setWave n { s.wave n with ready := 0 }).toBack n

/-- The first issue of a gang since its launch or restoration: an acquire at .pkg (R198, R205), and the launch entry of R338; from the first one
of all its CYCLES count (R148, R341). -/
def State.launchEntry (s : State) : State :=
  let w := s.me
  let g := s.gang w.id.gang
  if g.issued then s
  else
    let s1 := s.setGang w.id.gang { g with issued := true, start := g.start <|> some s.time }
    match g.place with
    | some (d, q, cs) =>
      (s1.acquireAll (cs.map (fun c => ⟨d, q, c⟩))).selvedge d 1 0 (BitVec.ofNat 16 g.asid) (coreLoc ⟨d, q, cs.headD 0⟩ 0x3F 0) noWave
        g.task
    | none => s1

/-- Let every held wave try again. -/
def State.retry (s : State) : State :=
  if s.liveWaves.any (fun e => e.2.held) then
    { s with waves := s.waves.map (fun e => if e.2.held then (e.1, { e.2 with held := false }) else e) }
  else s

/-! ## Late stores (R109, R199) -/

/-- Whether a word passes through the lane groups: those of pipe V, and the vector loads and stores. -/
def laneWord (w : Word) : Bool := pipeOf (wordMaj w) = some .v || (decide (0x23 ≤ wordMaj w) && decide (wordMaj w ≤ 0x2B))

/-- A word leaves the late loads of register `vd` as they are: a word of pipe S, a scalar load or store, or a vector load or store that does
not name the register. Before any other word they are at their end (log entry 89). -/
def keepsLoad (w : Word) (vd : VReg) : Bool :=
  let maj := wordMaj w
  let n := w.toNat
  (pipeOf maj = some .s && maj ≠ 0x0D && maj ≠ 0x0E) || decide (maj = 4) || decide (maj = 5) ||
  (decide (0x23 ≤ maj) && decide (maj ≤ 0x28) && decide (fld n 20 5 ≠ vd.val) && decide (fld n 9 5 ≠ vd.val))

/-- Wave `n` is about to execute a word of the lane groups: none of them is more than %slip steps behind, so the stores of words further back
are performed and the loads of such words have been; the others are one word further back (R109). -/
def State.slipStep (s : State) (n : Nat) : State :=
  let w := s.wave n
  if w.late = [] ∧ w.loads = [] then s
  else
    let s1 := s.performLate n (w.late.takeWhile (fun x => w.sr.slip.toNat ≤ x.steps)).length
    s1.setWave n { s1.wave n with
      late := (s1.wave n).late.map (fun x => { x with steps := x.steps + 1 })
      loads := ((s1.wave n).loads.filter (fun x => x.steps < w.sr.slip.toNat)).map (fun x => { x with steps := x.steps + 1 }) }

/-- Before the issuing wave's word: its step of slip, and the late loads that it ends. -/
def State.beforeWord (s : State) (w : Word) : State :=
  let s1 := if s.me.loads = [] then s else s.setMe { s.me with loads := s.me.loads.filter (fun x => keepsLoad w x.vd) }
  if laneWord w then s1.slipStep s1.cur else s1

/-- As time passes, a late store of a wave may be performed, and late loads anew: which, the hardware chooses. Where the wave is held its
oldest store is performed. -/
def State.drainLate (s : State) (n : Nat) : State :=
  let late := (s.wave n).late
  if late = [] then s
  else
    let s1 : State := { s with fresh := s.fresh + 1 }
    if (s.wave n).held then s1.performLate n 1
    else if Config.storesLate s.fresh then s1
    else s1.performAt n (Config.lateOrder s.fresh % late.length)

def State.drainLoads (s : State) (n : Nat) : State :=
  (s.wave n).loads.foldl (fun s x =>
    if Config.loadsLate s.fresh then ({ s with fresh := s.fresh + 1 } : State).reload n x else { s with fresh := s.fresh + 1 }) s

/-- Every wave's late stores and loads; the waves that are held try again when a store has been performed. -/
def State.drainAll (s : State) : State :=
  let ns := (s.liveWaves.filter (fun e => e.2.late ≠ [] ∨ e.2.loads ≠ [])).map (·.1)
  if ns = [] then s else (ns.foldl (fun s n => (s.drainLoads n).drainLate n) s).retry

/-- Time passes (R37). -/
def State.tick (s : State) : State :=
  let s1 := s.drainAll
  { s1 with time := s1.time + Config.elapsed s1.fresh + 1, fresh := s1.fresh + 1 }

/-! ## After a tie group -/

/-- The word after `t`'s belongs to the same tie group, and the run of `s` goes on with it: it has moved past a tied word of its packet, and
neither the wave nor the run waits. -/
def State.goesOn (s t : State) : Bool :=
  let w := s.me
  let y := t.me
  y.live && y.run.tied && !y.held && decide (y.wait = .none) && y.run.wait.isNone && decide (y.run.kind = w.run.kind) &&
  decide (packetStart y.run.pc = packetStart w.run.pc) && decide (w.run.pc.toNat < y.run.pc.toNat)

/-- The state before a tie group, `s` being the state after some of its words, with the registers that they have left: what a later word of
the group meets of the machine as it was. -/
def State.asBefore (s0 s : State) : State :=
  let w := s0.me
  s0.setMe { s.me with
    locks := w.locks, tiles := w.tiles, slots := w.slots, walks := w.walks, kids := w.kids, late := w.late, loads := w.loads, lag := w.lag }

/-- The run waits for an interlock entry of a walk, and is not runnable (R279). -/
def Wave.locked (w : Wave) : Bool :=
  match w.run.wait with
  | some x => match x.what with
    | .lock _ => true
    | _ => false
  | none => false

/-- The word has not issued: its wave is held, or its run waits for an interlock entry of a walk. -/
def State.waits (s : State) : Bool := s.me.held || s.me.locked

/-- The whole group waits, as in `s0` before it (R20); `t` is the state that the word leaves which cannot issue. -/
def State.groupWaits (s0 t : State) : State :=
  s0.setMe { s0.me with held := t.me.held, run := { s0.me.run with wait := t.me.run.wait } }

/-- The run meets the entries of its new PC (R101), and the waves that hold try again unless this one held too; a wave held while a line is
locked is one that the next lock waits for (R203). -/
def State.afterGroup (s : State) : State :=
  if s.me.held then s.stallLine (.wave s.cur)
  else (if s.me.live then s.setMe s.me.merge else s).retry

/-- The words of the tie group that begins at word `i` of a packet. -/
def Packet.groupFrom (p : Packet) (i : Nat) : List Word :=
  match i with
  | 0 => p.w0 :: if p.tiedAfter 0 then p.w1 :: (if p.tiedAfter 1 then [p.w2] else []) else []
  | 1 => p.w1 :: if p.tiedAfter 1 then [p.w2] else []
  | _ => [p.w2]

/-- The words of the tie group that a wave would issue; none where its packet cannot be fetched, so that it issues no word. -/
def State.nextGroup (s : State) (n : Nat) : List Word :=
  match (s.wave n).pick with
  | none => []
  | some w =>
    match w.run.buf with
    | some p => p.groupFrom (wordIndex w.run.pc)
    | none => match ({ s.setWave n w with cur := n } : State).fetch with
      | .ok (_, p) => p.groupFrom (wordIndex w.run.pc)
      | .error _ => []

/-- An M-core's second wave: its tie group shares no pipe with the group of wave `n` (R160). -/
def State.pairs (s : State) (n m : Nat) : Bool :=
  decide (m ≠ n) && (s.nextGroup n).all (fun x => (s.nextGroup m).all (fun y => !samePipe x y))

/-- What a word of a packet is, decoded with the words after it in its packet (R17). -/
noncomputable def Packet.decodeAt (p : Packet) (i : Nat) : Except DecodeError Instr :=
  decodeWord (p.word i) (match i with
    | 0 => [p.w1, p.w2]
    | 1 => [p.w2]
    | _ => [])

/-! ## Shadows (R311, R327, R328) -/

/-- An array divergence that is due is raised at the group's first word (R311). -/
def State.shadowDue (s : State) : Option ShadowDue := if s.me.run.tied then none else s.me.shadow.find? (fun e => e.pc.isNone)

/-- A divergence is no longer due. -/
def Wave.dropShadow (w : Wave) (e : ShadowDue) : Wave := { w with shadow := w.shadow.erase e }

/-- The sign, the exponent and the top 6 fraction bits that a shadow computes, at the places that they have in an F32 (R327; log entry
77). -/
def shadowSign (x : Nat) : Nat := fld x 31 1
def shadowExp (x : Nat) : Nat := fld x 23 8
def shadowFrac (x : Nat) : Nat := fld x 17 6

def natDist (a b : Nat) : Nat := (a - b) + (b - a)

/-- A checked result `x` diverges from its shadow `y` (R328). -/
def diverges (x y : Nat) : Bool :=
  decide (shadowSign x ≠ shadowSign y) || decide (1 < natDist (shadowExp x) (shadowExp y)) ||
  (decide (shadowExp x = shadowExp y) && decide (1 < natDist (shadowFrac x) (shadowFrac y)))

/-- Neither zero nor subnormal, infinite or NaN. -/
def plainF32 (x : Nat) : Bool := decide (0 < shadowExp x) && decide (shadowExp x < 255)

/-- The exponent of the exact product of two plain values. -/
def productExp (a b : Nat) : Nat :=
  shadowExp a + shadowExp b + (if 2 ^ 47 ≤ (2 ^ 23 + fld a 0 23) * (2 ^ 23 + fld b 0 23) then 1 else 0) - 127

/-- What a word combines lanes with, in F32: `vradd.f`, `vrmax.f` and `vrmin.f` along the tree of R133, `vscan.add.f` and `vscan.max.f` in lane
order. -/
def combines (x : Word) : Option (Word → Word → Fp) :=
  match wordMaj x, fld x.toNat 0 5 with
  | 0x20, 3 => some f32Add
  | 0x20, 4 => some f32Max
  | 0x20, 5 => some f32Min
  | 0x21, 1 => some f32Add
  | 0x21, 2 => some f32Max
  | _, _ => none

/-- Of these words, the two that add. -/
def sumWord (x : Word) : Bool := (wordMaj x = 0x20 && fld x.toNat 0 5 = 3) || (wordMaj x = 0x21 && fld x.toNat 0 5 = 1)

/-- The words whose F32 results have shadows (R327): the arithmetic of MAJ 0x15 to 0x17, and what combines lanes. -/
def shadowWord (x : Word) : Bool := (decide (0x15 ≤ wordMaj x) && decide (wordMaj x ≤ 0x17)) || (combines x).isSome

/-- The operands of the operations `f` of a reduction that lead from position `e` to its result: `n` levels of its tree (R133). -/
def treeSteps (f : Word → Word → Fp) : Nat → Nat → List (Option Word) → List (Word × Word)
  | 0, _, _ => []
  | n + 1, e, t =>
    (match t[e / 2 * 2]?, t[e / 2 * 2 + 1]? with
      | some (some a), some (some b) => [(a, b)]
      | _, _ => []) ++ treeSteps f n (e / 2) (treeLevel f t).1

/-- The operands of the operations `f` that bear on lane `l` of a word that combines lanes: those of the tree, or the last partial result and the
lane's own element (R133, R134). -/
def Wave.laneSteps (w : Wave) (f : Word → Word → Fp) (x : Word) (l : Lane) : List (Word × Word) :=
  let va : VReg := Fin.ofNat 32 (fld x.toNat 15 5)
  let m := w.part (Fin.ofNat 16 (fld x.toNat 6 4))
  if wordMaj x = 0x20 then
    treeSteps f 6 l.val ((List.finRange 64).map (fun l => if m.getLsbD l.val then some (w.rv va l) else none))
  else match (lanesOf m).filter (fun j => j < l) with
    | [] => []
    | j :: js => [(js.foldl (fun a i => (f a (w.rv va i)).1) (quietNan (w.rv va j)), w.rv va l)]

/-- A result `r` of an operation on plain operands; where it adds, its exponent is not more than 6 below that of the larger (R327). -/
def checkedPair (adds : Bool) (r : Nat) (p : Word × Word) : Bool :=
  plainF32 p.1.toNat && plainF32 p.2.toNat &&
  (!adds || decide (max (shadowExp p.1.toNat) (shadowExp p.2.toNat) ≤ shadowExp r + 6))

/-- The F32 inputs of lane `l` of such a word, and the exponents of the addends where it adds. -/
def Wave.shadowInputs (w : Wave) (x : Word) (l : Lane) : List Nat × List Nat :=
  let n := x.toNat
  let reg (lo : Nat) : Nat := (w.rv (Fin.ofNat 32 (fld n lo 5)) l).toNat
  let fn := fld n 0 4
  let a := reg 15
  let adds (b : Nat) : List Nat := if fn = 0 ∨ fn = 1 then [shadowExp a, shadowExp b] else []
  if wordMaj x = 0x15 then
    if fn ∈ [0, 1, 2, 3, 5, 6, 9] then ([a, reg 10], adds (reg 10))
    else ([a], if fn = 14 then [shadowExp a, shadowExp (f32Integral .down (BitVec.ofNat 32 a)).1.toNat] else [])
  else if wordMaj x = 0x16 then
    let b := (w.rsLow (Fin.ofNat 64 (fld n 9 6))).toNat
    ([a, b], adds b)
  else if wordMaj x = 0x17 then ([a, reg 10, reg 5], [productExp a (reg 10), shadowExp (reg 5)])
  else ([], [])

/-- The mask register of such a word. -/
def shadowMask (x : Word) : KReg :=
  Fin.ofNat 16 (if wordMaj x = 0x16 then fld x.toNat 5 4 else if wordMaj x = 0x17 then fld x.toNat 2 3 else fld x.toNat 6 4)

/-- A result `r` of lane `l` is checked (R327): it and its inputs are plain, and it is no sum whose exponent lies more than 6 below that of
of the larger addend. Of a word that combines lanes the event does not name the operation: it is one of those that bear on the lane (log entry 77). -/
def Wave.checkedResult (w : Wave) (x : Word) (l : Lane) (r : Nat) : Bool :=
  let i := w.shadowInputs x l
  plainF32 r && match combines x with
    | some f => (w.laneSteps f x l).any (checkedPair (sumWord x) r)
    | none => i.1.all plainF32 && decide (i.2.foldl max 0 ≤ shadowExp r + 6)

/-- A divergence that is due at the running word, which computes its element, `x` being the word. -/
def Wave.dueAt (w : Wave) (x : Word) (e : ShadowDue) : Bool :=
  shadowWord x && decide (e.pc = some w.run.pc) && decide (w.sr.vstart.toNat ≤ e.info.toNat) && decide (e.info.toNat < 64) &&
  (w.part (shadowMask x)).getLsbD e.info.toNat

/-- The vector divergence that is due first at this word: that of the lowest element. -/
def State.vectorDue (s : State) (x : Word) : Option ShadowDue :=
  match s.me.shadow.filter (s.me.dueAt x) with
  | [] => none
  | e :: es => some (es.foldl (fun a b => if b.info.toNat < a.info.toNat then b else a) e)

/-- The first element of the element group that diverges, at or after %vstart (R116). -/
def Wave.groupStart (w : Wave) (e : Nat) : Nat := max w.sr.vstart.toNat (e / 16 * 16)

/-- The word is executed for the elements below the diverging group only: the lanes from there on are cut off %vl. A word that combines
lanes is indivisible. -/
def State.cutAt (s : State) (x : Word) (e : Nat) : State :=
  let w := s.me
  if (combines x).isSome then s else s.setMe { w with sr := { w.sr with vl := BitVec.ofNat 7 (min w.sr.vl.toNat (w.groupStart e)) } }

/-- After the elements below the group: %vl is as before, and SHADOW is raised at the word, unless the word has itself trapped or waits; the
divergence is then still due. `s0` is the state before the word, which is what a word that combines lanes leaves. -/
def State.shadowTrap (s : State) (s0 : State) (x : Word) (d : ShadowDue) : State :=
  let w := s0.me
  let y := s.me
  let e := d.info.toNat
  if y.mode ≠ w.mode ∨ y.wait ≠ w.wait ∨ y.held then s.setMe { y with sr := { y.sr with vl := w.sr.vl } }
  else if (combines x).isSome then
    (s0.setMe { w.dropShadow d with sr := { w.sr with vstart := 0 } }).trapAt s0.cur causeShadow d.info w.run.pc
  else
    (s.setMe { y.dropShadow d with
      run := w.run
      sr := { y.sr with vl := w.sr.vl, vstart := BitVec.ofNat 16 (w.groupStart e) } }).trapAt s.cur causeShadow d.info w.run.pc

end Sys2Proof.Machine
end

