-- ==== Sys2Proof/Machine/Tasks.lean ====
section
/-! DEFINITION. Task records (R146, R147), completion records (R148), the Stash (R153, R161) and patch tables (R55, R56). -/

namespace Sys2Proof.Machine

/-! ## Accesses by the Stash, the queue slots and the QTR (R316) -/

/-- What an access by an agent that has no core comes to. -/
inductive Got where
  | ok (bs : List Byte)
  | stall (cause : BitVec 8) (va : Nat)
  | refused                        -- PROTECT or a key failure
  | poison
  | busy                           -- a key command or a REPL commit is in the way
  deriving DecidableEq, Repr

/-- The agent that stands for a partition's engines: on logical die 0 (R329). -/
def State.engine (s : State) (asid : Nat) (part : Fin 8) : Agent := ⟨asid, part, (s.partn part).physDie 0, none⟩

/-- Read `n` bytes at a virtual address. -/
def State.got (s : State) (a : Agent) (k : AccKind) (va n : Nat) : Got :=
  match s.reach a k false (splitPages (n / 2 ^ 16 + 2) va n) with
  | .ok (_, ps) =>
    if s.anyLocked none ps then .busy
    else if ps.any (s.piecePoisoned a) then .poison
    else .ok (ps.flatMap (s.pieceBytes a))
  | .ask _ c x => .stall c x
  | .trap _ _ => .refused
  | .lost _ => .refused
  | _ => .busy

/-- Write bytes at a list of pieces for an agent that has no L1. -/
def State.putPieces (s : State) (a : Agent) : List Piece → List Byte → State
  | [], _ => s
  | (p, n) :: ps, bs => (s.deviceStore none a.note p (bs.take n) false).putPieces a ps (bs.drop n)

/-- What a write by an agent that has no core comes to. -/
inductive Put where
  | ok (s : State)
  | stall (cause : BitVec 8) (va : Nat)
  | refused                        -- PROTECT or a key failure
  | busy                           -- a key command is in the way
  deriving DecidableEq, Repr

/-- Write at a virtual address. -/
def State.putTry (s : State) (a : Agent) (va : Nat) (bs : List Byte) : Put :=
  match s.reach a .store false (splitPages (bs.length / 2 ^ 16 + 2) va bs.length) with
  | .ok (_, ps) => .ok (s.putPieces a ps bs)
  | .ask _ c x => .stall c x
  | .trap _ _ => .refused
  | .lost _ => .refused
  | _ => .busy

/-- A key command keeps a write waiting (R357). -/
def State.putBusy (s : State) (a : Agent) (va n : Nat) : Bool :=
  match s.reach a .store false (splitPages (n / 2 ^ 16 + 2) va n) with
  | .hold => true
  | _ => false

/-- Write at a virtual address; nothing is written where the page cannot be. -/
def State.putAt (s : State) (a : Agent) (va : Nat) (bs : List Byte) : State :=
  match s.putTry a va bs with
  | .ok s1 => s1
  | _ => s

/-- LOC of the management core and the Stash of a die (R331). -/
def stashLoc (die : Fin 4) : Loc := dieLoc die 16 0

/-! ## Task records (R146) -/

def taskRecordOf (bs : List Byte) : TaskRecord where
  entry := BitVec.ofNat 64 (field bs 0x00 8)
  patch := BitVec.ofNat 64 (field bs 0x08 8)
  npatch := field bs 0x10 2
  profile := field bs 0x12 1
  cls := field bs 0x13 1
  prio := field bs 0x14 1
  policy := field bs 0x15 1
  flags := BitVec.ofNat 16 (field bs 0x16 2)
  wg := field bs 0x18 1
  waves := field bs 0x19 1
  vlreq := field bs 0x1A 2
  vregs := field bs 0x1C 1
  rings := field bs 0x1D 1
  nbars := field bs 0x1E 1
  zero1 := field bs 0x1F 1
  scratch := field bs 0x20 4
  rolemap := BitVec.ofNat 64 (field bs 0x24 8)
  arglen := BitVec.ofNat 32 (field bs 0x2C 4)
  args := BitVec.ofNat 64 (field bs 0x30 8)
  gbase := BitVec.ofNat 64 (field bs 0x38 8)
  glim := BitVec.ofNat 64 (field bs 0x40 8)
  dbase := BitVec.ofNat 64 (field bs 0x48 8)
  dlim := BitVec.ofNat 64 (field bs 0x50 8)
  lbase := BitVec.ofNat 64 (field bs 0x58 8)
  llim := BitVec.ofNat 64 (field bs 0x60 8)
  preds := field bs 0x68 4
  nsucc := field bs 0x6C 2
  zero2 := field bs 0x6E 2
  succ := BitVec.ofNat 64 (field bs 0x70 8)
  compl := BitVec.ofNat 64 (field bs 0x78 8)
  asid := field bs 0x80 2
  part := field bs 0x82 1
  homedie := field bs 0x83 1
  zero3 := field bs 0x84 4
  thb := BitVec.ofNat 64 (field bs 0x88 8)
  twd := BitVec.ofNat 32 (field bs 0x90 4)
  zero4 := field bs 0x94 4
  cbase := BitVec.ofNat 64 (field bs 0x98 8)
  clim := BitVec.ofNat 64 (field bs 0xA0 8)

/-! ### Footprints (R155) -/

def State.coreOff (s : State) (c : CoreId) : Bool := (s.die c.die).dropMap.getLsbD (4 * c.quad.val + c.core.val)

/-- CLASS 1 admits only M-cores, CLASS 2 only E-cores. -/
def classAllows (cls : Nat) (c : CoreId) : Bool :=
  match cls with
  | 1 => !(CoreId.isE c)
  | 2 => CoreId.isE c
  | _ => true

/-- CLASS 3 prefers M-cores, CLASS 4 E-cores (R146). -/
def classPrefers (cls : Nat) (c : CoreId) : Bool :=
  match cls with
  | 3 => !(CoreId.isE c)
  | 4 => CoreId.isE c
  | _ => true

/-- The cores of a quad. -/
def quadCores (d : Fin 4) (q : Fin 36) : List CoreId := (List.finRange 4).map (fun c => ⟨d, q, c⟩)

/-- Whether some quad of the partition could hold the footprint with nothing else resident (R147). Slots, blocks, scratchpad, ring and
barrier contexts of an empty quad always suffice for fields in their ranges. -/
def State.feasible (s : State) (p : Partition) (r : TaskRecord) : Bool :=
  p.cfg.quads.any (fun e =>
    decide (r.wg ≤ ((quadCores e.1 e.2).filter (fun c => !s.coreOff c && classAllows r.cls c)).length))

/-! ### The checks of R147 -/

/-- The rows of R146 and R165 in offset order: whether a field is legal, and its offset. -/
def State.recordRows (s : State) (r : TaskRecord) (asid : Nat) (part : Fin 8) : List (Bool × Nat) :=
  let p := s.partn part
  let f (b : Prop) [Decidable b] (o : Nat) : Bool × Nat := (decide b, o)
  [f (r.npatch ≤ 64) 0x10,
   f (r.cls ≤ 4) 0x13,
   f (r.prio ≤ 7) 0x14,
   f (r.policy ≤ 2 ∧ (r.policy = 2 → r.flags.getLsbD 0 ∧ r.flags.getLsbD 1)) 0x15,
   f (r.flags >>> 3 = 0) 0x16,
   f (1 ≤ r.wg ∧ r.wg ≤ 4) 0x18,
   f (1 ≤ r.waves ∧ r.waves ≤ 16) 0x19,
   f (r.vlreq ≤ 64) 0x1A,
   f (1 ≤ r.vregs ∧ r.vregs ≤ 4) 0x1C,
   f (r.rings ≤ 8) 0x1D,
   f (r.nbars ≤ 16) 0x1E,
   f (r.zero1 = 0) 0x1F,
   f (r.scratch ≤ 0x300000) 0x20] ++
  [f (r.gbase.toNat ≤ 2 ^ 48) 0x38,
   f (r.gbase.toNat + r.glim.toNat ≤ 2 ^ 48) 0x40,
   f (r.dbase.toNat % 4 = 0 ∧ r.dbase.toNat ≤ 0x6000000) 0x48,
   f (r.dbase.toNat + r.dlim.toNat ≤ 0x6000000) 0x50,
   f (r.lbase.toNat % 256 = 0 ∧ r.lbase.toNat ≤ 2 ^ 48) 0x58,
   f (r.llim.toNat % 4 = 0 ∧ r.llim.toNat ≤ 0x100000 ∧ r.lbase.toNat + r.wg * r.waves * 64 * r.llim.toNat ≤ 2 ^ 48) 0x60] ++
  [f (r.preds = 0) 0x68,
   f (r.nsucc ≤ 1024) 0x6C,
   f (r.zero2 = 0) 0x6E,
   f (r.compl.toNat % 32 = 0) 0x78,
   f (r.asid = asid) 0x80,
   f (r.part = part.val) 0x82,
   f (r.homedie < p.ndie ∨ r.homedie = 0xFF) 0x83,
   f (r.zero3 = 0) 0x84,
   f (r.thb.toNat % 12 = 0) 0x88,
   f (r.zero4 = 0) 0x94,
   f (r.cbase.toNat % 4 = 0 ∧ r.cbase.toNat ≤ 2 ^ 48) 0x98,
   f (r.cbase.toNat + r.clim.toNat ≤ 2 ^ 48) 0xA0,
   f (s.feasible p r) 0x18]

/-- Completion statuses (R148). -/
def statusOk : Nat := 0
def statusKilled : Nat := 1
def statusReloc : Nat := 2
def statusProfile : Nat := 3
def statusFootprint : Nat := 4
def statusRelaunched : Nat := 5

/-- Steps 1 and 2 of R147: the status and cause of the first failure. -/
def State.badRecord (s : State) (r : TaskRecord) (asid : Nat) (part : Fin 8) : Option (Nat × Nat) :=
  if r.profile = 0 ∨ 3 < r.profile then some (statusProfile, r.profile)
  else ((s.recordRows r asid part).find? (fun x => !x.1)).map (fun x => (statusFootprint, x.2))

/-! ## Completion records (R148, R338) -/

structure Completion where
  status : Nat
  cause  : Nat
  exit   : BitVec 32
  cycles : Nat
  lfm    : BitVec 64
  lfmw   : Nat
  done   : Nat
  deriving DecidableEq, Repr

def Completion.bytes (c : Completion) : List Byte :=
  bytesOfNat 1 c.status ++ [0] ++ bytesOfNat 2 c.cause ++ bytesOfNat 4 c.exit.toNat ++ bytesOfNat 8 c.cycles ++
  bytesOfNat 8 c.lfm.toNat ++ bytesOfNat 4 c.lfmw ++ bytesOfNat 4 c.done

/-- A completion record of a task whose gang never started. -/
def Completion.early (status cause : Nat) : Completion :=
  { status, cause, exit := 0, cycles := 0, lfm := 0, lfmw := 0, done := 1 }

/-- A completion record waits for a key command that is running on its page's slot (R357). -/
def State.complBusy (s : State) (asid : Nat) (part : Fin 8) (r : TaskRecord) : Bool :=
  r.compl ≠ 0 && match s.reach (s.engine asid part) .store false (splitPages 3 r.compl.toNat 32) with
    | .hold => true
    | _ => false

/-- Write what is owed once no key command is in its way. -/
def State.payOwed (s : State) : State :=
  s.owed.foldl (fun s o => match s.putTry ⟨o.asid, o.part, o.die, none⟩ o.va o.bytes with
    | .ok s1 => s1
    | .busy => { s with owed := s.owed ++ [o] }
    | _ => s) { s with owed := [] }

/-- Write a completion record under the task's ASID, none where COMPL is 0, and make the retirement entry of R338. A page that cannot be
written takes nothing (log entry 29); one whose slot has a key command takes the record later. -/
def State.retire (s : State) (r : TaskRecord) (task : DWord) (asid : Nat) (part : Fin 8) (die : Fin 4) (loc : Loc)
    (c : Completion) : State :=
  let a := s.engine asid part
  let s1 := if r.compl = 0 then s
    else match s.putTry a r.compl.toNat c.bytes with
      | .ok s1 => s1
      | .busy => { s with owed := s.owed ++ [{ asid, part, die := a.die, va := r.compl.toNat, bytes := c.bytes }] }
      | _ => s
  s1.selvedge die 2 (BitVec.ofNat 8 c.status) (BitVec.ofNat 16 asid) loc noWave task

/-- The task's spawning wave has one child less (R154 step 5); a wave that has exited keeps no count (R161). -/
def State.childDone (s : State) (parent : Option Nat) : State :=
  match parent with
  | none => s
  | some n =>
    let w := s.wave n
    if w.live then s.setWave n { w with kids := w.kids - 1 } else s

/-- End a task that never launched: its completion record and its parent's count (R147, R161, R346). -/
def State.endTask (s : State) (t : Task) (status cause : Nat) : State :=
  let die := (s.partn t.part).physDie 0
  ((s.retire t.record t.task t.asid t.part die (stashLoc die) (.early status cause)).childDone t.parent).settle

/-! ## The Stash (R153) -/

/-- The entries that a partition uses of its share. -/
def State.shareUsed (s : State) (p : Fin 8) : Nat := (s.stash.filter (fun t => t.part = p)).length

/-- A successor of the partition waits for an entry. -/
def State.heirWaits (s : State) (p : Fin 8) : Bool := s.heirs.any (fun t => t.part = p)

/-- Room for a task that the device inserts, and for one from a queue slot, which leaves the last eighth: the share's eighth rounded down
(log entry 79). -/
def State.deviceRoom (s : State) (p : Fin 8) : Bool := decide (s.shareUsed p < (s.partn p).cfg.share)

def State.queueRoom (s : State) (p : Fin 8) : Bool :=
  !s.heirWaits p && decide (s.shareUsed p < (s.partn p).cfg.share - (s.partn p).cfg.share / 8)

/-- Insert a task in its section, in order of insertion (R153). -/
def insertTask (t : Task) : List Task → List Task
  | [] => [t]
  | x :: xs => if t.insert < x.insert ∨ (t.insert = x.insert ∧ t.num < x.num) then t :: x :: xs else x :: insertTask t xs

def State.removeTask (s : State) (num : Nat) : State := { s with stash := s.stash.filter (fun t => t.num ≠ num) }

def State.setTask (s : State) (t : Task) : State :=
  { s with stash := s.stash.map (fun x => if x.num = t.num then t else x) }

/-- A task as it joins the Stash. -/
def State.newTask (s : State) (bs : List Byte) (task : DWord) (asid : Nat) (part : Fin 8) (depth : Nat) (priv : Bool)
    (parent : Option Nat) : Task :=
  { num := s.seq, record := taskRecordOf bs, task, asid, part, depth, priv, parent, insert := s.time, unplaced := s.time,
    target := none, gang := none, resident := false, relaunched := false, stall := none }

/-- The Stash takes a record that has been read (R147): checked, then inserted; a task that fails ends. -/
def State.stashTask (s : State) (t : Task) : State :=
  match s.badRecord t.record t.asid t.part with
  | some (st, c) => s.next.endTask t st c
  | none => { s.next with stash := insertTask t s.stash }

/-- SUCCESSOR_INSERTION: the partition's first waiting successor enters the Stash when an entry is free (R153), not while the partition is
being reset (R346). -/
def execSuccessorInsertion (part : Fin 8) (s : State) : Out :=
  match s.heirs.find? (fun t => t.part = part) with
  | none => .next s
  | some t =>
    if s.deviceRoom part ∧ (s.partn part).ending.isEmpty then
      .next { s with
        heirs := s.heirs.filter (fun x => x.num ≠ t.num)
        stash := insertTask { t with insert := s.time, unplaced := s.time } s.stash }
    else .next s

/-! ## `spawn` (R161) -/

/-- `spawn`. The record is read through the wave's own view: its pending transfers to it have landed and its stores are performed (R161,
R225). -/
def execSpawn (sd sa : SReg) (s : State) : Out :=
  s.checked ⟨1, true, true, []⟩ (
    let w := s.me
    let o := (w.rs sa).toNat
    let a : Agent := { w.agent with core := none }
    if w.id.depth = 8 then s.trapWord causeSpawnDepth
    else if o % 64 ≠ 0 then s.trap causeMisaligned (spaceInfo .g o)
    else if ¬ w.inRange .g o 256 then s.trap causeSegment (spaceInfo .g o)
    else match (w.lockLoad (s.rangeOf w .g o 256)).andThen (fun _ =>
        s.reach a .load false (splitPages 3 (w.seg.g.base.toNat + o) 256)) with
      | .ok (_, ps) =>
        s.afterStores true (
          if s.anyLocked (some s.cur) ps then s.hold
          else if ps.any (s.piecePoisoned a) then s.trap causePoison (spaceInfo .g o)
          else
            let p := w.id.part
            if ¬ s.deviceRoom p ∨ s.heirWaits p ∨ w.kids = 65535 then s.putS sd 1
            else
              let task := w.seg.g.base + BitVec.ofNat 64 o
              let t := s.newTask (ps.flatMap (s.pieceBytes a)) task w.id.asid.toNat p (w.id.depth.toNat + 1) w.id.priv (some s.cur)
              let s1 := s.setMe ({ (w.setS sd 0) with kids := w.kids + 1 }.past 1)
              .next (s1.stashTask t))
      | x => s.failed w .load s.hold x)

/-! ## Patch tables (R55, R56) -/

/-- Majors of the XS format (R29, R34). -/
def xsMajor (m : Nat) : Bool :=
  m = 0x0A ∨ m = 0x0B ∨ m = 0x31 ∨ (0x33 ≤ m ∧ m ≤ 0x37) ∨ (0x39 ≤ m ∧ m ≤ 0x3C)

/-- Whether a word and a value fit a kind (R55). -/
def patchFits (kind : Nat) (v : DWord) (w : Word) : Bool :=
  let m := wordMaj w
  let x := v.toInt
  let sz := fld w.toNat 7 3
  match kind with
  | 0 => m = 1 ∧ -512 ≤ x ∧ x ≤ 511
  | 1 => m = 2 ∧ -262144 ≤ x ∧ x ≤ 262143
  | 2 => ((m = 4 ∧ sz ≤ 6) ∨ (m = 5 ∧ sz ≤ 6 ∧ sz % 2 = 0)) ∧ 0 ≤ x ∧ x ≤ 127 * szBytes w ∧ x % szBytes w = 0
  | 3 => ((0x12 ≤ m ∧ m ≤ 0x14) ∨ m = 0x22) ∧ -256 ≤ x ∧ x ≤ 255
  | 4 => ((0x12 ≤ m ∧ m ≤ 0x14) ∨ m = 0x22) ∧ 0 ≤ x ∧ x ≤ 511
  | 5 => xsMajor m ∧ 0 ≤ x ∧ x ≤ 1023
  | 6 => litWords w = 1 ∧ -2147483648 ≤ x ∧ x ≤ 4294967295
  | 7 => litWords w = 2
  | _ => false

/-- What checking a patch table comes to. -/
inductive Patched where
  | ok (ps : List Patch)
  | bad (i : Nat)
  | stall (cause : BitVec 8) (va : Nat)
  | busy
  deriving DecidableEq, Repr

/-- The first entry that fails from entry `i` on, `no` being an address whose translation the host has declined (R56). Of two entries
that name one word the later one fails (log entry 105). -/
def State.checkPatches (s : State) (a : Agent) (r : TaskRecord) (no : Option Nat) (done : List Patch) (i : Nat) : Nat → Patched
  | 0 => .ok done
  | n + 1 =>
    match s.got a .load (r.patch.toNat + 16 * i) 16 with
    | .ok bs =>
      let e : Patch := { word := field bs 0 4, kind := field bs 4 1, value := BitVec.ofNat 64 (field bs 8 8) }
      if field bs 5 3 ≠ 0 ∨ 7 < e.kind then .bad i
      else match s.got a .fetch ((r.entry + BitVec.ofNat 64 (4 * e.word)).toNat) 4 with
        | .ok ws =>
          if done.any (fun p => p.word = e.word) ∨ ¬ patchFits e.kind e.value (BitVec.ofNat 32 (leNat ws)) then .bad i
          else s.checkPatches a r no (done ++ [e]) (i + 1) n
        | .stall c va => if no = some va then .bad i else .stall c va
        | .busy => .busy
        | _ => .bad i
    | .stall c va => if no = some va then .bad i else .stall c va
    | .busy => .busy
    | _ => .bad i

def State.taskPatches (s : State) (t : Task) (no : Option Nat) : Patched :=
  s.checkPatches (s.engine t.asid t.part) t.record no [] 0 t.record.npatch

end Sys2Proof.Machine
end

