-- ==== Sys2Proof/Machine/Image.lean ====
section
/-! DEFINITION. The context image of a swapped-out gang (R320 to R322). The device restores from the state it keeps; the image is what
the host reads in the save area. Where a section's fields have no offsets in the spec, the layout is the model's (log entry 30). -/

namespace Sys2Proof.Machine

/-- Pad bytes with zeros to a multiple of `n`. -/
def padTo (n : Nat) (bs : List Byte) : List Byte := bs ++ List.replicate ((n - bs.length % n) % n) 0

def imageSegment (x : Segment) : List Byte := bytesOfNat 8 x.base.toNat ++ bytesOfNat 8 x.limit.toNat

def kindBits : Kind → Nat
  | .normal => 0
  | .handler => 1
  | .walk => 2

/-- A PC table entry (R321). -/
def imageEntry (e : Entry) : List Byte :=
  bytesOfNat 8 (e.pc.toNat % 2 ^ 48 + kindBits e.kind * 2 ^ 48 + (if e.wait.any (fun x => x.what.blocks) then 2 ^ 50 else 0)) ++
  bytesOfNat 8 e.mask.toNat

/-- The 40 special-register slots (R322). -/
def imageSpecials (w : Wave) : List Byte :=
  let r := w.sr
  ([r.vl.toNat, r.vstart.toNat, r.slip.toNat, r.cvt.toNat, r.flags.toNat, r.lfm.toNat, r.pmask.toNat, r.st[0].toNat,
    r.st[1].toNat, r.st[2].toNat, r.st[3].toNat] ++
   [r.reqM.toNat, r.reqN.toNat, r.reqK.toNat, r.gf.toNat, r.gm.toNat, r.gn.toNat, r.gk.toNat, r.vm.toNat, r.vn.toNat,
    r.vk.toNat] ++
   [r.tlda.toNat, r.tldb.toNat, r.tldc.toNat, r.bx0.toNat, r.bx1.toNat, r.cpld.toNat, r.cprow.toNat, r.sig0.toNat,
    r.sig1.toNat, r.rdep.toNat] ++
   [r.twd.toNat, r.thb.toNat, r.tcause.toNat, r.tpc.toNat, r.tinfo.toNat, r.tmask.toNat, w.kids.toNat, w.id.depth.toNat,
    0]).flatMap (bytesOfNat 8)

/-- The elements of the dirty vector registers up to HW (R321, R323). -/
def imageVectors (w : Wave) : List Byte :=
  ((List.finRange 32).filter (fun v => w.dirty.getLsbD v.val)).flatMap (fun v =>
    padTo 16 (((List.finRange 64).filter (fun l => l ≤ w.hw[v])).flatMap (fun l => bytesOfNat 4 (w.rv v l).toNat)))

/-- A section: its tag of TYPE and SIZE, and its contents. -/
def imageSection (type : Nat) (bs : List Byte) : List Byte := bytesOfNat 4 type ++ bytesOfNat 4 bs.length ++ bs

def imageAcc (a : Accum) : List Byte :=
  let bs := accImage a a.hm a.hn
  bs.take 10 ++ bytesOfNat 1 a.pois.toNat ++ bs.drop 11

/-- The element formats of a bank in half bytes, by WF. -/
def bankHalves (wf : Nat) : Nat := if wf ≤ 1 then 4 else if wf = 7 then 8 else if wf = 8 then 1 else 2

/-- A row of bank codes, packed. -/
def packRow (h : Nat) : List Nat → List Byte
  | [] => []
  | [a] => bytesOfNat (packedBytes 1 h) a
  | a :: b :: t =>
    if h = 1 then bytesOfNat 1 (a % 16 + b % 16 * 16) ++ packRow h t else bytesOfNat (h / 2) a ++ packRow h (b :: t)

def imageBank (b : Bank) (active : Bool) : List Byte :=
  bytesOfNat 1 b.wf ++ bytesOfNat 1 b.complete.toNat ++ bytesOfNat 1 active.toNat ++ bytesOfNat 1 b.pois.toNat ++
  bytesOfNat 2 b.lgk ++ bytesOfNat 2 b.lgn ++ bytesOfNat 2 b.lvk ++ bytesOfNat 2 b.lvn ++ List.replicate 52 0 ++
  (List.range b.lvk).flatMap (fun k => packRow (bankHalves b.wf) ((List.range b.lvn).map (b.weight k))) ++
  (if b.wf = 5 ∨ b.wf = 6 then
    (List.range (blocksOf b.lvk)).flatMap (fun k => (List.range b.lvn).flatMap (fun n => bytesOfNat 1 (b.scale k n)))
  else [])

def imageMatrix (m : MatrixState) : List Byte :=
  (List.finRange 4).flatMap (fun i => imageAcc m.acc[i]) ++ imageBank m.shadow false ++ imageBank m.active true

/-- The row step that a command takes next: that of the element at which it is held (R256), or the first it has not taken. -/
def TileCmd.nextRow (t : TileCmd) : Nat :=
  let g := TileGeom.unpack t.base t.geom
  match t.held with
  | some h => h.elem / (if t.op = .ldw then g.gn else g.gk)
  | none => t.next

/-- A command that another depends on, by its place from 1 in the section; 0 where the dependence is met (R251). -/
def resolvedDep (l : List TileCmd) (t : TileCmd) (i : Nat) : Nat :=
  match t.deps[i]? with
  | none => 0
  | some n => match l.findIdx? (fun x => x.num = n) with
    | some k => k + 1
    | none => 0

/-- A command of the list `l` of those in flight or held: its word, PC, id, resolved predecessors, latched grants, valid counts, strides and base,
next row step and held flag, and then the element it is held at, its format pair and its accumulator. -/
def imageTile (l : List TileCmd) (t : TileCmd) : List Byte :=
  let g := TileGeom.unpack t.base t.geom
  (padTo 64 (bytesOfNat 4 t.word.toNat ++ bytesOfNat 8 t.pc.toNat ++ bytesOfNat 1 t.id.val ++
    (List.range 3).flatMap (fun i => bytesOfNat 1 (resolvedDep l t i)) ++ [g.gm, g.gn, g.gk, g.vm, g.vn, g.vk].flatMap (bytesOfNat 2) ++
    bytesOfNat 8 g.stride.toNat ++ bytesOfNat 8 g.base.toNat ++ bytesOfNat 4 t.nextRow ++ bytesOfNat 1 t.held.isSome.toNat ++
    bytesOfNat 4 ((t.held.map (·.elem)).getD 0) ++ bytesOfNat 1 g.fm ++ bytesOfNat 1 g.ad)).take 64

def imageSlot (e : Nat × TreeSlot) : List Byte :=
  let t := e.2
  bytesOfNat 1 e.1 ++ bytesOfNat 1 t.tagW ++ bytesOfNat 2 t.tagOff ++ bytesOfNat 1 t.inD.toNat ++ bytesOfNat 1 t.types.length ++
  bytesOfNat 2 t.cap ++ bytesOfNat 8 t.codeBase.toNat ++ bytesOfNat 8 t.treeBase.toNat ++
  t.types.flatMap (fun y => bytesOfNat 4 y.enter.toNat ++ bytesOfNat 4 y.prune.toNat ++ bytesOfNat 4 y.leave.toNat ++
    bytesOfNat 1 y.wide.toNat ++ bytesOfNat 1 y.counted.toNat ++ bytesOfNat 1 y.nchild ++ [0] ++ bytesOfNat 2 y.cntOff ++
    bytesOfNat 2 y.ptrOff ++ bytesOfNat 2 y.pstride ++ bytesOfNat 2 y.keyOff ++ bytesOfNat 1 y.keyLen ++ List.replicate 7 0) ++
  bytesOfNat 2 t.enters.toNat ++ bytesOfNat 2 t.prunes.toNat ++ bytesOfNat 2 t.leaves.toNat ++ bytesOfNat 2 t.skipped.toNat

/-- The pending step of a walking lane: 0 where the engine owes it the next one, else the step presented, with its child. -/
def imageStep : WalkPhase → List Byte
  | .prune c => [2, BitVec.ofNat 8 c.val]
  | x => [BitVec.ofNat 8 (kindCode x), 0]

/-- A walking lane: its object, its vd and its pending step, and then its number, its slot and what else it holds. -/
def imageWalk (e : Nat × WalkLane) : List Byte :=
  let x := e.2
  bytesOfNat 8 x.obj ++ bytesOfNat 1 x.vd.val ++ imageStep x.phase ++ bytesOfNat 1 e.1 ++ bytesOfNat 1 x.slot.val ++ bytesOfNat 3 0 ++
  bytesOfNat 4 x.cap ++ bytesOfNat 4 0 ++ bytesOfNat 8 x.back.toNat ++ bytesOfNat 8 x.child

/-- The lanes of a wave that walk. -/
def Wave.walkers (w : Wave) : List (Nat × WalkLane) := w.walks.filter (fun e => e.2.phase ≠ .idle)

/-- The pending fault service of a wave: ASID, virtual address, access kind; the empty list is no section. -/
def State.imageFault (s : State) (w : Wave) : List Byte :=
  match w.wait with
  | .service tag =>
    match s.requests.find? (fun r => r.tag = tag) with
    | some r => imageSection 4 (bytesOfNat 2 r.asid ++ bytesOfNat 8 r.va ++ bytesOfNat 1 r.kind)
    | none => []
  | _ => []

def Wave.serviced (w : Wave) : Bool :=
  match w.wait with
  | .service _ => true
  | _ => false

/-- The optional sections of a wave block. -/
def State.imageSections (s : State) (w : Wave) : List (List Byte) :=
  [(match w.unit with
    | some m => imageSection 1 (imageMatrix m)
    | none => []),
   if w.tiles = [] then [] else imageSection 2 (w.tiles.flatMap (imageTile w.tiles)),
   if w.slots = [] ∧ w.walkers = [] then [] else imageSection 3 (w.slots.flatMap imageSlot ++ w.walkers.flatMap imageWalk),
   s.imageFault w].filter (· ≠ [])

/-- A wave block (R321): each optional section begins at a multiple of 64 bytes; SIZE counts it to its last byte, and then it is padded to
64 bytes. -/
def State.imageWave (s : State) (w : Wave) : List Byte :=
  let table := w.table
  let flags := (if w.unit.isSome then 1 else 0) + (if w.slots ≠ [] ∨ w.walkers ≠ [] then 2 else 0) + (if w.serviced then 4 else 0)
  let head := bytesOfNat 1 w.id.wave.val ++ bytesOfNat 1 w.id.wg.val ++ bytesOfNat 1 (if w.mode = .handler then 1 else 0) ++
    bytesOfNat 1 w.blocks.val ++ bytesOfNat 2 table.length ++ bytesOfNat 1 flags ++ List.replicate 49 0 ++
    imageSegment w.seg.g ++ imageSegment w.seg.d ++ imageSegment w.seg.q ++ imageSegment w.seg.c ++ imageSegment w.seg.l ++
    List.replicate 48 0
  let regs := (List.finRange 64).flatMap (fun i => bytesOfNat 8 w.s[i].toNat) ++
    (List.finRange 16).flatMap (fun i => bytesOfNat 8 w.k[i].toNat) ++ imageSpecials w ++ bytesOfNat 4 w.dirty.toNat ++
    bytesOfNat 4 0 ++ (List.finRange 32).flatMap (fun i => bytesOfNat 1 w.hw[i].val) ++ List.replicate 24 0
  let rest (size : Nat) : List Byte := (s.imageSections w).foldl (fun bs x => padTo 64 bs ++ x)
    (bytesOfNat 4 0xC7C70002 ++ bytesOfNat 4 size ++ head ++ regs ++ table.flatMap imageEntry ++ imageVectors w)
  padTo 64 (rest (rest 0).length)

def imageBar (b : NamedBar) : List Byte :=
  bytesOfNat 1 b.valid.toNat ++ [0] ++ bytesOfNat 2 b.exp.toNat ++ bytesOfNat 2 b.arr.toNat ++ bytesOfNat 2 b.phase.toNat ++
  List.replicate 8 0

def slotCode : SlotState → Nat
  | .free => 0
  | .reserved => 1
  | .filling => 2
  | .published => 3
  | .popped => 4
  | .released => 5

/-- A ring; one that is not defined has a descriptor of zeros. -/
def imageRing (r : Ring) : List Byte :=
  (if r.made then bytesOfNat 2 r.slots ++ bytesOfNat 2 0 ++ bytesOfNat 4 r.bytes ++ bytesOfNat 4 r.base ++ bytesOfNat 4 0
   else List.replicate 16 0) ++
  bytesOfNat 2 r.res.toNat ++ bytesOfNat 2 r.fill.toNat ++ bytesOfNat 2 r.con.toNat ++ bytesOfNat 2 r.free.toNat ++
  bytesOfNat 1 r.err.toNat ++ List.replicate 7 0 ++
  (List.range 128).map (fun i => BitVec.ofNat 8 (slotCode (r.slot (2 * i)) + slotCode (r.slot (2 * i + 1)) * 16))

/-- The image of a gang (R320). -/
def State.image (s : State) (n : Nat) : List Byte :=
  let g := s.gang n
  let r := g.record
  let waves := ((s.liveWaves.filter (fun e => e.1 / 64 = n)).map (·.2)).flatMap s.imageWave
  let bars := padTo 64 ((List.range r.wg).flatMap (fun wg => (List.range r.nbars).flatMap (fun b =>
    imageBar (g.bar wg (Fin.ofNat 16 b)))))
  let rings := padTo 64 ((List.range r.rings).flatMap (fun i => imageRing (g.ring (Fin.ofNat 8 i))))
  let q := padTo 64 ((List.range g.hwm).map (memRead g.qsave))
  let body := bars ++ rings ++ q ++ waves
  bytesOfNat 4 0xC7C70001 ++ bytesOfNat 4 (256 + body.length) ++ bytesOfNat 8 g.task.toNat ++ bytesOfNat 8 g.insert ++
  bytesOfNat 1 g.eprio.val ++ bytesOfNat 1 r.wg ++ bytesOfNat 1 r.waves ++ bytesOfNat 1 r.nbars ++ bytesOfNat 1 r.rings ++
  List.replicate 3 0 ++ bytesOfNat 4 g.hwm ++ bytesOfNat 4 r.scratch ++
  (List.range 4).flatMap (fun w => bytesOfNat 1 (g.poolOf w)) ++ List.replicate 212 0 ++ body

end Sys2Proof.Machine
end

