-- ==== Sys2Proof/Machine/Placer.lean ====
section
/-! DEFINITION. The placer: what a quad has free (R155), the choice of a task and of its quad (R156, R158), launching a gang (R13, R99,
R145, R166, R169) and restoring one (R268, R319). -/

namespace Sys2Proof.Machine

/-- The cycles in 100 µs, 20 µs and 50 µs of the 1 GHz reference. -/
def ticks100us : Nat := 100000
def ticks50us : Nat := 50000
def ticks20us : Nat := 20000

/-! ## What a quad has free (R155)

`skip` names gangs that are considered to be gone, for R159. -/

def Gang.onQuad (g : Gang) (d : Fin 4) (q : Fin 36) : Bool :=
  match g.place with
  | some (d1, q1, _) => d1 = d && q1 = q
  | .none => false

/-- The gangs that hold resources of a quad. -/
def State.residents (s : State) (skip : Nat → Bool) (d : Fin 4) (q : Fin 36) : List (Nat × Gang) :=
  s.liveGangs.filter (fun e => !skip e.1 && e.2.onQuad d q)

/-- The waves that hold a slot of a core. -/
def State.wavesOn (s : State) (skip : Nat → Bool) (c : CoreId) : List (Nat × Wave) :=
  s.liveWaves.filter (fun e => e.2.id.place = c && !skip e.2.id.gang && (s.gang e.2.id.gang).place.isSome)

/-- The workgroups of gang `n` that have a wave. -/
def State.liveWg (s : State) (n wg : Nat) : Bool := s.liveWaves.any (fun e => e.1 / 16 = 4 * n + wg)

/-- The blocks of a core that are held: those of a workgroup stay with it until its last wave exits (R144). -/
def State.blocksUsed (s : State) (skip : Nat → Bool) (c : CoreId) : Nat :=
  ((s.residents skip c.die c.quad).map (fun e =>
    match e.2.place with
    | some (_, _, cs) =>
      if (List.range cs.length).any (fun i => cs.getD i 0 = c.core ∧ s.liveWg e.1 i) then e.2.record.waves * e.2.record.vregs else 0
    | none => 0)).foldl (· + ·) 0

/-- A whole number of 256-byte blocks. -/
def blockRound (n : Nat) : Nat := (n + 255) / 256 * 256

/-- The lowest base at which `n` bytes of scratchpad are free between the ranges `used` (log entry 31). -/
def scratchAt (used : List (Nat × Nat)) (n : Nat) : Option Nat :=
  let fits (b : Nat) : Bool :=
    decide (b + blockRound n ≤ 0x300000) && used.all (fun u => decide (b + blockRound n ≤ u.1) || decide (u.1 + u.2 ≤ b))
  ((0 :: used.map (fun u => u.1 + u.2)).filter fits).foldl (fun r b => match r with
    | none => some b
    | some x => some (min x b)) none

def sumOf (f : Gang → Nat) (l : List (Nat × Gang)) : Nat := (l.map (fun e => f e.2)).foldl (· + ·) 0

/-- A core that can take a workgroup of `r`. -/
def State.coreFits (s : State) (skip : Nat → Bool) (r : TaskRecord) (c : CoreId) : Bool :=
  !s.coreOff c && classAllows r.cls c && decide ((s.wavesOn skip c).length + r.waves ≤ 16) &&
  decide (s.blocksUsed skip c + r.waves * r.vregs ≤ 64)

/-- The order in which a workgroup prefers cores: preferred class, fewest resident waves, lowest number (R156). -/
def State.coreKey (s : State) (skip : Nat → Bool) (r : TaskRecord) (c : CoreId) : Nat :=
  (if classPrefers r.cls c then 0 else 1024) + (s.wavesOn skip c).length * 4 + c.core.val

/-- Insert by a key, after equal ones. -/
def insertBy {α : Type} (key : α → Nat) (x : α) : List α → List α
  | [] => [x]
  | y :: t => if key x < key y then x :: y :: t else y :: insertBy key x t

def sortBy {α : Type} (key : α → Nat) (l : List α) : List α := l.foldr (insertBy key) []

/-- Give `n` workgroups from workgroup `i` cores of their own, each its best; `ok` is what R319 asks of a core for a workgroup. -/
def State.assign (s : State) (skip : Nat → Bool) (r : TaskRecord) (ok : Nat → CoreId → Bool) :
    Nat → Nat → List CoreId → Option (List (Fin 4))
  | 0, _, _ => some []
  | n + 1, i, cs =>
    (sortBy (s.coreKey skip r) (cs.filter (fun c => s.coreFits skip r c && ok i c))).findSome? (fun c =>
      (s.assign skip r ok n (i + 1) (cs.filter (· ≠ c))).map (c.core :: ·))

/-- A place for a gang: its quad, the cores of its workgroups, its .q base, and the keys of R156 as one number. -/
structure Spot where
  die   : Fin 4
  quad  : Fin 36
  cores : List (Fin 4)
  base  : Nat
  key   : Nat
  deriving DecidableEq, Repr

/-- The keys of R156, the first the most significant. -/
def State.spotKey (s : State) (skip : Nat → Bool) (t : Task) (d : Fin 4) (q : Fin 36) (cs : List (Fin 4)) : Nat :=
  let p := s.partn t.part
  let all := cs.all (fun c => classPrefers t.record.cls ⟨d, q, c⟩)
  let home := t.record.homedie = 0xFF ∨ p.logDie d = t.record.homedie
  let waves := ((quadCores d q).map (fun c => (s.wavesOn skip c).length)).foldl (· + ·) 0
  (((if all then 0 else 2) + (if home then 0 else 1)) * 128 + waves) * 1024 + p.logDie d * 64 + p.logQuad d q

/-- Whether a task fits a quad, and how (R155). A quad under test, or waiting for one, takes no gang (R336). -/
def State.spotOn (s : State) (skip : Nat → Bool) (ok : Nat → CoreId → Bool) (t : Task) (d : Fin 4) (q : Fin 36) : Option Spot :=
  let r := t.record
  let rs := s.residents skip d q
  let x := s.quad d q
  if x.testReq ∨ x.testing then none
  else if 32 < sumOf (fun g => g.record.rings) rs + r.rings then none
  else if 64 < sumOf (fun g => g.record.wg * g.record.nbars) rs + r.wg * r.nbars then none
  else match scratchAt (rs.map (fun e => (e.2.qbase, blockRound e.2.record.scratch))) r.scratch with
    | none => none
    | some base =>
      (s.assign skip r ok r.wg 0 (quadCores d q)).map (fun cs =>
        { die := d, quad := q, cores := cs, base, key := s.spotKey skip t d q cs })

/-! ## Which core a saved wave may take (R268, R319) -/

/-- No tile command in flight or held, every accumulator dead, no bank COMPLETE. -/
def Wave.plainTiles (w : Wave) : Bool :=
  w.tiles.isEmpty && match w.unit with
    | none => true
    | some m => m.acc.all (fun a => !a.live) && !m.shadow.complete && !m.active.complete

/-- The lanes of a wave: those of its PC table, and those that the highest written elements show. -/
def Wave.fitsLanes (w : Wave) (vlmax : Nat) : Bool :=
  w.table.all (fun e => decide (e.mask.toNat < 2 ^ vlmax)) &&
  (List.finRange 32).all (fun v => !w.dirty.getLsbD v.val || decide (w.hw[v].val < vlmax))

/-- Whether a saved wave may resume on core `c`. A core whose unit has another owner, of a gang that is not considered to be gone, cannot take
matrix state (log entry 32). -/
def State.mayResume (s : State) (skip : Nat → Bool) (w : Wave) (c : CoreId) : Bool :=
  let fm := w.sr.gf.toNat
  w.fitsLanes (s.vlmax c) &&
  (w.plainTiles ||
    ((!CoreId.isE c || CoreId.isE w.id.place) && (s.core c).owner.all (fun n => skip (n / 64)) && decide (w.sr.gm.toNat ≤ s.maxOf c fm .m) &&
      decide (w.sr.gn.toNat ≤ s.maxOf c fm .n) && decide (w.sr.gk.toNat ≤ s.maxOf c fm .k)))

/-- What R319 asks of the core of each workgroup of gang `n`. -/
def State.restoreOk (s : State) (skip : Nat → Bool) (n : Nat) (wg : Nat) (c : CoreId) : Bool :=
  (s.liveWaves.filter (fun e => e.1 / 16 = 4 * n + wg)).all (fun e => s.mayResume skip e.2 c)

/-- The gang of a task whose context is saved. -/
def State.saved (s : State) (t : Task) : Option Nat :=
  match t.gang with
  | some n => if ¬ t.resident ∧ (s.gang n).live then some n else none
  | none => none

def State.taskOk (s : State) (skip : Nat → Bool) (t : Task) : Nat → CoreId → Bool :=
  match s.saved t with
  | some n => s.restoreOk skip n
  | none => fun _ _ => true

/-! ## The choice (R156, R158) -/

/-- The effective priority of a waiting task. -/
def Task.eprio (t : Task) (now : Nat) : Nat := min 7 (t.record.prio + (now - t.insert) / ticks100us)

def bestSpot (l : List Spot) : Option Spot :=
  match l with
  | [] => none
  | x :: xs => some (xs.foldl (fun a b => if b.key < a.key then b else a) x)

/-- The quad that a task takes; none where it fits nowhere. -/
def State.spotFor (s : State) (t : Task) : Option Spot :=
  bestSpot ((s.partn t.part).cfg.quads.filterMap (fun e => s.spotOn (fun _ => false) (s.taskOk (fun _ => false) t) t e.1 e.2))

/-- A task that waits to be placed. -/
def Task.ready (t : Task) : Bool := !t.resident && t.stall.isNone

/-- Whether a task could be placed on die `d`. -/
def State.fitsDie (s : State) (t : Task) (d : Fin 4) : Bool :=
  (s.partn t.part).cfg.quads.any (fun e => e.1 = d && (s.spotOn (fun _ => false) (s.taskOk (fun _ => false) t) t e.1 e.2).isSome)

/-- The tasks that could be placed on die `d`, each with the quad that R156 chooses for it, on whichever die that lies (log entry 57). -/
def State.placeable (s : State) (d : Fin 4) : List (Task × Spot) :=
  (s.stash.filter (fun t => t.ready && (s.partn t.part).ending.isEmpty && s.fitsDie t d)).filterMap (fun t => (s.spotFor t).map (fun x => (t, x)))

/-- The task that the placer of die `d` takes next: the highest section, the next partition in its turn, the earliest insertion. -/
def State.chosen (s : State) (d : Fin 4) : Option (Task × Spot) :=
  let ps := s.placeable d
  let top := ps.foldl (fun m e => max m (e.1.eprio s.time)) 0
  let sect := ps.filter (fun e => e.1.eprio s.time = top)
  let last := look 7 s.turns (d.val * 8 + top)
  (List.range 8).findSome? (fun i => sect.find? (fun e => e.1.part.val = (last + 1 + i) % 8))

/-- A task is unplaceable from the last moment at which it was not: while it waits for nothing but a quad, and none fits (R159). -/
def State.recountAll (s : State) : State :=
  if s.stash = [] then s
  else { s with stash := s.stash.map (fun t => if t.ready ∧ (s.spotFor t).isNone then t else { t with unplaced := s.time }) }

/-- A slot of the core that no wave holds, the `i`-th of them. -/
def State.freeSlot (s : State) (c : CoreId) (i : Nat) : Fin 16 :=
  let held := (s.wavesOn (fun _ => false) c).map (fun e => e.2.id.slot)
  ((List.finRange 16).filter (fun k => k ∉ held)).getD i 0

/-- The dispatch log of a quad in device memory: COUNT and TPASS, then the entries (R337; log entry 38). -/
def State.writeLog (s : State) (d : Fin 4) (q : Fin 36) (entry : Option DWord) : State :=
  let x := s.quad d q
  let a := (Config.dispatchLog (quadKey d q)).toNat
  let s1 := s.gddrPut a (bytesOfNat 8 x.placed.toNat ++ bytesOfNat 8 x.tpass.toNat)
  match entry with
  | some t => s1.gddrPut (a + 16 + 8 * ((x.placed.toNat + 1023) % 1024)) (bytesOfNat 8 t.toNat)
  | none => s1

/-- The resources of a quad that a placed gang takes: its .q bytes read 0 (R166), and the dispatch log counts it (R337). -/
def State.takeQuad (s : State) (t : Task) (x : Spot) : State :=
  let q := s.quad x.die x.quad
  let n := blockRound t.record.scratch / 256
  let b := x.base / 256
  (s.setQuad x.die x.quad { q with
    clean := (List.range n).foldl (fun c i => put c (b + i) true) q.clean
    poison := q.poison.filter (fun e => e.1 / 64 < b ∨ b + n ≤ e.1 / 64)
    placed := q.placed + 1 }).writeLog x.die x.quad (some t.task)

/-! ## Launch (R13, R99, R145) -/

/-- The registers that a wave takes from its place. -/
def State.placeIdent (s : State) (id : Ident) (x : Spot) (slot : Fin 16) (ep : Fin 8) : Ident :=
  let p := s.partn id.part
  { id with
    quad := Fin.ofNat 64 (p.logQuad x.die x.quad)
    die := Fin.ofNat 4 (p.logDie x.die)
    place := ⟨x.die, x.quad, x.cores.getD id.wg.val 0⟩
    slot, eprio := ep }

/-- Wave `i` of workgroup `wg` of a gang that starts. -/
def State.startWave (s : State) (t : Task) (n : Nat) (x : Spot) (ep : Fin 8) (wg i : Nat) : Wave :=
  let r := t.record
  let c : CoreId := ⟨x.die, x.quad, x.cores.getD wg 0⟩
  let vl := min r.vlreq (s.vlmax c)
  let id : Ident := { Ident.reset with
    wave := Fin.ofNat 16 i, wg := Fin.ofNat 4 wg, role := Fin.ofNat 16 (fld r.rolemap.toNat (4 * i) 4), task := t.task
    asid := BitVec.ofNat 16 t.asid, depth := BitVec.ofNat 4 t.depth, part := t.part, priv := t.priv
    eff := BitVec.ofNat 4 (min r.profile 3), gang := n }
  { Wave.vacant with
    live := true
    s := (((Vector.replicate 64 (0 : DWord)).set 2 r.llim).set 4 r.args).set 5 (r.arglen.zeroExtend 64)
    run := { Entry.reset with pc := r.entry, mask := lowLanes vl }
    sr := { Special.reset with vl := BitVec.ofNat 7 vl, thb := r.thb, twd := r.twd }
    id := s.placeIdent id x (s.freeSlot c i) ep
    seg := { g := ⟨r.gbase, r.glim⟩, d := ⟨r.dbase, r.dlim⟩, q := ⟨BitVec.ofNat 64 x.base, BitVec.ofNat 64 r.scratch⟩,
             c := ⟨r.cbase, r.clim⟩, l := ⟨r.lbase, r.llim⟩ }
    blocks := Fin.ofNat 5 r.vregs }

/-- Put waves into the table of waves. -/
def putWaves (ws m : List (Nat × Wave)) : List (Nat × Wave) := ws.foldl (fun m e => put m e.1 e.2) m

/-- The numbers of the waves of a gang, with workgroup and index. -/
def waveList (n : Nat) (r : TaskRecord) : List (Nat × Nat × Nat) :=
  (List.range r.wg).flatMap (fun g => (List.range r.waves).map (fun i => (waveNum n g i, g, i)))

/-- The die of the .d segment: HOMEDIE, or the die of the task's first placement (R169). -/
def State.homeOf (s : State) (t : Task) (x : Spot) : Fin 4 :=
  if t.record.homedie ≠ 0xFF then (s.partn t.part).physDie t.record.homedie
  else match t.gang with
    | some n => (s.gang n).segDie
    | none => x.die

/-- The turn of a section passes to the partition of the placed task. -/
def State.passTurn (s : State) (d : Fin 4) (t : Task) : State :=
  { s with turns := put s.turns (d.val * 8 + t.eprio s.time) t.part.val }

/-- A placed task gives its Stash entry up, unless its policy keeps it as a lifeline (R334). -/
def State.leaveStash (s : State) (t : Task) (n : Nat) : State :=
  if t.record.policy = 2 then s.setTask { t with gang := some n, resident := true, target := none }
  else s.removeTask t.num

/-- The placer of die `d` launches a task at a place with the patch table in force. -/
def State.launchGang (s : State) (d : Fin 4) (t : Task) (x : Spot) (ps : List Patch) : State :=
  let n := s.seq
  let ep := Fin.ofNat 8 (t.eprio s.time)
  let g : Gang := { Gang.none with
    live := true, record := t.record, task := t.task, asid := t.asid, part := t.part, depth := t.depth, priv := t.priv
    parent := t.parent, stash := t.num, place := some (x.die, x.quad, x.cores), qbase := x.base, segDie := s.homeOf t x
    insert := t.insert, eprio := ep, seq := n, patches := ps, relaunched := t.relaunched, last := s.time }
  let ws := (waveList n t.record).map (fun e => (e.1, s.startWave t n x ep e.2.1 e.2.2))
  let s1 := ((s.passTurn d t).next.takeQuad t x).setGang n g
  { s1 with waves := putWaves ws s1.waves }.leaveStash t n

/-! ## Restoration (R268, R319, R320) -/

/-- Every grant is computed again from its request; none where the format cannot be granted on the new core. -/
def State.regrant (s : State) (w : Wave) : Wave :=
  let fm := w.sr.gf.toNat
  if s.grantable w fm then
    s.setGrant (s.setGrant (s.setGrant w fm .m w.sr.reqM) fm .n w.sr.reqN) fm .k w.sr.reqK
  else { w with sr := { w.sr with gm := 0, gn := 0, gk := 0, vm := 0, vn := 0, vk := 0 } }

/-- A blocked run that was withdrawn executes its word again (R113). -/
def Entry.retry (e : Entry) : Entry :=
  let e1 := { e with buf := none, tied := false }
  match e.wait with
  | some x => if x.what = .withdrawn then { e1 with wait := none } else e1
  | none => e1

/-- The runs of a wave go on after a save, a halt or a freeze. -/
def Wave.resume (w : Wave) : Wave := { w with run := w.run.retry, rest := w.rest.map Entry.retry, held := false }

/-- A range of .q in a gang whose allocation moves from one base to another; the transfers that hold it are tile commands. -/
def Range.rebase (r : Range) (old new : Nat) : Range :=
  if r.sp = .q then { r with lo := r.lo - old + new, hi := r.hi - old + new } else r

def Interlock.rebase (i : Interlock) (old new : Nat) : Interlock :=
  { i with src := i.src.map (fun r => r.rebase old new), dst := i.dst.map (fun r => r.rebase old new) }

/-- A saved wave as it resumes at a place. A .q segment that `segld` has made other than the allocation keeps its base (log entry 80). -/
def State.resumeWave (s : State) (w : Wave) (x : Spot) (ep : Fin 8) (oldBase scratch : Nat) (i : Nat) : Wave :=
  let c : CoreId := ⟨x.die, x.quad, x.cores.getD w.id.wg.val 0⟩
  let whole : Segment := ⟨BitVec.ofNat 64 oldBase, BitVec.ofNat 64 scratch⟩
  let w1 := { w.resume with
    id := s.placeIdent w.id x (s.freeSlot c i) ep
    seg := if w.seg.q = whole then { w.seg with q := ⟨BitVec.ofNat 64 x.base, BitVec.ofNat 64 scratch⟩ } else w.seg
    locks := if w.seg.q = whole then w.locks.map (fun i => i.rebase oldBase x.base) else w.locks
    sr := { w.sr with vl := BitVec.ofNat 7 (min w.sr.vl.toNat (s.vlmax c)) }
    ready := 0 }
  if w.plainTiles then { s.regrant w1 with unit := none } else w1

/-- The matrix state of a resumed wave goes back into the unit of its core, which it owns again. -/
def State.giveUnit (s : State) (n : Nat) : State :=
  let w := s.wave n
  match w.unit with
  | none => s
  | some m =>
    let c := s.core w.id.place
    (s.setCore w.id.place { c with
      owner := some n, freeing := m.freeing, acc := m.acc, shadow := m.shadow, active := m.active, fresh := m.fresh, turned := m.turned }).setWave n
        { w with unit := none }

/-- Put back the .q bytes below QSAVED, with their poison. -/
def State.giveScratch (s : State) (g : Gang) (x : Spot) : State :=
  let q := s.quad x.die x.quad
  let r := q.store x.base (memReads g.qsave 0 (blockRound g.hwm))
  s.setQuad x.die x.quad { r.1 with poison := g.qpois.foldl (fun p e => put p (x.base / 4 + e.1) e.2) r.1.poison }

/-- A wave whose fault service was declined while it was swapped out: its trap follows (R318). -/
def State.deliver (s : State) (n : Nat) : State :=
  let w := s.wave n
  match w.wait with
  | .declined cause va hidden =>
    let s1 := s.setWave n { w with wait := .none }
    if hidden then s1.lose n cause else s1.trapAt n cause (BitVec.ofNat 64 va) w.run.pc
  | _ => s

/-- The placer of die `d` restores gang `n` at a place; its waves acquire before they issue (R205). -/
def State.restoreGang (s : State) (d : Fin 4) (t : Task) (n : Nat) (x : Spot) : State :=
  let g := s.gang n
  let ep := Fin.ofNat 8 (t.eprio s.time)
  let mine (e : Nat × Wave) : Bool := decide (e.1 / 64 = n) && e.2.live
  let s1 := ((s.passTurn d t).next.takeQuad t x).giveScratch g x
  let s2 := s1.setGang n { g with
    place := some (x.die, x.quad, x.cores), qbase := x.base, eprio := ep, seq := s.seq, image := none, qsave := [], qpois := []
    issued := false, stopping := none }
  let s3 := { s2 with waves := s2.waves.map (fun e =>
      if mine e then (e.1, s.resumeWave e.2 x ep g.qbase g.record.scratch e.2.id.wave.val) else e) }
  let ns := (s.waves.filter mine).map (·.1)
  let s4 := (ns.foldl State.giveUnit s3).acquireAll (x.cores.map (fun c => ⟨x.die, x.quad, c⟩))
  ns.foldl State.deliver (s4.leaveStash t n)

/-! ## The acts -/

/-- A task whose patch table cannot be read now waits for the host (R56, R316). -/
def State.stallTask (s : State) (t : Task) (cause : BitVec 8) (va : Nat) : State :=
  (s.setTask { t with stall := some s.tag }).request (.task t.num) ((s.partn t.part).physDie 0) t.asid t.part 8 cause va t.task

/-- Launch a task whose patch table passes; `no` is an address whose translation the host has declined (R56). -/
def State.tryLaunch (s : State) (d : Fin 4) (t : Task) (x : Spot) (no : Option Nat) : State :=
  match s.taskPatches t no with
  | .ok ps => s.launchGang d t x ps
  | .bad i => (s.removeTask t.num).endTask t statusReloc i
  | .stall c va => s.stallTask t c va
  | .busy => s

def State.placeTask (s : State) (d : Fin 4) (t : Task) (x : Spot) : State :=
  match s.saved t with
  | some n => s.restoreGang d t n x
  | none => s.tryLaunch d t x none

/-- PLACEMENT: the placer of a die takes its next task. -/
def execPlacement (die : Fin 4) (s : State) : Out :=
  match s.chosen die with
  | none => .next s
  | some (t, x) => .next (s.placeTask die t x)

/-- CONTEXT_RESTORE: the placement of a saved gang, when it is the task that a placer takes next. -/
def execContextRestore (gang : Nat) (s : State) : Out :=
  match (List.finRange 4).findSome? (fun d => ((s.chosen d).filter (fun e => s.saved e.1 = some gang)).map (fun e => (d, e))) with
  | none => .next s
  | some (d, t, x) => .next (s.restoreGang d t gang x)

end Sys2Proof.Machine
end

