-- ==== Sys2Proof/Machine/Topo.lean ====
section
/-! DEFINITION. The partition topology table (R347 to R350), and replies of the mailbox (R354). -/

namespace Sys2Proof.Machine

/-! ## The table -/

/-- Whether a gang has a workgroup on the core. -/
def State.coreHeld (s : State) (c : CoreId) : Bool :=
  s.liveGangs.any (fun e => match e.2.place with
    | some (d, q, cs) => d = c.die && q = c.quad && c.core ∈ cs
    | none => false)

/-- Whether the table shows a core as present: firmware applies a change of the drop map only when no gang is resident there (R343). -/
def State.coreShown (s : State) (c : CoreId) : Bool := !s.coreOff c || s.coreHeld c

/-- The present cores of a partition on a die, in logical order (R345). -/
def State.shownCores (s : State) (p : Partition) (d : Fin 4) : List CoreId :=
  ((p.quadsOn d).flatMap (quadCores d)).filter s.coreShown

def zeros (n : Nat) : List Byte := List.replicate n 0

/-- Bytes padded with `x` up to `n`. -/
def fillTo (n : Nat) (x : Byte) (bs : List Byte) : List Byte := bs ++ List.replicate (n - bs.length) x

/-- The present-core mask of a quad. -/
def State.quadMask (s : State) (d : Fin 4) (q : Fin 36) : Nat :=
  ((quadCores d q).map (fun c => if s.coreShown c then 2 ^ c.core.val else 0)).foldl (· + ·) 0

/-- A die block (R350). -/
def State.dieBlock (s : State) (p : Partition) (d : Fin 4) : List Byte :=
  let qs := p.quadsOn d
  let cs := s.shownCores p d
  let masks := qs.map (s.quadMask d)
  bytesOfNat 1 d.val ++ bytesOfNat 1 qs.length ++ bytesOfNat 2 cs.length ++
  bytesOfNat 2 (cs.filter (fun c => !(CoreId.isE c))).length ++ bytesOfNat 2 (cs.filter (fun c => CoreId.isE c)).length ++
  (List.range 18).flatMap (fun i => bytesOfNat 1 (masks.getD (2 * i) 0 + masks.getD (2 * i + 1) 0 * 16)) ++ zeros 6 ++
  fillTo 36 0 (qs.map (fun q => BitVec.ofNat 8 q.val)) ++ zeros 12 ++
  fillTo 144 0xFF (cs.map (fun c => BitVec.ofNat 8 (c.quad.val * 4 + c.core.val))) ++ zeros 32

/-- CORESTAT of a die. -/
def State.coreStats (s : State) (p : Partition) (d : Fin 4) : List Byte :=
  fillTo 144 0 ((s.shownCores p d).map (fun c =>
    BitVec.ofNat 8 ((s.core c).working.length + if (s.core c).half then 8 else 0)))

/-- Four blocks of `n` bytes, those of dies at or beyond NDIE 0. -/
def fourDies (p : Partition) (n : Nat) (f : Nat → Fin 4 → List Byte) : List Byte :=
  (List.range 4).flatMap (fun i => match p.dieList[i]? with
    | some d => f i d
    | none => zeros n)

/-- The 0x7C0 bytes of the table (R348). -/
def State.topoBytes (s : State) (i : Fin 8) : List Byte :=
  let p := s.partn i
  bytesOfNat 1 p.ndie ++ bytesOfNat 1 i.val ++ bytesOfNat 1 p.early.toNat ++ [0] ++ bytesOfNat 2 (s.partCap i .m) ++
  bytesOfNat 2 (s.partCap i .n) ++ bytesOfNat 2 (s.partCap i .k) ++ bytesOfNat 2 p.cfg.fmtMask.toNat ++
  bytesOfNat 4 p.gen.toNat ++ bytesOfNat 2 p.cfg.asidLo ++ bytesOfNat 2 p.cfg.asidN ++ zeros 44 ++
  fourDies p 256 (fun _ d => s.dieBlock p d) ++
  (List.range 32).flatMap (fun n => bytesOfNat 2 (look 0 p.pkgBar n).toNat) ++
  fourDies p 64 (fun l _ => (List.range 32).flatMap (fun n => bytesOfNat 2 (look 0 p.dieBar (32 * l + n)).toNat)) ++
  fourDies p 144 (fun _ d => s.coreStats p d)

/-- Firmware brings a table up to date: GEN is odd while the fields are written, and the next even value stands afterwards (R349). -/
def State.writeTopo (s : State) (i : Fin 8) : State :=
  let p := s.partn i
  if p.made then
    let s1 := s.setPartn i { p with gen := p.gen + 2 }
    s1.gddrPut (s1.topoAt i) (s1.topoBytes i)
  else s

/-- A gang has left its place: a change of the drop map that waited for it on one of its cores is applied (R343). -/
def State.leftQuad (s : State) (part : Fin 8) (place : Option (Fin 4 × Fin 36 × List (Fin 4))) : State :=
  match place with
  | some (d, q, cs) => if cs.any (fun c => s.coreOff ⟨d, q, c⟩ && !s.coreHeld ⟨d, q, c⟩) then s.writeTopo part else s
  | none => s

/-! ## Replies (R354) -/

/-- A reply: the request's SERVICE and TAG, the status, and what the reply carries (log entry 81); its interrupt is of cause 2. -/
def State.reply (s : State) (service tag status : BitVec 16) (payload : List Byte) : State :=
  (s.mail service tag (bytesOfNat 2 status.toNat ++ payload)).send (.interrupt 0 2)

/-! ## The end of a reset or of a teardown (R346) -/

/-- Every line that an L1 read under one of the keys, or whose unit was written under one, is removed (R180). -/
def State.dropKeys (s : State) (ks : List (List DWord)) : State :=
  { s with cores := s.cores.map (fun e => (e.1, { e.2 with l1 := e.2.l1.filter (fun b =>
      !decide (b.2.key ∈ ks) && !decide (look [] s.unitKey b.1 ∈ ks)) })) }

/-- Clear every key slot that a partition owns (R180). -/
def State.clearKeys (s : State) (p : Fin 8) : State :=
  let ks := (s.keys.filter (fun e => e.2.owner = p)).map (fun e => e.2.key)
  ({ s with keys := s.keys.filter (fun e => e.2.owner ≠ p) } : State).dropKeys ks

/-- Step 2 for the Stash: each task that has not launched ends with KILLED, cause 0x203. -/
def State.emptyStash (s : State) (p : Fin 8) : State :=
  let out := s.stash.filter (fun t => t.part = p && !t.resident && (s.saved t).isNone)
  out.foldl (fun s t => s.endTask t statusKilled 0x203) { s with stash := s.stash.filter (fun t => !(t ∈ out)) }

/-- Step 3: the stitch markers of the partition's quads and its die sync registers; %gwarn returns to its reset value (R305). -/
def State.clearSync (s : State) (p : Fin 8) : State :=
  let x := s.partn p
  let s1 := x.cfg.quads.foldl (fun s e => s.setQuad e.1 e.2 { s.quad e.1 e.2 with marks := [] }) s
  s1.setPartn p { x with ds := [], mirror := [], updates := [], gwarn := Partition.reset.gwarn }

/-- The translations that the cores hold for the page of a partition's table, under the ASIDs of the partition, are removed (R347). -/
def State.dropTopo (s : State) (i : Fin 8) (va : Nat) : State :=
  let gone (e : TlbEntry) : Bool := (s.asid e.asid).part = i && decide (e.va < va / 2 ^ 16 * 2 ^ 16 + 2 ^ 16) && decide (va / 2 ^ 16 * 2 ^ 16 < e.va + e.size)
  { s with cores := s.cores.map (fun e => (e.1, { e.2 with tlb := e.2.tlb.filter (fun x => !gone x) })) }

/-- The reply to the request for a reset or a teardown. -/
def State.endReply (s : State) (e : Ending) : State :=
  match e.tag with
  | some t => s.reply (if e.down then 6 else 5) t 0 []
  | none => s

/-- Once no gang of the partition is left, steps 2 and 3 hold for what has come meanwhile too, the resets that wait are over, and a teardown
among them clears its key slots and closes its windows. -/
def State.endReset (s : State) (i : Fin 8) : State :=
  let es := (s.partn i).ending
  if es = [] ∨ s.liveGangs.any (fun e => e.2.part = i) then s
  else
    let s1 := (s.emptyStash i).clearSync i
    let p := s1.partn i
    es.foldl State.endReply (if es.any (fun e => e.down) then
        ((s1.clearKeys i).dropTopo i p.cfg.topoVa).setPartn i { p with made := false, cfg := .none, windows := [], ending := [] }
      else s1.setPartn i { p with ending := [] })

end Sys2Proof.Machine
end

