-- ==== Sys2Proof/Machine/Preempt.lean ====
section
/-! DEFINITION. Pre-emption: the choice of a victim (R159) and the saving of its context (R318, R320). -/

namespace Sys2Proof.Machine

/-- The numbers of the waves of a gang that have not exited. -/
def State.gangWaves (s : State) (n : Nat) : List Nat := (s.liveWaves.filter (fun e => e.1 / 64 = n)).map (·.1)

/-- Whether a transfer of the gang is under way. -/
def State.drains (s : State) (n : Nat) : Bool := s.transfers.any (fun e => e.2.gang = n)

/-- A store of a wave of the gang, one that has exited too, is not yet committed (R203). -/
def State.gangCommits (s : State) (n : Nat) : Bool := s.repl.any (fun c => c.wave.any (fun m => m / 64 = n))

/-- Wave `n` stands between tie groups, or waits for what blocks it as a whole (R318). -/
def State.atBoundary (s : State) (n : Nat) : Bool :=
  !s.canIssue n && !(decide ((s.wave n).wait = .none) && (s.wave n).midGroup)

/-- Steps 1, 3 and 4 of R318 are over for a gang: no wave of it goes on with a tie group or stands inside one, no copy is under way, and every
event is performed at .pkg. -/
def State.quiet (s : State) (n : Nat) : Bool :=
  !s.drains n && !s.gangCommits n && (s.gangWaves n).all (fun m => s.atBoundary m && s.storesDone m)

/-- The tile commands of wave `n` stop at a row-step boundary: those that have taken every row retire, and the flags of the rows that the
others have taken are merged (R253, R324). One that is held at a reserved code has stopped already, and keeps its flags until it retires. -/
def State.stopTiles (s : State) (n : Nat) : State :=
  let s1 := (s.wave n).tiles.foldl (fun s _ => match (s.wave n).tiles.find? (fun t => t.held.isNone) with
    | some t => if t.left = 0 then s.retireTile n else s
    | none => s) s
  let w := s1.wave n
  s1.setWave n { ((w.tiles.filter (fun t => t.held.isNone)).foldl (fun w t => w.addFlags t.flags) w) with
    tiles := w.tiles.map (fun t => if t.held.isNone then { t with flags := 0 } else t) }

/-! ## The end of a halt (R312, R333) -/

/-- A gang whose freeze has begun is frozen and reported once it is quiet. -/
def State.endHalt (s : State) (n : Nat) : State :=
  match (s.gang n).halt with
  | none => s
  | some cause =>
    if (s.gang n).kill.isNone ∧ s.quiet n then ((s.gangWaves n).foldl State.stopTiles s).freeze n cause else s

def State.endHalts (s : State) : State :=
  ((s.liveGangs.filter (fun e => e.2.halt.isSome)).map (·.1)).foldl State.endHalt s

/-! ## The victim (R159) -/

/-- A gang that may be pre-empted for a task of effective priority `ep`. -/
def Gang.lower (g : Gang) (ep : Nat) : Bool :=
  decide (g.eprio.val < ep) && !g.frozen && g.halt.isNone && g.stopping.isNone && g.kill.isNone

/-- Whether removing every such gang would let the task fit a quad. -/
def State.wouldFit (s : State) (t : Task) (d : Fin 4) (q : Fin 36) : Bool :=
  let gone (n : Nat) : Bool := (s.gang n).lower (t.eprio s.time)
  (s.spotOn gone (s.taskOk gone t) t d q).isSome

/-- The quads among which a victim is sought: the one already chosen for the task, while it can still serve. -/
def State.victimQuads (s : State) (t : Task) : List (Fin 4 × Fin 36) :=
  let all := (s.partn t.part).cfg.quads.filter (fun e => s.wouldFit t e.1 e.2)
  match t.target with
  | some e => if e ∈ all then [e] else all
  | none => all

/-- The gang of lowest priority, and among those the youngest. -/
def weaker (a b : Nat × Gang) : Nat × Gang :=
  if b.2.eprio < a.2.eprio ∨ (b.2.eprio = a.2.eprio ∧ a.2.seq < b.2.seq) then b else a

def State.victim (s : State) (t : Task) : Option (Nat × Gang) :=
  let ep := t.eprio s.time
  match (s.victimQuads t).flatMap (fun e => (s.residents (fun n => !(s.gang n).lower ep) e.1 e.2)) with
  | [] => none
  | x :: xs => some (xs.foldl weaker x)

/-- Whether a gang is being pre-empted for the task. -/
def State.preempting (s : State) (num : Nat) : Bool := s.liveGangs.any (fun e => e.2.stopping = some num && !e.2.frozen)

/-- PREEMPTION_TIMEOUT of a waiting task: its victim stops (steps 1 and 2 of R318), between tie groups; R318 also allows a stop of a vector
word at an element-group boundary, which the model never takes (log entry 83). -/
def execPreemptionTimeout (task : Nat) (s : State) : Out :=
  match s.stash.find? (fun t => t.num = task && t.ready) with
  | none => .next s
  | some t =>
    if (s.spotFor t).isSome ∨ s.time - t.unplaced < ticks20us ∨ s.preempting task then .next s
    else match s.victim t with
      | none => .next s
      | some (n, g) =>
        let s1 := (s.setGang n { g with stopping := some task }).withdrawGang n
        .next (s1.setTask { t with target := g.place.map (fun p => (p.1, p.2.1)) })

/-! ## The save (R318) -/

/-- The wave gives its matrix unit up, and its context keeps the state (R248). -/
def State.saveUnit (s : State) (n : Nat) : State :=
  let w := s.wave n
  let c := s.core w.id.place
  if c.owner = some n then
    (s.setCore w.id.place { c with
      owner := none, freeing := false, acc := Vector.replicate 4 .dead, shadow := .empty, active := .empty, fresh := false }).setWave n
        { w with unit := some { acc := c.acc, shadow := c.shadow, active := c.active, fresh := c.fresh, turned := c.turned, freeing := c.freeing } }
  else s

/-- The wave leaves the age queue of its core. -/
def State.leaveAge (s : State) (n : Nat) : State :=
  let c := (s.wave n).id.place
  let x := s.core c
  if n ∈ x.ageq then s.setCore c { x with ageq := x.ageq.filter (· ≠ n) } else s

/-- `n` bytes of a quad from `base`, as memory. -/
def Quad.slice (q : Quad) (base n : Nat) : Mem :=
  ((List.range n).map (fun i => ((i, q.byte (base + i)) : Host.Cell))).filter (fun e => e.2 ≠ 0)

/-- The poisoned words of that slice. -/
def Quad.poisonSlice (q : Quad) (base n : Nat) : List (Nat × Bool) :=
  (q.poison.filter (fun e => e.2 ∧ base / 4 ≤ e.1 ∧ e.1 < (base + n) / 4)).map (fun e => (e.1 - base / 4, true))

def round64 (n : Nat) : Nat := (n + 63) / 64 * 64

/-- The lowest address of the ASID's save area that is free for an image of `size` bytes (log entry 33). -/
def State.saveAt (s : State) (asid size : Nat) : Nat :=
  let used := s.liveGangs.filterMap (fun e => e.2.image)
  let base := round64 (s.asid asid).save
  let fits (a : Nat) : Bool := decide (base ≤ a) && used.all (fun u => decide (a + size ≤ u.1) || decide (u.1 + u.2 ≤ a))
  ((used.map (fun u => round64 (u.1 + u.2))).filter fits).foldl min (if fits base then base else
    used.foldl (fun m u => max m (round64 (u.1 + u.2))) base)

/-- The saved gang returns to its section at its original position (R159); a lifeline has kept its entry (R334). -/
def State.backToStash (s : State) (n : Nat) : State :=
  let g := s.gang n
  match s.stash.find? (fun t => t.num = g.stash) with
  | some t => s.setTask { t with gang := some n, resident := false, unplaced := s.time, target := none }
  | none =>
    let t : Task :=
      { num := g.stash, record := g.record, task := g.task, asid := g.asid, part := g.part, depth := g.depth, priv := g.priv
        parent := g.parent, insert := g.insert, unplaced := s.time, target := none, gang := some n, resident := false
        relaunched := g.relaunched, stall := none }
    { s with stash := insertTask t s.stash }

/-- The waiting task's count of R159 starts again. -/
def State.recount (s : State) (num : Option Nat) : State :=
  { s with stash := s.stash.map (fun t => if num = some t.num then { t with unplaced := s.time } else t) }

/-- Steps 3 to 5 of R318 for a gang on a quad: its state is kept, its image written, and its resources return. -/
def State.saveGang (s : State) (n : Nat) (d : Fin 4) (q : Fin 36) : State :=
  let ns := s.gangWaves n
  let s1 := ns.foldl State.leaveAge (ns.foldl State.saveUnit (ns.foldl State.stopTiles s))
  let s2 := s1.withdrawGang n
  let g := s2.gang n
  let x := s2.quad d q
  let h := blockRound g.hwm
  let g1 := { g with hwm := h, qsave := x.slice g.qbase h, qpois := x.poisonSlice g.qbase h }
  let s3 := s2.setGang n g1
  let bs := s3.image n
  let a := s3.saveAt g.asid bs.length
  let s4 := (s3.gddrPut a bs).next.setGang n { g1 with place := none, image := some (a, bs.length), stopping := none, seq := s3.seq }
  ((s4.backToStash n).recount g.stopping).leftQuad g.part g.place

/-- CONTEXT_SAVE: a gang that is being pre-empted, once its transfers and stores have been performed. -/
def execContextSave (gang : Nat) (s : State) : Out :=
  let g := s.gang gang
  match g.place with
  | none => .next s
  | some (d, q, _) =>
    if g.live ∧ g.stopping.isSome ∧ ¬ g.frozen ∧ g.halt.isNone ∧ g.kill.isNone ∧ s.quiet gang then
      .next (s.saveGang gang d q)
    else .next s

end Sys2Proof.Machine
end

