-- ==== Sys2Proof/Machine/Ends.lean ====
section
/-! DEFINITION. How a gang ends: completion with its successors (R148, R154), and a kill (R334). -/

namespace Sys2Proof.Machine

/-! ## The completion record (R148) -/

/-- The exit code of the first wave with a nonzero one, by workgroup and then by wave. -/
def Gang.exitCode (g : Gang) : BitVec 32 :=
  match (sortBy (fun e => e.wg * 16 + e.wave) g.exits).find? (fun e => e.code ≠ 0) with
  | some e => e.code
  | .none => 0

def Gang.completion (g : Gang) (status cause done : Nat) : Completion where
  status := status
  cause := cause
  exit := g.exitCode
  cycles := (g.start.map (fun t => g.last - t)).getD 0
  lfm := g.exits.foldl (fun m e => m ||| e.lfm) 0
  lfmw := (g.exits.filter (fun e => e.lfm ≠ 0)).length
  done := done

/-- The gang's resources return to the quad: it is no longer live, and its waves are gone (R154, R334). -/
def State.freeGang (s : State) (n : Nat) : State :=
  { s.setGang n { s.gang n with live := false, stopping := none } with waves := s.waves.filter (fun e => e.1 / 64 ≠ n) }

/-- The core of workgroup 0; of a gang that holds no quad, the one on which its first wave was last. -/
def State.homeCore (s : State) (n : Nat) : CoreId :=
  match (s.gang n).place with
  | some (d, q, cs) => ⟨d, q, cs.headD 0⟩
  | none => (s.wave (waveNum n 0 0)).id.place

/-- The completion record of gang `n` and its retirement entry, `c` being the core of workgroup 0. -/
def State.retireGang (s : State) (n : Nat) (c : CoreId) (status cause done : Nat) : State :=
  let g := s.gang n
  s.retire g.record g.task g.asid g.part c.die (coreLoc c 0x3F 0) (g.completion status cause done)

/-! ## Successors (R154 step 4) -/

/-- What releasing one successor comes to. -/
inductive Released where
  | ok (s : State)
  | stall (kind : Nat) (cause : BitVec 8) (va : Nat)
  | busy
  deriving DecidableEq, Repr

/-- A successor whose PREDS has reached 0 enters the Stash, or waits outside it for an entry (R153). It has depth 0 and no privilege
(log entry 34). -/
def State.takeHeir (s : State) (g : Gang) (bs : List Byte) (va : Nat) : State :=
  let t := s.newTask bs (BitVec.ofNat 64 va) g.asid g.part 0 false none
  let t1 := { t with record := { t.record with preds := 0 } }
  match s.badRecord t1.record g.asid g.part with
  | some (st, c) => s.next.endTask t1 st c
  | none =>
    if s.deviceRoom g.part ∧ ¬ s.heirWaits g.part then { s.next with stash := insertTask t1 s.stash }
    else { s.next with heirs := s.heirs ++ [t1] }

/-- A successor that is skipped: a record of type 0x0081. -/
def State.skipHeir (s : State) (g : Gang) (va reason : Nat) : State :=
  let die := (s.partn g.part).physDie 0
  s.report die { (Record.blank 0x0081 2 (stashLoc die)).ofGang g with data0 := BitVec.ofNat 64 va, data1 := BitVec.ofNat 64 reason }

/-- Reading for the successor step: the bytes, or a reason of R332, `no` being an address that the host has declined. -/
def State.heirRead (s : State) (a : Agent) (no : Option Nat) (va n : Nat) : Except Released (Except Nat (List Byte)) :=
  match s.got a .load va n with
  | .ok bs => .ok (.ok bs)
  | .stall c x => if no = some x then .ok (.error 1) else .error (.stall 8 c x)
  | .refused => .ok (.error 2)
  | .poison => .ok (.error 3)
  | .busy => .error .busy

/-- Decrement PREDS of the record at `va`, whose bytes are `bs`, and take it in when PREDS has reached 0. -/
def State.decrement (s : State) (g : Gang) (a : Agent) (no : Option Nat) (va : Nat) (bs : List Byte) : Released :=
  match s.reach a .store false (splitPages 3 (va + 0x68) 4) with
  | .ok (_, ps) =>
    let x := (field bs 0x68 4 + 2 ^ 32 - 1) % 2 ^ 32
    let s1 := s.putPieces a ps (bytesOfNat 4 x)
    .ok (if x = 0 then s1.takeHeir g bs va else s1)
  | .ask _ c x => if no = some x then .ok (s.skipHeir g va 1) else .stall 9 c x
  | .trap _ _ => .ok (s.skipHeir g va 2)
  | .lost _ => .ok (s.skipHeir g va 2)
  | _ => .busy

/-- Release successor `i`: its address is read from the list, the whole record is read, and PREDS is decremented (log entry 34). A record at
an address that is no multiple of 64, of which the spec says nothing, is read and decremented where it lies (log entry 99). -/
def State.releaseOne (s : State) (g : Gang) (i : Nat) (no : Option Nat) : Released :=
  let a := s.engine g.asid g.part
  let at_ := g.record.succ.toNat + 8 * i
  match s.heirRead a no at_ 8 with
  | .error r => r
  | .ok (.error r) => .ok (s.skipHeir g at_ (r + 256))
  | .ok (.ok xs) =>
    let va := leNat xs
    match s.heirRead a no va 256 with
    | .error r => r
    | .ok (.error r) => .ok (s.skipHeir g va r)
    | .ok (.ok bs) => s.decrement g a no va bs

/-- `k` successors from successor `i`, then step 5 of R154: the parent's count. -/
def State.releaseFrom (s : State) (n : Nat) (no : Option Nat) (i : Nat) : Nat → State
  | 0 => ((s.setGang n { s.gang n with release := none, stall := none }).childDone (s.gang n).parent).settle
  | k + 1 =>
    let g := s.gang n
    match s.releaseOne g i no with
    | .ok s1 => s1.releaseFrom n none (i + 1) k
    | .stall kind c va =>
      (s.setGang n { g with release := some i, stall := some s.tag }).request (.successor n i) ((s.partn g.part).physDie 0) g.asid
        g.part kind c va g.task
    | .busy => s.setGang n { g with release := some i, stall := none }

/-- The successor step of a completed gang, from where it stands. -/
def State.goOnReleasing (s : State) (n : Nat) (no : Option Nat) : State :=
  let g := s.gang n
  match g.release with
  | none => s
  | some i => s.releaseFrom n no i (g.record.nsucc - i)

/-! ## Completion (R154) -/

/-- What agents of the gang's die have made or seen of the die sync registers has reached every mirror: writing a completion record is a release
at .pkg (R198, R202). In a partition that is being reset, which clears the mirrors, what an edge that is down keeps is not waited for (R346,
R351). -/
def State.mirrored (s : State) (g : Gang) : Bool :=
  let q := s.partn g.part
  match g.place with
  | some (d, _, _) => !q.updates.any (fun u => decide (q.logDie d ∈ u.seen) && (q.ending.isEmpty || !s.updateDown q u))
  | none => true

/-- Every wave has exited, nothing of the gang is under way, and no key command keeps its completion record waiting (R357). -/
def State.gangOver (s : State) (n : Nat) : Bool :=
  let g := s.gang n
  g.live && g.place.isSome && !g.frozen && g.kill.isNone && (s.gangWaves n).isEmpty && !s.drains n &&
  !s.gangCommits n && s.mirrored g && !s.complBusy g.asid g.part g.record

/-- Steps 2 and 3 of R154, with status OK; a reset that waits for the gangs of the partition may be over (R346). -/
def State.completeGang (s : State) (n : Nat) : State :=
  let c := s.homeCore n
  let s1 := (s.freeGang n).retireGang n c statusOk 0 1
  let s2 := s1.removeTask (s.gang n).stash
  ((s2.setGang n { s2.gang n with release := some 0 }).leftQuad (s.gang n).part (s.gang n).place).endReset (s.gang n).part

/-- GANG_COMPLETION: a gang whose waves have all exited completes; one whose successor step was interrupted goes on with it. -/
def execGangCompletion (gang : Nat) (s : State) : Out :=
  let g := s.gang gang
  if s.gangOver gang then .next ((s.completeGang gang).goOnReleasing gang none)
  else if g.release.isSome ∧ g.stall.isNone then .next (s.goOnReleasing gang none)
  else .next s

/-! ## Kills (R334) -/

/-- Every walking lane of wave `n` writes its object back with STATE STOPPED. -/
def State.stopWalks (s : State) (n : Nat) : State :=
  (s.wave n).walks.foldl (fun s e => if e.2.phase ≠ .idle then s.closeObj (s.wave n) e.2 3 0 else s) s

/-- A wave that is killed exits with code 0 (R341). -/
def State.killWave (s : State) (n : Nat) : State :=
  ((s.stopWalks n).setWave n { (s.stopWalks n).wave n with exit := 0 }).waveGone n

/-- The record of a kill: type 0x0030, or 0x0031 for a relaunch. Policies 1 and 2 apply a policy; other kills give 0xFF (R334). -/
def killRecord (g : Gang) (c : CoreId) (cause : BitVec 16) (pol : BitVec 8) : Record :=
  { (Record.blank (if pol = 2 then 0x0031 else 0x0030) 3 (coreLoc c 16 0)).ofGang g with
    flags := if pol = 0xFF then 0 else 8
    policy := pol
    data0 := cause.zeroExtend 64 }

/-- The lifeline re-enters its section at its original position, to be launched afresh (R334). -/
def State.relaunch (s : State) (n : Nat) : State :=
  match s.stash.find? (fun t => t.num = (s.gang n).stash) with
  | some t => s.setTask { t with gang := some n, resident := false, relaunched := true, unplaced := s.time, target := none, stall := none }
  | none => s

/-- Steps 2 to 4 of R334. -/
def State.killGang (s : State) (n : Nat) (cause : BitVec 16) (pol : BitVec 8) : State :=
  let c := s.homeCore n
  let s1 := ((s.gangWaves n).foldl State.killWave s).freeGang n
  let g := s1.gang n
  let s2 := (s1.report c.die (killRecord g c cause pol)).leftQuad g.part (s.gang n).place
  if pol = 2 then (s2.retireGang n c statusRelaunched cause.toNat 0).relaunch n |>.endReset g.part
  else (((s2.retireGang n c statusKilled cause.toNat 1).removeTask g.stash).childDone g.parent).settle.endReset g.part

/-- A gang on its way out has stopped between tie groups, its transfers have drained and its stores are performed, those of waves that have
exited too (R198, R306, R334), and no key
command keeps its completion record waiting (R357). -/
def State.killReady (s : State) (n : Nat) : Bool :=
  let g := s.gang n
  g.live && !s.drains n && !s.gangCommits n && (s.gangWaves n).all (fun m => s.atBoundary m && s.storesQuiet m) && s.mirrored g &&
  !s.complBusy g.asid g.part g.record

/-- GANG_KILL: a gang on its way out is killed once it is ready. -/
def execGangKill (gang : Nat) (cause : BitVec 16) (s : State) : Out :=
  match (s.gang gang).kill with
  | none => .next s
  | some (c, pol) =>
    if c = cause ∧ s.killReady gang then .next (s.killGang gang c pol) else .next s

/-- Begin a kill that is no containment event (R334): step 1. A gang that would be killed and relaunched is killed for good. -/
def State.startKill (s : State) (n : Nat) (cause : BitVec 16) : State :=
  let g := s.gang n
  let ends : Bool := match g.kill with
    | none => true
    | some (_, pol) => decide (pol = 2)
  if g.live ∧ ends then (s.setGang n { g with kill := some (cause, 0xFF), frozen := false, halt := none }).withdrawGang n else s

end Sys2Proof.Machine
end

