-- ==== Sys2Proof/Machine/Privileged.lean ====
section
/-! DEFINITION. The privileged instructions of MAJ 0x3C that are left (R312 to R314), illegal words, and the acts on a wave that no word
of it does: the fetch, the age queue, the end of a `sleep` and of an `hcall`. -/

namespace Sys2Proof.Machine

/-- A word of MAJ 0x3C outside a privileged context raises PRIVILEGED (R312). -/
def State.privileged (s : State) (body : Out) : Out := if s.me.id.priv then body else s.trapWord causePrivileged

/-- Whether a base and a limit break R165 for a space (R313). -/
def badSegment (sp : Space) (b lim wg waves : Nat) : Bool :=
  match sp with
  | .g => 2 ^ 48 < b + lim
  | .d => b % 4 ≠ 0 ∨ 0x6000000 < b + lim
  | .q => b % 256 ≠ 0 ∨ 0x300000 < b + lim
  | .c => b % 4 ≠ 0 ∨ 2 ^ 48 < b + lim
  | .l => b % 256 ≠ 0 ∨ lim % 4 ≠ 0 ∨ 0x100000 < lim ∨ 2 ^ 48 < b + wg * waves * 64 * lim

def Segments.with (x : Segments) (sp : Space) (y : Segment) : Segments :=
  match sp with
  | .g => { x with g := y }
  | .d => { x with d := y }
  | .q => { x with q := y }
  | .c => { x with c := y }
  | .l => { x with l := y }

/-- An interlock entry with a range in the space. -/
def Interlock.inSpace (i : Interlock) (sp : Space) : Bool :=
  (i.src.any (fun r => r.sp = sp)) || (i.dst.any (fun r => r.sp = sp))

/-- `segld` (R313). -/
def execSegld (sd sa : SReg) (sp : Space) (s : State) : Out :=
  s.privileged (
    let w := s.me
    let b := w.rs sa
    let lim := w.rs sd
    let r := (s.gang w.id.gang).record
    if badSegment sp b.toNat lim.toNat r.wg r.waves then s.trap causeSegment (b ||| BitVec.ofNat 64 (spaceCode sp * 2 ^ 61))
    else match w.lockCheck (fun i => i.inSpace sp) with
      | .ok () => if s.storesDone s.cur then s.done { w with seg := w.seg.with sp ⟨b, lim⟩ } else s.hold
      | x => s.failed w .load s.hold x)

/-- Remove translations of an ASID from every TLB: all of them, or those of the page that holds `va` (R314). -/
def State.dropTlb (s : State) (asid : Nat) (va : Option Nat) : State :=
  let gone (e : TlbEntry) : Bool := e.asid = asid && match va with
    | none => true
    | some a => decide (e.va ≤ a) && decide (a < e.va + e.size)
  { s with cores := s.cores.map (fun e => (e.1, { e.2 with tlb := e.2.tlb.filter (fun x => !gone x) })) }

/-- The operand of R314: all ones names every translation. -/
def tlbTarget (x : DWord) : Option Nat := if x = BitVec.allOnes 64 then none else some x.toNat

/-- Accesses that used a translation have still to be performed: commits, and stores that are late. -/
def State.accessesLeft (s : State) : Bool := s.repl ≠ [] || s.waves.any (fun e => e.2.late ≠ [])

/-- The late loads of every wave are at their end: as they stand, they are performed. -/
def State.endLoads (s : State) : State := { s with waves := s.waves.map (fun e => (e.1, { e.2 with loads := [] })) }

/-- `tlbinv` (R314): held while an access that used a translation has still to be performed. -/
def execTlbinv (sa : SReg) (asid : BitVec 10) (s : State) : Out :=
  s.privileged (
    if s.accessesLeft then s.hold
    else
      let s1 := s.endLoads.dropTlb asid.toNat (tlbTarget (s.me.rs sa))
      s1.done s1.me)

/-- `halt` (R312): the gang begins to be frozen for the host, with cause 0; the words tied behind it are of its tie group and still run. -/
def execHalt (s : State) : Out :=
  s.privileged (.next ((s.setMe (s.me.past 1)).beginHalt s.me.id.gang 0))

/-- A word that is no instruction (R38). -/
def execIllegalOp (word : Word) (s : State) : Out := s.trap causeIllegalOp (wordInfo word)

/-- The outcome with another wave as the one that issues. -/
def Out.as (o : Out) (n : Nat) : Out :=
  match o with
  | .next s => .next { s with cur := n }
  | x => x

/-- INSTRUCTION_FETCH: the packet of the run that wave `n` would issue is fetched and checked (R16, R22). -/
def execInstructionFetch (wave : Nat) (s : State) : Out :=
  if ¬ s.canIssue wave then .next s
  else match (s.wave wave).pick with
    | none => .next s
    | some w =>
      if w.run.buf.isSome then .next s
      else
        let o := ({ s.setWave wave w with cur := wave } : State).fetch
        match o with
        | .error x => Out.as x s.cur
        | .ok (s1, _) => .next { s1 with cur := s.cur }

/-- AGE_QUEUE_JOIN: a wave that has been ready for 4,096 cycles without being chosen joins its core's age queue (R160). -/
def execAgeQueueJoin (wave : Nat) (s : State) : Out :=
  if 4096 ≤ (s.wave wave).ready ∧ s.canIssue wave then .next (s.joinAge wave) else .next s

/-- SLEEP_DEADLINE: %time has reached the wave's deadline (R96). -/
def execSleepDeadline (wave : Nat) (s : State) : Out :=
  let w := s.wave wave
  match w.wait with
  | .sleep d => if w.live ∧ d ≤ s.time then .next (s.setWave wave { w with wait := .none }) else .next s
  | _ => .next s

/-- HCALL_REPLY: s[sd] ← the reply, with an acquire, and the wave goes on at the next word, where it joins the run that stands there
(R93, R101). -/
def execHcallReply (wave : Nat) (value : DWord) (s : State) : Out :=
  let w := s.wave wave
  match w.wait with
  | .hcall sd =>
    if w.live then .next ((s.setWave wave { ((w.setS sd value).past 1).merge with wait := .none }).acquireBy wave) else .next s
  | _ => .next s

end Sys2Proof.Machine
end

