-- ==== Sys2Proof/Machine/Queues.lean ====
section
/-! DEFINITION. User queues: notifications, mapping and unmapping, the time share, and the service of a slot (R149 to R152). -/

namespace Sys2Proof.Machine

/-- A queue descriptor (R149). -/
structure Descriptor where
  ring  : Nat
  log2n : Nat
  widx  : BitVec 32
  ridx  : BitVec 32
  noted : Bool
  good  : Bool      -- LOG2N and the zero bytes keep R149
  deriving DecidableEq, Repr

def descriptorOf (bs : List Byte) : Descriptor where
  ring := field bs 0 8
  log2n := field bs 8 1
  widx := BitVec.ofNat 32 (field bs 0x10 4)
  ridx := BitVec.ofNat 32 (field bs 0x14 4)
  noted := field bs 0x18 8 ≠ 0
  good := 1 ≤ field bs 8 1 ∧ field bs 8 1 ≤ 16 ∧ field bs 0xC 4 = 0 ∧ field bs 0x20 32 = 0

def State.queueAgent (s : State) (x : Queue) : Agent := s.engine x.asid x.part

/-- Entry `i` of the ring. -/
def Descriptor.entry (d : Descriptor) (i : BitVec 32) : Nat := d.ring + 8 * (i.toNat % 2 ^ d.log2n)

/-! ## Faults of a slot (R151, R316) -/

/-- The record of a dropped entry or of an unmapped queue. -/
def State.queueRecord (s : State) (q : Nat) (x : Queue) (data reason : Nat) : State :=
  let die := (s.partn x.part).physDie 0
  s.report die { Record.blank 0x0080 2 (stashLoc die) with
    asid := BitVec.ofNat 16 x.asid, part := BitVec.ofNat 8 x.part.val
    data0 := BitVec.ofNat 64 data, data1 := BitVec.ofNat 64 (q + reason * 2 ^ 16) }

/-- The slot stalls while the host resolves a translation. -/
def State.stallQueue (s : State) (q : Nat) (cause : BitVec 8) (va : Nat) : State :=
  let x := s.queue q
  (s.setQueue q { x with stall := some s.tag }).request (.queue q) ((s.partn x.part).physDie 0) x.asid x.part 7 cause va 0

/-- A descriptor that cannot be used: the queue is unmapped and left with NOTIFYW = 1 until it is registered again. -/
def State.deadQueue (s : State) (q reason : Nat) : State :=
  let x := s.queue q
  let s1 := s.putAt (s.queueAgent x) (x.desc + 0x18) (bytesOfNat 8 1)
  (s1.setQueue q { x with mapped := false, joining := false, dead := true, pending := true, upto := none, stall := none, expired := false }).queueRecord q x
    x.desc reason

/-- Read the descriptor for the slot; `no` is an address that the host has declined. The state answers where it cannot be used. -/
def State.slotRead (s : State) (q : Nat) (no : Option Nat) : Except State Descriptor :=
  let x := s.queue q
  match s.got (s.queueAgent x) .load x.desc 64 with
  | .ok bs => if (descriptorOf bs).good then .ok (descriptorOf bs) else .error (s.deadQueue q 8)
  | .stall c va => .error (if no = some va then s.deadQueue q 5 else s.stallQueue q c va)
  | .refused => .error (s.deadQueue q 6)
  | .poison => .error (s.deadQueue q 7)
  | .busy => .error s

/-- Write `bs` at offset `off` of the descriptor for the slot; `no` is an address that the host has declined. A page that cannot be written
is a fault at the descriptor (R151, R316); the error is the state where the slot does not go on. -/
def State.slotWrite (s : State) (q : Nat) (no : Option Nat) (off : Nat) (bs : List Byte) : Except State State :=
  let x := s.queue q
  match s.putTry (s.queueAgent x) (x.desc + off) bs with
  | .ok s1 => .ok s1
  | .stall c va => .error (if no = some va then s.deadQueue q 5 else s.stallQueue q c va)
  | .refused => .error (s.deadQueue q 6)
  | .busy => .error s

/-! ## Unmapping and mapping (R150) -/

/-- Unmap a queue: the pending bit is folded into NOTIFYW, and the slot is free. -/
def State.unmapQueue (s : State) (q : Nat) : State :=
  let x := s.queue q
  let s1 := s.setQueue q { x with mapped := false, joining := false, pending := false, upto := none, expired := false }
  if x.pending then s1.notify q else s1

/-- The queues that hold a slot. -/
def State.mappedQueues (s : State) : List (Nat × Queue) := s.queues.filter (fun e => e.2.mapped)

/-- A descriptor read by the scheduler, which changes nothing. -/
def State.peek (s : State) (x : Queue) : Option Descriptor :=
  match s.got (s.queueAgent x) .load x.desc 64 with
  | .ok bs => some (descriptorOf bs)
  | _ => none

/-- A queue that the scheduler would map: unmapped, with a notification pending or RIDX ≠ WIDX (R152). One whose descriptor cannot be read
is mapped too, so that its slot meets the fault (R151; log entry 84). -/
def State.wantsSlot (s : State) (x : Queue) : Bool :=
  !x.mapped && !x.dead && (s.partn x.part).made && (s.partn x.part).ending.isEmpty && (x.pending ||
    match s.got (s.queueAgent x) .load x.desc 64 with
    | .ok bs => (descriptorOf bs).noted || decide ((descriptorOf bs).ridx ≠ (descriptorOf bs).widx)
    | .busy => false
    | _ => true)

/-- A mapped queue with nothing to do: no notification, no entry being read. Its WIDX is not looked at (log entry 102). -/
def Queue.empty (x : Queue) : Bool := x.mapped && !x.joining && !x.pending && x.upto.isNone && x.stall.isNone

/-- The slot of a queue that joins it: NOTIFYW is read and cleared, and the pending bit set if it was nonzero or if RIDX ≠ WIDX. -/
def State.joinSlot (s : State) (q : Nat) (no : Option Nat) : State :=
  match s.slotRead q no with
  | .error s1 => s1
  | .ok d =>
    match s.slotWrite q no 0x18 (bytesOfNat 8 0) with
    | .error s1 => s1
    | .ok s1 =>
      let x := s1.queue q
      s1.setQueue q { x with joining := false, pending := x.pending || d.noted || decide (d.ridx ≠ d.widx) }

/-- Map a queue, whose empty time begins anew (log entry 102). Where the descriptor cannot be reached at once, its slot stalls before it joins (R151). -/
def State.mapQueue (s : State) (q : Nat) : State :=
  (s.setQueue q { s.queue q with mapped := true, joining := true, mapTime := s.time, emptyAt := s.time, expired := false }).joinSlot q none

/-- QUEUE_MAP: a queue that wants a slot takes a free one. -/
def execQueueMap (q : Nat) (s : State) : Out :=
  match lookOpt s.queues q with
  | none => .next s
  | some x => if s.wantsSlot x ∧ s.mappedQueues.length < 256 then .next (s.mapQueue q) else .next s

/-- A queue waits for a slot and none is free. -/
def State.slotsShort (s : State) : Bool :=
  decide (256 ≤ s.mappedQueues.length) && s.queues.any (fun e => s.wantsSlot e.2)

/-- The mapped queue that has been empty longest, for at least 50 µs. -/
def State.emptiest (s : State) : Option Nat :=
  match s.mappedQueues.filter (fun e => e.2.empty && decide (ticks50us ≤ s.time - e.2.emptyAt)) with
  | [] => none
  | x :: xs => some (xs.foldl (fun a b => if b.2.emptyAt < a.2.emptyAt then b else a) x).1

/-- QUEUE_UNMAP: no slot is free, and the queue has been empty longest (R152). -/
def execQueueUnmap (q : Nat) (s : State) : Out :=
  if s.slotsShort ∧ s.emptiest = some q then .next (s.unmapQueue q) else .next s

/-- The queue mapped least recently of those whose time share of 100 µs is over. -/
def State.oldestMapped (s : State) : Option Nat :=
  match s.mappedQueues.filter (fun e => !e.2.expired && decide (ticks100us ≤ s.time - e.2.mapTime)) with
  | [] => none
  | x :: xs => some (xs.foldl (fun a b => if b.2.mapTime < a.2.mapTime then b else a) x).1

/-- QUEUE_TIME_SHARE_EXPIRY: the queue is unmapped at its next entry boundary, at once where no entry is being read (R152). -/
def execQueueTimeShareExpiry (q : Nat) (s : State) : Out :=
  if s.slotsShort ∧ s.emptiest = none ∧ s.oldestMapped = some q then
    let x := s.queue q
    if x.stall.isNone then .next (s.unmapQueue q) else .next (s.setQueue q { x with expired := true })
  else .next s

/-- NOTIFICATION of queue `q` (R150). -/
def execNotification (q : Nat) (s : State) : Out := .next (s.notify q)

/-! ## The service of a slot (R151) -/

/-- An entry boundary: a queue whose time share is over is unmapped (R152). -/
def State.slotBoundary (s : State) (q : Nat) : State := if (s.queue q).expired then s.unmapQueue q else s

/-- Entry `i` is consumed: RIDX advances past it, and `f` is what becomes of it. Where RIDX cannot be written the entry is not consumed. The
queue's empty time starts again with each entry (R152). -/
def State.nextEntry (s : State) (q : Nat) (no : Option Nat) (i : BitVec 32) (f : State → State) : State :=
  match s.slotWrite q no 0x14 (bytesOfNat 4 (i + 1).toNat) with
  | .error s1 => s1
  | .ok s1 => (f (s1.setQueue q { s1.queue q with emptyAt := s1.time })).slotBoundary q

/-- An entry is consumed and dropped: a record and no completion record. -/
def State.dropEntry (s : State) (q : Nat) (no : Option Nat) (i : BitVec 32) (data reason : Nat) : State :=
  s.nextEntry q no i (fun s => s.queueRecord q (s.queue q) data reason)

/-- The record that an entry names, or the end of the slot's step. -/
def State.entryRead (s : State) (q : Nat) (no : Option Nat) (i : BitVec 32) (data va n : Nat) : Except State (List Byte) :=
  match s.got (s.queueAgent (s.queue q)) .load va n with
  | .ok bs => .ok bs
  | .stall c x => .error (if no = some x then s.dropEntry q no i data 2 else s.stallQueue q c x)
  | .refused => .error (s.dropEntry q no i data 3)
  | .poison => .error (s.dropEntry q no i data 4)
  | .busy => .error s

/-- Entry `i` goes into the Stash. -/
def State.takeEntry (s : State) (q : Nat) (d : Descriptor) (i : BitVec 32) (no : Option Nat) : State :=
  let x := s.queue q
  let at_ := d.entry i
  match s.entryRead q no i at_ at_ 8 with
  | .error s1 => s1
  | .ok es =>
    let v := leNat es
    if v = 0 then s.nextEntry q no i id
    else if v % 64 ≠ 0 then s.dropEntry q no i v 1
    else match s.entryRead q no i v v 256 with
      | .error s1 => s1
      | .ok bs =>
        s.nextEntry q no i (fun s => s.stashTask (s.newTask bs (BitVec.ofNat 64 v) x.asid x.part 0 x.priv none))

/-- The next entry below the WIDX that the slot has read, if there is one and the Stash has room for it (R153). A notification that has found
no new entry has no effect: the queue has been empty for as long as before (R151, R152). -/
def State.serveEntry (s : State) (q : Nat) (d : Descriptor) (top : BitVec 32) (no : Option Nat) : State :=
  let x := s.queue q
  if d.ridx = top then (s.setQueue q { x with upto := none }).slotBoundary q
  else if s.queueRoom x.part then s.takeEntry q d d.ridx no
  else s

/-- One step of a slot: it joins its queue, or the pending bit is cleared and WIDX read, or an entry below the WIDX read before is inserted. A
slot with neither a set bit nor an entry to insert reads nothing. -/
def State.serveSlot (s : State) (q : Nat) (no : Option Nat) : State :=
  if (s.queue q).joining then s.joinSlot q no
  else if !(s.queue q).pending && (s.queue q).upto.isNone then s
  else match s.slotRead q no with
  | .error s1 => s1
  | .ok d =>
    let x := s.queue q
    match x.upto with
    | some top => s.serveEntry q d top no
    | none =>
      if x.pending then (s.setQueue q { x with pending := false, upto := some d.widx }).serveEntry q d d.widx no else s

/-- The entries that are left below the WIDX read. -/
def State.entriesLeft (s : State) (q : Nat) : Nat :=
  match s.peek (s.queue q), (s.queue q).upto with
  | some d, some top => (top - d.ridx).toNat
  | _, _ => 0

/-- At most `n` more entries, while the slot keeps its queue and is not stopped by a translation or a full Stash. -/
def State.serveMore (s : State) (q : Nat) : Nat → State
  | 0 => s
  | n + 1 =>
    let x := s.queue q
    if x.mapped ∧ x.stall.isNone ∧ x.upto.isSome then (s.serveSlot q none).serveMore q n else s

/-- The slot clears its pending bit and inserts the entries up to WIDX. -/
def State.servePending (s : State) (q : Nat) (no : Option Nat) : State :=
  let s1 := s.serveSlot q no
  s1.serveMore q (s1.entriesLeft q + 1)

/-- PENDING_BIT_SERVICE of a mapped queue. -/
def execPendingBitService (q : Nat) (s : State) : Out :=
  let x := s.queue q
  if x.mapped ∧ x.stall.isNone then .next (s.servePending q none) else .next s

end Sys2Proof.Machine
end

