-- ==== Sys2Proof/Machine/Graces.lean ====
section
/-! DEFINITION. The ends of graces (R299, R300), the freed rings (R304), slow graces (R305), the mirrors of the die sync registers (R212,
R351) and the commits to REPL pages (R203). -/

namespace Sys2Proof.Machine

/-! ## The place of a domain -/

/-- The partition of a domain's ASID. -/
def State.domPart (s : State) (k : Nat) : Fin 8 := (s.asid (k / 8)).part

/-- The die to which the events of a domain belong (R329). -/
def State.domDie (s : State) (k : Nat) : Fin 4 :=
  (s.partn (s.domPart k)).physDie (if k % 8 = 0 then 0 else k % 8 - 1)

/-- The scope code of a domain (R8). -/
def domScope (k : Nat) : Nat := if k % 8 = 0 then 4 else 3

/-- The QTR as an agent. -/
def State.qtr (s : State) (k : Nat) : Agent := ⟨k / 8, s.domPart k, s.domDie k, none⟩

/-- A record of type 0x0021 about a domain. The QTR has no unit code of its own in R331: its records name unit 16 (log entry 35). -/
def State.domRecord (s : State) (k : Nat) : Record :=
  { Record.blank 0x0021 0 (dieLoc (s.domDie k) 16 0) with
    asid := BitVec.ofNat 16 (k / 8), part := BitVec.ofNat 8 (s.domPart k).val }

/-! ## Posting to a freed ring (R304) -/

/-- The 16 bytes of a posted entry. -/
def frogBytes (f : Frog) (k : Nat) : List Byte :=
  bytesOfNat 8 f.addr.toNat ++ bytesOfNat 1 f.cls.toNat ++ bytesOfNat 1 (domScope k) ++ [0, 0] ++ bytesOfNat 4 f.grace.toNat

/-- Posting stops for the domain until its ring is registered again. -/
def State.stickDomain (s : State) (k : Nat) (f : Frog) : State :=
  (s.setDomain k { s.domain k with stuck := true, stall := none }).report (s.domDie k)
    { s.domRecord k with data0 := f.grace.zeroExtend 64, data1 := BitVec.ofNat 64 (2 ^ 63 + domScope k * 2 ^ 33) }

/-- What an attempt to post one entry comes to. -/
inductive Posting where
  | ok (s : State)
  | full
  | stall (cause : BitVec 8) (va : Nat)
  | stop
  | busy
  deriving DecidableEq, Repr

/-- Write an entry and advance PUT, `put_` being its value. -/
def State.postAt (s : State) (a : Agent) (k base log2n put_ : Nat) (f : Frog) : Posting :=
  match s.reach a .store false (splitPages 3 (base + 0x40 + 16 * (put_ % 2 ^ log2n)) 16 ++ splitPages 3 base 4) with
  | .ok (_, ps) =>
    if s.anyLocked none ps then .busy else .ok (s.putPieces a ps (frogBytes f k ++ bytesOfNat 4 ((put_ + 1) % 2 ^ 32)))
  | .ask _ c va => .stall c va
  | .trap _ _ => .stop
  | .lost _ => .stop
  | _ => .busy

/-- Post one entry. A ring whose PUT or TAKE is poisoned stops posting as a PROTECT failure does (log entry 35). -/
def State.postOne (s : State) (k base log2n : Nat) (f : Frog) : Posting :=
  let a := s.qtr k
  match s.got a .load base 8 with
  | .ok bs =>
    let p := field bs 0 4
    if 2 ^ log2n ≤ (p + 2 ^ 32 - field bs 4 4) % 2 ^ 32 then .full else s.postAt a k base log2n p f
  | .stall c va => .stall c va
  | .refused => .stop
  | .poison => .stop
  | .busy => .busy

/-- Post entries whose graces have completed, in order, until one cannot be posted. -/
def State.post (s : State) (k : Nat) : Nat → State
  | 0 => s
  | fuel + 1 =>
    let d := s.domain k
    match d.frogs, d.ring with
    | f :: rest, some (base, log2n) =>
      if d.stuck ∨ d.stall.isSome ∨ ¬ d.reached f.grace then s
      else match s.postOne k base log2n f with
        | .ok s1 => (s1.setDomain k { d with frogs := rest }).post k fuel
        | .full => s
        | .busy => s
        | .stop => s.stickDomain k f
        | .stall c va =>
          (s.setDomain k { d with stall := some s.tag }).request (.domain k) (s.domDie k) (k / 8) (s.domPart k) 10 c va 0
    | _, _ => s

def State.postAll (s : State) (k : Nat) : State := s.post k (s.domain k).frogs.length

/-- The host declines a translation of the ring: posting stops as for a PROTECT failure (R304). -/
def State.declineDomain (s : State) (k : Nat) : State :=
  match (s.domain k).frogs with
  | f :: _ => s.stickDomain k f
  | [] => s.setDomain k { s.domain k with stuck := true, stall := none }

/-- An ASID that firmware has been asked to retire is retired once its graces have completed and its frog queues are empty (R306). -/
def State.endRetire (s : State) (asid : Nat) : State :=
  let tags := (s.asid asid).retiring
  if tags = [] ∨ s.domains.any (fun e => e.1 / 8 = asid ∧ (e.2.now.isSome ∨ e.2.frogs ≠ [])) then s
  else tags.foldl (fun s tag => s.reply 8 tag 0 [])
    (({ s with asids := put s.asids asid .none, domains := s.domains.filter (fun e => e.1 / 8 ≠ asid) } : State).dropTlb asid none)

/-- FREED_RING_RECHECK: the QTR reads TAKE again. -/
def execFreedRingRecheck (dom : DomainKey) (s : State) : Out :=
  .next ((s.postAll (DomainKey.key dom)).endRetire dom.asid)

/-! ## Completion (R299, R300) -/

/-- The grace in progress completes: C ← C + 1, and the pending grace starts at that moment. -/
def State.completeGrace (s : State) (k : Nat) : State :=
  let d := s.domain k
  let s1 := s.setDomain k { d with c := d.c + 1, now := none, pending := false }
  if d.pending then s1.startGrace k else s1

/-- GRACE_COMPLETION: every held wave has been released. The waits for C go on, and the grace's entries are posted. -/
def execGraceCompletion (dom : DomainKey) (s : State) : Out :=
  match (s.domain (DomainKey.key dom)).now with
  | none => .next s
  | some g => if g.held ≠ [] then .next s else .next (((s.completeGrace (DomainKey.key dom)).settle.postAll (DomainKey.key dom)).endRetire dom.asid)

/-! ## Slow graces (R305) -/

/-- Whether a wave's gang holds a quad. -/
def State.resident (s : State) (n : Nat) : Bool := (s.gang (s.wave n).id.gang).place.isSome

/-- The order of R305: resident waves by place, then saved ones by the time of their saving. -/
def State.heldKey (s : State) (n : Nat) : Nat :=
  let w := s.wave n
  if s.resident n then CoreId.key w.id.place * 16 + w.id.slot.val
  else 2 ^ 16 + (s.gang w.id.gang).seq * 64 + n % 64

/-- The record of a slow grace. -/
def State.slowRecord (s : State) (k : Nat) (g : Grace) : Record :=
  let r := s.domRecord k
  let r1 := { r with data0 := ((s.domain k).c + 1).zeroExtend 64 }
  match sortBy s.heldKey g.held with
  | [] => { r1 with data1 := BitVec.ofNat 64 (domScope k * 2 ^ 33) }
  | n :: _ =>
    { r1 with
      data1 := BitVec.ofNat 64 (g.held.length + (if s.resident n then 0 else 2 ^ 32) + domScope k * 2 ^ 33)
      task := (s.wave n).id.task
      wave := waveBits (s.wave n) }

/-- SLOW_GRACE: the grace has been in progress for longer than %gwarn; one record, its only effect. -/
def execSlowGrace (dom : DomainKey) (s : State) : Out :=
  let k := (DomainKey.key dom)
  let d := s.domain k
  let limit := (s.partn (s.domPart k)).gwarn.toNat
  match d.now with
  | none => .next s
  | some g =>
    if g.told ∨ limit = 0 ∨ s.time - g.start ≤ limit then .next s
    else .next ((s.setDomain k { d with now := some { g with told := true } }).report (s.domDie k) (s.slowRecord k g))

/-! ## Mirrors (R212, R351) -/

/-- MIRROR_UPDATE: the oldest update for a logical die that may travel reaches its mirror. Those of one home share an edge, so that they
arrive in its order; an edge that is replaying holds back no other. -/
def execMirrorUpdate (part : Fin 8) (die : Fin 4) (s : State) : Out :=
  let p := s.partn part
  match p.updates.find? (fun u => u.die = die.val ∧ s.updateFree p u) with
  | none => .next s
  | some u => .next (s.setPartn part (p.arrive u)).settle

/-! ## REPL commits (R203) -/

/-- The bytes of a commit are written at the replica on a die, to which the home sends them behind what its agents have seen (R202). -/
def State.replicaStore (s : State) (c : ReplCommit) (d : Fin 4) : State :=
  let p : Place := .phys (replicaAt c.addr d) c.key false
  let s1 := s.push (Fin.ofNat 8 c.note.part.toNat) (Fin.ofNat 4 (c.addr / 2 ^ 36)) d
  if c.bad then s1.poisonStore c.wave c.note p c.bytes else s1.placeStore c.wave c.note p c.bytes

/-- The L1 of the core that made the store follows: at its die's replica the copy is updated, or dropped where the bytes are poisoned
(R172, R173). -/
def State.commitL1 (s : State) (c : ReplCommit) : State :=
  match c.wave with
  | none => s
  | some n =>
    let x := (s.wave n).id.place
    let k := replicaAt c.addr x.die
    if c.bad then s.dropLines x k c.bytes.length else s.setCore x { s.core x with l1 := updateL1 (s.core x).l1 k c.bytes }

/-- Every replica is updated. -/
def State.commit (s : State) (c : ReplCommit) : State :=
  ((List.finRange 4).foldl (fun s d => s.replicaStore c d) s).commitL1 c

/-- What stalled on a locked line can try again: a wave, a row of a stream, a lane in the tree-walk engine (R203). -/
def State.canRetry (s : State) : Stalled → Bool
  | .wave n => s.canIssue n
  | .stream t => (lookOpt s.transfers t).isSome && (s.xfer t).due
  | .lane n l =>
    let w := s.wave n
    w.live && (s.gang w.id.gang).runs && w.walks.any (fun e => e.1 = l ∧ e.2.phase = .due ∧ e.2.stall.isNone)
  | _ => false

/-- REPL_COMMIT: the lines of the oldest commit are locked at every replica; or every replica of the locked commit is updated and unlocked.
Between an unlock and the next lock the loads stalled at a locked line try again. -/
def execReplCommit (s : State) : Out :=
  match s.repl with
  | [] => .next s
  | c :: rest =>
    if c.locked then .next (({ s with repl := rest } : State).commit c).settle
    else if s.relief.any s.canRetry then .next s
    else .next { s with repl := { c with locked := true } :: rest }

end Sys2Proof.Machine
end

