-- ==== Sys2Proof/Machine/Errors.lean ====
section
/-! DEFINITION. Partition reset (R346), errors of arrays and shadows (R325 to R332), the barrier watchdog (R335, R340), replays on links
(R325, R351) and the in-field test (R336, R337). -/

namespace Sys2Proof.Machine

/-! ## Partition reset (R346) -/

/-- Step 2 for the queues. -/
def State.unmapAll (s : State) (p : Fin 8) : State :=
  ((s.mappedQueues.filter (fun e => e.2.part = p)).map (·.1)).foldl (fun s q =>
    (s.unmapQueue q).setQueue q { (s.unmapQueue q).queue q with stall := none }) s

/-- Every gang of the partition begins to be killed with cause 0x203, and steps 2 and 3 are taken. -/
def State.resetPartition (s : State) (p : Fin 8) : State :=
  let gs := (s.liveGangs.filter (fun e => e.2.part = p)).map (·.1)
  ((((gs.foldl (fun s n => s.startKill n 0x203) s).emptyStash p).unmapAll p).clearSync p).settle

/-- A reset or a teardown of the partition begins (R346); it is over at once where no gang is left. -/
def State.beginEnding (s : State) (p : Fin 8) (e : Ending) : State :=
  let s1 := s.resetPartition p
  (s1.setPartn p { s1.partn p with ending := (s1.partn p).ending ++ [e] }).endReset p

/-! ## Where an error is (R325, R331) -/

/-- The units that lie outside the quads (R331). -/
def outsideQuads (u : Nat) : Bool := decide (u ∈ [0, 2, 3, 13, 14, 15, 16])

/-- LOC of an error in the state that a unit keeps for gang `g`: the Stash's events belong to logical die 0 of the partition (R329). -/
def State.controlLoc (s : State) (g u : Nat) : Loc :=
  let c := s.homeCore g
  if u = 16 then stashLoc ((s.partn (s.gang g).part).physDie 0)
  else if outsideQuads u then dieLoc c.die u 0
  else coreLoc c u 0

/-- LOC of an error's place. -/
def State.siteLoc (s : State) : ErrSite → Loc
  | .dieMem d a => dieLoc d 0 (a / 4 % 256)
  | .scratch d q a => quadLoc d q 1 (a / 4 % 32)
  | .cache d _ => dieLoc d 2 0
  | .gddr a => dieLoc (Fin.ofNat 4 (a / 2 ^ 36)) 3 0
  | .l1 c _ => coreLoc c 4 0
  | .register w u _ => coreLoc (s.wave w).id.place u 0
  | .control g u _ => s.controlLoc g u

def siteAddr : ErrSite → Nat
  | .dieMem _ a => a
  | .scratch _ _ a => a
  | .cache _ a => a
  | .gddr a => a
  | .l1 _ a => a
  | .register _ _ a => a
  | .control _ _ a => a

/-! ## Corrected errors (R330) -/

/-- Hold a corrected error, or add it to one held for the same place and address. -/
def holdError (l : List HeldError) (loc : Loc) (addr now : Nat) (data synd : BitVec 64) : List HeldError :=
  if l.any (fun h => h.loc = loc ∧ h.addr = addr) then
    l.map (fun h => if h.loc = loc ∧ h.addr = addr then { h with count := h.count + 1 } else h)
  else l ++ [{ loc, addr, time := now, count := 1, data, synd }]

/-- CORRECTED_ERROR: the data is used and written back; a line of an L1 is invalidated. One of any array makes a record 0x0001 (log entry 111). -/
def execCorrectedError (site : ErrSite) (data syndrome : BitVec 64) (s : State) : Out :=
  let loc := s.siteLoc site
  let s1 := match site with
    | .l1 c a => s.dropL1 c a
    | _ => s
  let d := s1.die loc.die
  .next (s1.setDie loc.die { d with held := holdError d.held loc (siteAddr site) s.time data syndrome })

/-- CORRECTED_ERROR_HOLD_EXPIRY: the record of a held error is made, after those held before it for its place. -/
def execCorrectedErrorHoldExpiry (die : Fin 4) (index : Nat) (s : State) : Out :=
  match (s.die die).held[index]? with
  | none => .next s
  | some h => .next (s.flushHeld die h.loc)

/-! ## Uncorrectable errors (R326) -/

/-- FLAGS: retried, with transient or lasting. -/
def retryFlags (lasting : Bool) : BitVec 8 := if lasting then 5 else 3

/-- The record of an uncorrectable read; that of a memory's place names no ASID, task or wave (log entry 112). -/
def State.siteRecord (s : State) (site : ErrSite) (lasting : Bool) (data synd : BitVec 64) : Record :=
  let r := Record.blank (if lasting then 0x0003 else 0x0002) (if lasting then 2 else 1) (s.siteLoc site)
  let r1 := match site with
    | .register w _ _ => r.ofWave (s.wave w)
    | .control g _ _ => r.ofGang (s.gang g)
    | _ => r
  { r1 with flags := retryFlags lasting, addr := BitVec.ofNat 64 (siteAddr site), data0 := if lasting then 0 else data, data1 := synd }

/-- Poison the granule of a place that can be poisoned. -/
def State.poisonSite (s : State) : ErrSite → State
  | .dieMem d a => s.setDie d { s.die d with poison := put (s.die d).poison (a / 4) true }
  | .scratch d q a =>
    let x := (s.quad d q).wakes (a / 256) 1
    s.setQuad d q { x with poison := put x.poison (a / 4) true }
  | .cache _ a => { s with gddrPoison := put s.gddrPoison (a / 32) true }
  | .gddr a => { s with gddrPoison := put s.gddrPoison (a / 32) true }
  | _ => s

/-- UNCORRECTABLE_RETRY: a transient error leaves its record only; a lasting one poisons the granule, or contains the gang with cause
0x201. An L1 has no such error (R325); nor has a wave or a gang that is not there. -/
def execUncorrectableRetry (site : ErrSite) (lasting : Bool) (data syndrome : BitVec 64) (s : State) : Out :=
  let r := s.siteRecord site lasting data syndrome
  let of (g : Nat) (there : Bool) : Out :=
    if ¬ there then .next s else if lasting then .next (s.containWith g 0x201 r) else .next (s.report r.loc.die r)
  match site with
  | .l1 _ _ => .next s
  | .register w _ _ => of (s.wave w).id.gang (s.wave w).live
  | .control g _ _ => of g (s.gang g).live
  | _ => .next ((if lasting then s.poisonSite site else s).report r.loc.die r)

/-! ## Shadow divergence (R328, R311) -/

/-- The main result and the shadow's fields of an event: its DATA1 (R332). -/
def mainOf (data : BitVec 64) : Nat := fld data.toNat 0 32
def shadowOf (data : BitVec 64) : Nat := fld data.toNat 32 32

/-- Wave `n` is about to issue a word whose F32 results have shadows, `e` is one of the elements that it computes from %vstart on, its
result is checked, and it diverges (R327, R328). -/
def State.shadowed (s : State) (n e : Nat) (data : BitVec 64) : Bool :=
  match (s.wave n).pick with
  | none => false
  | some w => match w.run.buf with
    | none => false
    | some p =>
      let x := p.word (wordIndex w.run.pc)
      shadowWord x && decide (w.sr.vstart.toNat ≤ e) && decide (e < 64) && (w.part (shadowMask x)).getLsbD e &&
      w.checkedResult x (Fin.ofNat 64 e) (mainOf data) && diverges (mainOf data) (shadowOf data)

/-- The exponent of an exact term, as an F32 has it; none where it is zero, infinite, NaN or below the normal numbers. -/
def FVal.plainExp : FVal → Option Int
  | .fin _ m e => if m = 0 ∨ e + m.log2 < -126 then none else some (e + m.log2 + 127)
  | _ => none

/-- A result `r` of an accumulator adder: its inputs are plain, and it lies not more than 6 exponents below the largest addend (R327). -/
def checkedStep (r : Nat) (p : Word × List FVal) : Bool :=
  plainF32 p.1.toNat && p.2.all (fun x => x.plainExp.isSome) &&
  decide (p.2.foldl (fun m x => max m (x.plainExp.getD 0)) (shadowExp p.1.toNat : Int) ≤ (shadowExp r : Int) + 6)

/-- The sums of groups of `n` products, each with the accumulator before it (R71). `fuel` bounds the groups. -/
def floatSteps (n : Nat) : Nat → Word → List (FVal × FpFlags) → List (Word × List FVal)
  | 0, _, _ => []
  | fuel + 1, acc, ps =>
    if ps = [] then [] else (acc, (ps.take n).map (·.1)) :: floatSteps n fuel (groupSum acc (ps.take n)).1 (ps.drop n)

/-- The sums of `n` blocks, each with the accumulator before it (R73). -/
def blockSteps (fm : Nat) : Nat → Word → List Nat → List Nat → List Nat → List Nat → List (Word × List FVal)
  | 0, _, _, _, _, _ => []
  | n + 1, acc, a, w, ea, ew =>
    let x := blockTerm (intDot (actFmt fm) (wgtFmt fm) (a.take 32) (w.take 32)) (ea.headD 0) (ew.headD 0)
    (acc, [x]) :: blockSteps fm n (f32Sum [readF32 acc, x]).1 (a.drop 32) (w.drop 32) ea.tail ew.tail

/-- The sums of `tmma` for the element of row `i` and column `j`, which is `acc` before its row step: those of its groups, or of its blocks. -/
def State.tileSteps (s : State) (w : Wave) (g : TileGeom) (i j : Nat) (acc : Word) : List (Word × List FVal) :=
  let b := (s.core w.id.place).active
  let n := min g.vk b.lvk
  let row := (s.actRow w g i 0 .none).1
  let a := row.codes.take n
  let ws := (List.range n).map (fun k => b.weight k j)
  if blockFmt g.fm then blockSteps g.fm (g.gk / 32) acc a ws row.scales ((List.range (g.gk / 32)).map (fun x => b.scale x j))
  else
  let ps := List.zipWith (fun x y => ((actFmt g.fm).value x).mul ((wgtFmt g.fm).value y)) a ws
  floatSteps (if g.fm = 9 then 1 else 8) (g.gk + 1) acc (ps ++ List.replicate (g.gk - ps.length) maskedProduct)

/-- Element `e` of an accumulator has a sum still to come in a `tmma`, which is checked. The sums of a code-checked command have been made
when its check is over: they are looked at while no later command is in flight (log entry 77). -/
def State.tileChecked (s : State) (w : Wave) (t : TileCmd) (e r : Nat) : Bool :=
  let g := TileGeom.unpack t.base t.geom
  let c := s.core w.id.place
  let i := e / 64
  let j := e % 64
  decide (j < c.active.lvn) &&
  (if blockFmt g.fm then match c.sums with
      | some x => decide (x.num = t.num) && decide (w.tiles.getLast?.map (·.num) = some t.num) && decide (x.row ≤ i) && decide (i < g.vm) &&
        (s.tileSteps w g i j (look 0 x.el (64 * i + j))).any (checkedStep r)
      | none => false
    else decide (t.next ≤ i) && decide (i < t.rows) &&
      (s.tileSteps w g i j (c.acc[(Fin.ofNat 4 g.ad : Fin 4)].get i j)).any (checkedStep r))

/-- The `tmma` in flight whose F32 sums of element `e` of accumulator `a` have shadows, where the event's result is checked and diverges. -/
def State.arrayShadowed (s : State) (n : Nat) (a : AReg) (e : Nat) (data : BitVec 64) : Option TileCmd :=
  let w := s.wave n
  if (s.core w.id.place).owner = some n ∧ plainF32 (mainOf data) ∧ diverges (mainOf data) (shadowOf data) then
    w.tiles.find? (fun t => t.op = .mma && t.held.isNone &&
      (let g := TileGeom.unpack t.base t.geom
       decide (g.ad = a.val) && accTypeOf g.fm == .f32) && s.tileChecked w t e (mainOf data))
  else none

/-- The physical lane group that computes element `e`: its element group goes to the working groups in turn (R108). -/
def State.laneGroup (s : State) (c : CoreId) (e : Nat) : Nat :=
  let ws := (s.core c).working
  (ws[e / 16 % ws.length]?).getD 0

/-- The record of a divergence. -/
def State.shadowRecord (s : State) (n : Nat) (array lasting : Bool) (e : BitVec 16) (data : BitVec 64) : Record :=
  let w := s.wave n
  let w1 := w.pick.getD w
  { (Record.blank (if lasting then 0x0011 else 0x0010) (if lasting then 3 else 1)
      (coreLoc w.id.place (if array then 10 else 9) (if array then 0 else s.laneGroup w.id.place e.toNat))).ofWave w1 with
    flags := if lasting then 0x25 else 3
    data0 := e.zeroExtend 64
    data1 := data }

/-- A lasting divergence of an array: POIS ← 1 on the accumulator, the command is discarded with the flags of its rows, and SHADOW is due
(log entry 40). -/
def State.poisonAcc (s : State) (n : Nat) (a : AReg) (t : TileCmd) (e : BitVec 16) : State :=
  let s1 := s.dropTile n t
  let w := s1.wave n
  let c := s1.core w.id.place
  let x := c.acc[a]
  (s1.setCore w.id.place { c with acc := c.acc.set a { x with pois := true } }).setWave n
    { w with shadow := w.shadow ++ [⟨BitVec.ofNat 64 (e.toNat + 2 ^ 16 + a.val * 2 ^ 17), none⟩] }

/-- A lasting divergence of element `e` of the word that wave `n` issues next: SHADOW is due at that word (R311). -/
def State.shadowAt (s : State) (n : Nat) (e : BitVec 16) : State :=
  let w := s.wave n
  s.setWave n { w with shadow := w.shadow ++ [⟨e.zeroExtend 64, some (w.pick.getD w).run.pc⟩] }

/-- SHADOW_DIVERGENCE, of a vector lane (`acc` is none) or of an accumulator of the wave: an event only where a result that has a shadow is
checked and diverges. A transient one leaves its record only. -/
def execShadowDivergence (wave : Nat) (acc : Option AReg) (lasting : Bool) (elem : BitVec 16) (data : BitVec 64) (s : State) : Out :=
  let w := s.wave wave
  let r := s.shadowRecord wave acc.isSome lasting elem data
  if ¬ w.live then .next s
  else match acc with
    | some a =>
      match s.arrayShadowed wave a elem.toNat data with
      | none => .next s
      | some t => .next ((if lasting then s.poisonAcc wave a t elem else s).report r.loc.die r)
    | none =>
      if ¬ s.shadowed wave elem.toNat data then .next s
      else .next ((if lasting then s.shadowAt wave elem else s).report r.loc.die r)

/-! ## The barrier watchdog (R335, R340) -/

/-- A wait at a barrier: the barrier, its start, and the address of its word. -/
structure BarWait where
  bar   : BarScope × Fin 32 ⊕ Fin 16      -- a scope barrier, or a named one of the workgroup
  start : Nat
  pc    : DWord
  deriving DecidableEq, Repr

/-- The barrier's scope code, as ADDR of R340 gives it, and its number. -/
def BarWait.scope (b : BarWait) : Nat :=
  match b.bar with
  | .inl (.core, _) => 1
  | .inl (.quad, _) => 2
  | .inl (.die, _) => 3
  | .inl (.pkg, _) => 4
  | .inr _ => 2

def BarWait.num (b : BarWait) : Nat :=
  match b.bar with
  | .inl (_, n) => n.val
  | .inr n => n.val

def BarWait.named (b : BarWait) : Bool := b.bar.isRight

/-- The barrier waits of a wave. -/
def Wave.barWaits (w : Wave) : List BarWait :=
  (match w.wait with
    | .bar sc n t => [⟨.inl (sc, n), t, w.run.pc⟩]
    | _ => []) ++
  (w.run :: w.rest).filterMap (fun e => match e.wait with
    | some x => match x.what with
      | .bwait _ nb _ => some ⟨.inr nb, x.start, e.pc⟩
      | _ => none
    | none => none)

/-- The wait of a wave whose timer has passed %twd. -/
def State.expiredWait (s : State) (n : Nat) : Option BarWait :=
  let w := s.wave n
  if w.live ∧ (s.gang w.id.gang).runs ∧ w.sr.twd ≠ 0 then
    w.barWaits.find? (fun b => decide (w.sr.twd.toNat < s.time - b.start))
  else none

/-- The bit of a wave in the masks of R332. -/
def waveBit (wg i : Nat) : Nat := 2 ^ (16 * wg + i)

/-- Whether wave `x` waits at the barrier at which wave `w` waits: a .core barrier and a named one belong to a workgroup (R213, R216). -/
def Wave.waitsWith (w : Wave) (b : BarWait) (x : Wave) : Bool :=
  x.barWaits.any (fun y => y.bar = b.bar) && match b.bar with
    | .inl (sc, _) => sameBar sc w x
    | .inr _ => decide (x.id.wg = w.id.wg)

/-- The waves of the gang that wait at the barrier at which wave `w` waits (R332). -/
def State.arrivedMask (s : State) (w : Wave) (b : BarWait) : Nat :=
  ((s.liveWaves.filter (fun e => e.2.id.gang = w.id.gang && w.waitsWith b e.2)).map
    (fun e => waveBit e.2.id.wg.val e.2.id.wave.val)).foldl (· + ·) 0

def Gang.exitedMask (g : Gang) : Nat := (g.exits.map (fun e => waveBit e.wg e.wave)).foldl (· + ·) 0

/-- The record of an expiry. -/
def State.barRecord (s : State) (n : Nat) (b : BarWait) : Record :=
  let w := s.wave n
  let r := (Record.blank 0x0020 3 (coreLoc w.id.place 17 (if b.named then 16 + b.num else b.num))).ofWave w
  { r with
    pc := b.pc.truncate 32
    addr := BitVec.ofNat 64 (b.scope + (if b.named then 8 else 0) + b.num * 16)
    data0 := BitVec.ofNat 64 (s.arrivedMask w b)
    data1 := BitVec.ofNat 64 (s.gang w.id.gang).exitedMask }

/-- BARRIER_WATCHDOG_EXPIRY of a wave: a record and the gang's policy, with cause 0x200. -/
def execBarrierWatchdogExpiry (wave : Nat) (s : State) : Out :=
  match s.expiredWait wave with
  | none => .next s
  | some b => .next (s.containWith (s.wave wave).id.gang 0x200 (s.barRecord wave b))

/-! ## Links (R325, R351) -/

def linkKey : Link → Nat
  | .edge a b => edgeKey a b
  | .host d => 16 + d.val
  | .soltor p => 32 + p.val

/-- The place of a link: the lower die of an edge, and die 0 for a Soltor port (log entry 41). -/
def linkLoc : Link → Loc
  | .edge a b => dieLoc (if a ≤ b then a else b) 13 0
  | .host d => dieLoc d 15 0
  | .soltor p => dieLoc 0 14 p.val

/-- The record of a link that has failed 16 replays: the port of a Soltor link, else a number that the spec does not give (R332). -/
def State.linkRecord (s : State) (l : Link) : State :=
  let r := { Record.blank 0x0050 2 (linkLoc l) with
    data0 := BitVec.ofNat 64 (match l with
      | .soltor p => p.val
      | _ => Config.linkError s.fresh)
    data1 := 16 }
  ({ s with fresh := s.fresh + 1 }).report (linkLoc l).die r

/-- The partition has quads on both dies. -/
def Partition.spans (p : Partition) (a b : Fin 4) : Bool := p.made && decide (a ∈ p.dieList) && decide (b ∈ p.dieList)

/-- EDGE_DOWN: 16 replays have failed; the record, and a reset of every partition that spans the edge. -/
def execEdgeDown (a b : Fin 4) (s : State) : Out :=
  let e := s.edge a b
  if a = b ∨ e.down ∨ e.failed < 16 then .next s
  else
    let s1 := ({ s with edges := put s.edges (edgeKey a b) { e with down := true } }).linkRecord (.edge a b)
    .next (((List.finRange 8).filter (fun p => (s.partn p).spans a b)).foldl (fun s p => s.beginEnding p ⟨none, false⟩) s1)

/-- FLIT_REPLAY: a flit is sent again, and fails again or passes. The 16th failure in a row takes the link down: that of a host or Soltor link
makes its record, that of an edge leaves EDGE_DOWN to come. -/
def execFlitReplay (link : Link) (failed : Bool) (s : State) : Out :=
  let k := linkKey link
  let e := look .up s.edges k
  if e.down then .next s
  else if ¬ failed then .next (if e.failed < 16 then { s with edges := put s.edges k { e with failed := 0 } } else s)
  else
    let e1 := { e with failed := e.failed + 1 }
    match link with
    | .edge _ _ => .next { s with edges := put s.edges k e1 }
    | l =>
      if 16 ≤ e1.failed then .next (({ s with edges := put s.edges k { e1 with down := true } }).linkRecord l)
      else .next { s with edges := put s.edges k e1 }

/-! ## The in-field test (R336, R337) -/

/-- IFT_START: a test of QUAD is requested; ignored while BUSY. -/
def State.startTest (s : State) (die : Fin 4) : State :=
  let d := s.die die
  if d.iftBusy then s
  else
    let q : Fin 36 := Fin.ofNat 36 d.iftQuad.toNat
    (s.setDie die { d with iftBusy := true }).setQuad die q { s.quad die q with testReq := true }

def execIftStart (die : Fin 4) (s : State) : Out := .next (s.startTest die)

/-- IFT_TEST_BEGIN: no gang is resident on the quad. -/
def execIftTestBegin (die : Fin 4) (s : State) : Out :=
  match (List.finRange 36).find? (fun q => (s.quad die q).testReq) with
  | none => .next s
  | some q =>
    if s.residents (fun _ => false) die q ≠ [] then .next s
    else .next ((s.setQuad die q { s.quad die q with testReq := false, testing := true }).setDie die
      { s.die die with iftLast := BitVec.ofNat 6 q.val })

/-- The record of a failed test. -/
def State.testRecord (s : State) (die : Fin 4) (q : Fin 36) : Record :=
  { Record.blank 0x0040 2 (quadLoc die q 16 0) with
    data0 := (s.quad die q).tpass, data1 := Config.dispatchLog (quadKey die q) }

/-- IFT_TEST_END: a pass sets TPASS and COUNT ← 0; a failure makes its record. Placement resumes either way. -/
def execIftTestEnd (die : Fin 4) (pass : Bool) (s : State) : Out :=
  match (List.finRange 36).find? (fun q => (s.quad die q).testing) with
  | none => .next s
  | some q =>
    let x := s.quad die q
    let s1 := s.setDie die { s.die die with iftBusy := false, iftPass := pass, iftFail := !pass }
    if pass then .next ((s1.setQuad die q { x with testing := false, tpass := BitVec.ofNat 64 s.time, placed := 0 }).writeLog die q none)
    else .next ((s1.setQuad die q { x with testing := false }).report die (s.testRecord die q))

end Sys2Proof.Machine
end

