-- ==== Sys2Proof/Machine/Crypto.lean ====
section
/-! DEFINITION. SHA-384 and ECDSA signatures on brainpoolP384r1 (R358). The two algorithms and their constants are
taken from the standards that the rule names, FIPS 180-4, FIPS 186 and RFC 5639 (log entry 42). -/

namespace Sys2Proof.Machine

/-! ## SHA-384 -/

def shaRound (i : Nat) : DWord :=
  BitVec.ofNat 64 ((
    [0x428A2F98D728AE22, 0x7137449123EF65CD, 0xB5C0FBCFEC4D3B2F, 0xE9B5DBA58189DBBC] ++
    [0x3956C25BF348B538, 0x59F111F1B605D019, 0x923F82A4AF194F9B, 0xAB1C5ED5DA6D8118] ++
    [0xD807AA98A3030242, 0x12835B0145706FBE, 0x243185BE4EE4B28C, 0x550C7DC3D5FFB4E2] ++
    [0x72BE5D74F27B896F, 0x80DEB1FE3B1696B1, 0x9BDC06A725C71235, 0xC19BF174CF692694] ++
    [0xE49B69C19EF14AD2, 0xEFBE4786384F25E3, 0x0FC19DC68B8CD5B5, 0x240CA1CC77AC9C65] ++
    [0x2DE92C6F592B0275, 0x4A7484AA6EA6E483, 0x5CB0A9DCBD41FBD4, 0x76F988DA831153B5] ++
    [0x983E5152EE66DFAB, 0xA831C66D2DB43210, 0xB00327C898FB213F, 0xBF597FC7BEEF0EE4] ++
    [0xC6E00BF33DA88FC2, 0xD5A79147930AA725, 0x06CA6351E003826F, 0x142929670A0E6E70] ++
    [0x27B70A8546D22FFC, 0x2E1B21385C26C926, 0x4D2C6DFC5AC42AED, 0x53380D139D95B3DF] ++
    [0x650A73548BAF63DE, 0x766A0ABB3C77B2A8, 0x81C2C92E47EDAEE6, 0x92722C851482353B] ++
    [0xA2BFE8A14CF10364, 0xA81A664BBC423001, 0xC24B8B70D0F89791, 0xC76C51A30654BE30] ++
    [0xD192E819D6EF5218, 0xD69906245565A910, 0xF40E35855771202A, 0x106AA07032BBD1B8] ++
    [0x19A4C116B8D2D0C8, 0x1E376C085141AB53, 0x2748774CDF8EEB99, 0x34B0BCB5E19B48A8] ++
    [0x391C0CB3C5C95A63, 0x4ED8AA4AE3418ACB, 0x5B9CCA4F7763E373, 0x682E6FF3D6B2B8A3] ++
    [0x748F82EE5DEFB2FC, 0x78A5636F43172F60, 0x84C87814A1F0AB72, 0x8CC702081A6439EC] ++
    [0x90BEFFFA23631E28, 0xA4506CEBDE82BDE9, 0xBEF9A3F7B2C67915, 0xC67178F2E372532B] ++
    [0xCA273ECEEA26619C, 0xD186B8C721C0C207, 0xEADA7DD6CDE0EB1E, 0xF57D4F7FEE6ED178] ++
    [0x06F067AA72176FBA, 0x0A637DC5A2C898A6, 0x113F9804BEF90DAE, 0x1B710B35131C471B] ++
    [0x28DB77F523047D84, 0x32CAAB7B40C72493, 0x3C9EBE0A15C9BEBC, 0x431D67C49C100D4C] ++
    [0x4CC5D4BECB3E42B6, 0x597F299CFC657E2A, 0x5FCB6FAB3AD6FAEC, 0x6C44198C4A475817] : List Nat).getD i 0)

def shaStart : List DWord :=
  [0xCBBB9D5DC1059ED8, 0x629A292A367CD507, 0x9159015A3070DD17, 0x152FECD8F70E5939,
   0x67332667FFC00B31, 0x8EB44A8768581511, 0xDB0C2E0D64F98FA7, 0x47B5481DBEFA4FA4]

def sigmaSmall (a b c : Nat) (x : DWord) : DWord := x.rotateRight a ^^^ x.rotateRight b ^^^ x >>> c
def sigmaBig (a b c : Nat) (x : DWord) : DWord := x.rotateRight a ^^^ x.rotateRight b ^^^ x.rotateRight c

/-- The number that bytes form, most significant first. -/
def beNat (bs : List Byte) : Nat := leNat bs.reverse

/-- `n` bytes, most significant first. -/
def beBytes (n x : Nat) : List Byte := (bytesOfNat n x).reverse

/-- Extend the message schedule `w`, newest first, by `n` words. -/
def shaExtend : Nat → List DWord → List DWord
  | 0, w => w
  | n + 1, w =>
    shaExtend n ((sigmaSmall 19 61 6 (w.getD 1 0) + w.getD 6 0 + sigmaSmall 1 8 7 (w.getD 14 0) + w.getD 15 0) :: w)

/-- One round over the eight working words. -/
def shaStep (i : Nat) (w : DWord) (h : List DWord) : List DWord :=
  match h with
  | [a, b, c, d, e, f, g, k] =>
    let t1 := k + sigmaBig 14 18 41 e + ((e &&& f) ^^^ (~~~e &&& g)) + shaRound i + w
    let t2 := sigmaBig 28 34 39 a + ((a &&& b) ^^^ (a &&& c) ^^^ (b &&& c))
    [t1 + t2, a, b, c, d + t1, e, f, g]
  | _ => h

def shaRounds : Nat → List DWord → List DWord → List DWord
  | _, [], h => h
  | i, w :: ws, h => shaRounds (i + 1) ws (shaStep i w h)

/-- The 16 words of a block of 128 bytes. -/
def shaWords (bs : List Byte) : List DWord :=
  (List.range 16).map (fun i => BitVec.ofNat 64 (beNat ((bs.drop (8 * i)).take 8)))

def shaBlock (h : List DWord) (bs : List Byte) : List DWord :=
  let w := (shaExtend 64 (shaWords bs).reverse).reverse
  (h.zip (shaRounds 0 w h)).map (fun e => e.1 + e.2)

/-- Blocks of 128 bytes in order. -/
def shaBlocks : Nat → List DWord → List Byte → List DWord
  | 0, h, _ => h
  | n + 1, h, bs => shaBlocks n (shaBlock h (bs.take 128)) (bs.drop 128)

/-- The padded message. -/
def shaPad (bs : List Byte) : List Byte :=
  bs ++ [0x80] ++ zeros ((239 - bs.length % 128) % 128) ++ beBytes 16 (8 * bs.length)

def sha384 (bs : List Byte) : List Byte :=
  let m := shaPad bs
  ((shaBlocks (m.length / 128) shaStart m).take 6).flatMap (fun x => beBytes 8 x.toNat)

/-! ## brainpoolP384r1 -/

/-- The prime of the field. -/
def curveP : Nat :=
  0x8CB91E82A3386D280F5D6F7E50E641DF152F7109ED5456B4 * 2 ^ 192 +
  0x12B1DA197FB71123ACD3A729901D1A71874700133107EC53

/-- The coefficients of the curve. -/
def curveA : Nat :=
  0x7BC382C63D8C150C3C72080ACE05AFA0C2BEA28E4FB22787 * 2 ^ 192 +
  0x139165EFBA91F90F8AA5814A503AD4EB04A8C7DD22CE2826

def curveB : Nat :=
  0x04A8C7DD22CE28268B39B55416F0447C2FB77DE107DCD2A6 * 2 ^ 192 +
  0x2E880EA53EEB62D57CB4390295DBC9943AB78696FA504C11

/-- The base point. -/
def curveX : Nat :=
  0x1D1C64F068CF45FFA2A63A81B7C13F6B8847A3E77EF14FE3 * 2 ^ 192 +
  0xDB7FCAFE0CBD10E8E826E03436D646AAEF87B2E247D4AF1E

def curveY : Nat :=
  0x8ABE1D7520F9C2A45CB1EB8E95CFD55262B70B29FEEC5864 * 2 ^ 192 +
  0xE19C054FF99129280E4646217791811142820341263C5315

/-- The order of the base point. -/
def curveQ : Nat :=
  0x8CB91E82A3386D280F5D6F7E50E641DF152F7109ED5456B3 * 2 ^ 192 +
  0x1F166E6CAC0425A7CF3AB6AF6B7FC3103B883202E9046565

/-- x ^ e modulo `m`, by `fuel` squarings. -/
def powMod (m : Nat) : Nat → Nat → Nat → Nat
  | 0, _, _ => 1 % m
  | fuel + 1, x, e => (if e % 2 = 1 then x else 1) * powMod m fuel (x * x % m) (e / 2) % m

/-- The inverse of `x` modulo a prime `m` of at most 384 bits. -/
def invMod (m x : Nat) : Nat := powMod m 384 (x % m) (m - 2)

/-- x − y modulo `m`. -/
def subMod (m x y : Nat) : Nat := (x + (m - y % m)) % m

/-- The point with slope `l` through two points. -/
def chord (l : Nat) (a b : Nat × Nat) : Nat × Nat :=
  let x := subMod curveP (l * l) (a.1 + b.1)
  (x, subMod curveP (l * subMod curveP a.1 x) a.2)

/-- The sum of two points of the curve; none is the point at infinity. -/
def curveAdd : Option (Nat × Nat) → Option (Nat × Nat) → Option (Nat × Nat)
  | none, b => b
  | a, none => a
  | some a, some b =>
    if a.1 = b.1 then
      if (a.2 + b.2) % curveP = 0 then none
      else some (chord ((3 * a.1 * a.1 + curveA) * invMod curveP (2 * a.2) % curveP) a b)
    else some (chord (subMod curveP b.2 a.2 * invMod curveP (subMod curveP b.1 a.1) % curveP) a b)

/-- A multiple of a point, by `fuel` doublings. -/
def curveMul : Nat → Nat → Option (Nat × Nat) → Option (Nat × Nat)
  | 0, _, _ => none
  | fuel + 1, k, a => curveAdd (if k % 2 = 1 then a else none) (curveMul fuel (k / 2) (curveAdd a a))

/-- A multiple of the base point. -/
def curvePoint (k : Nat) : Option (Nat × Nat) := curveMul 384 k (some (curveX, curveY))

def onCurve (a : Nat × Nat) : Bool :=
  decide (a.1 < curveP) && decide (a.2 < curveP) &&
  decide (a.2 * a.2 % curveP = (a.1 * a.1 * a.1 + curveA * a.1 + curveB) % curveP)

/-- Whether a signature of r and s, each 48 bytes, over a digest verifies under a public key of x and y, each 48 bytes. -/
def ecdsaVerify (key digest sig : List Byte) : Bool :=
  let a := (beNat (key.take 48), beNat (key.drop 48))
  let r := beNat (sig.take 48)
  let t := beNat (sig.drop 48)
  let u := invMod curveQ t
  decide (key.length = 96) && decide (sig.length = 96) && onCurve a && decide (0 < r) && decide (r < curveQ) &&
  decide (0 < t) && decide (t < curveQ) &&
  match curveAdd (curvePoint (beNat digest * u % curveQ)) (curveMul 384 (r * u % curveQ) (some a)) with
  | none => false
  | some p => decide (p.1 % curveQ = r)

/-- A number that is read as a member of the multiplicative group of the order. -/
def curveUnit (x : Nat) : Nat := x % (curveQ - 1) + 1

/-- The signature r, s over a digest under the private key `d`, made with the secret number `k`; none where r or s is 0, for which another
number is taken. -/
def ecdsaTry (d : Nat) (digest : List Byte) (k : Nat) : Option (List Byte) :=
  match curvePoint k with
  | none => none
  | some p =>
    let r := p.1 % curveQ
    let t := invMod curveQ k * (beNat digest + r * d) % curveQ
    if r = 0 ∨ t = 0 then none else some (beBytes 48 r ++ beBytes 48 t)

/-- The first of the signatures with `fuel` secret numbers that is one. -/
def ecdsaSign (d : Nat) (digest : List Byte) : Nat → Nat → List Byte
  | 0, _ => List.replicate 96 0
  | fuel + 1, n => (ecdsaTry d digest (curveUnit (Config.signNonce n))).getD (ecdsaSign d digest fuel (n + 1))

/-- The two halves of the device identity key (R358). -/
def identityPrivate : Nat := curveUnit Config.identityKey

def identityPublic : List Byte :=
  match curvePoint identityPrivate with
  | some p => beBytes 48 p.1 ++ beBytes 48 p.2
  | none => []

end Sys2Proof.Machine
end

