-- ==== Sys2Proof/Machine/Aperture.lean ====
section
/-! DEFINITION. The management apertures (R329, R334, R336, R338, R344, R347, R355), the key mailbox (R357), and the host's memory
transactions (R354 to R356). -/

namespace Sys2Proof.Machine

/-! ## Keys (R357, R180) -/

/-- RESULT codes. -/
def keyDone : BitVec 3 := 0
def keyOther : BitVec 3 := 1
def keyFull : BitVec 3 := 2
def keyBad : BitVec 3 := 3
def keyEqual : BitVec 3 := 4

/-- A write of KCMD with the operation `op` while no command runs: 1 and 2 start the command, 3 is refused. -/
def State.keyStart (s : State) (d : Fin 4) (op : BitVec 2) : State :=
  let x := s.die d
  if x.kbusy then s
  else if op = 3 then s.setDie d { x with kop := op, kresult := keyBad }
  else if op = 0 then s.setDie d { x with kop := op }
  else
    let k : KeyCmd := { die := d, op, part := Fin.ofNat 8 x.kpart.toNat, slot := x.kslot.toNat }
    { s.setDie d { x with kop := op, kbusy := true } with keyCmds := s.keyCmds ++ [k] }

/-- KEY_LOAD: a load of the slot and for the partition that KCMD holds. -/
def execKeyLoad (die : Fin 4) (s : State) : Out := .next (s.keyStart die 1)

/-- KEY_CLEAR. -/
def execKeyClear (die : Fin 4) (s : State) : Out := .next (s.keyStart die 2)

/-- KEY_BAD_COMMAND: operation 3. -/
def execKeyBadCommand (die : Fin 4) (s : State) : Out := .next (s.keyStart die 3)

/-- The end of a command on its die. -/
def State.keyEnd (s : State) (d : Fin 4) (r : BitVec 3) : State := s.setDie d { s.die d with kbusy := false, kresult := r }

/-- Put a key in a slot. -/
def putSlot (l : List (Nat × KeySlot)) (k : Nat) (x : KeySlot) : List (Nat × KeySlot) := put l k x

/-- A load: another partition's slot gives RESULT 1, a full one 2, equal halves 4 (log entry 43). -/
def State.keyLoad (s : State) (k : KeyCmd) : State :=
  let d := s.die k.die
  match lookOpt s.keys k.slot with
  | some x => s.keyEnd k.die (if x.owner = k.part then keyFull else keyOther)
  | none =>
    if d.kdata[0] = d.kdata[4] ∧ d.kdata[1] = d.kdata[5] ∧ d.kdata[2] = d.kdata[6] ∧ d.kdata[3] = d.kdata[7] then
      s.keyEnd k.die keyEqual
    else
      let s1 := s.setDie k.die { d with kdata := Vector.replicate 8 0 }
      { s1 with keys := putSlot s1.keys k.slot { owner := k.part, key := d.kdata.toList } }.keyEnd k.die keyDone

/-- A clear leaves the slot empty. -/
def State.keyClear (s : State) (k : KeyCmd) : State :=
  match lookOpt s.keys k.slot with
  | some x =>
    if x.owner = k.part then (({ s with keys := drop s.keys k.slot } : State).dropKeys [x.key]).keyEnd k.die keyDone
    else s.keyEnd k.die keyOther
  | none => s.keyEnd k.die keyDone

/-- KEY_COMMAND_COMPLETION: the oldest command is carried out at die 0, and what waited for its slot is judged. -/
def execKeyCommandCompletion (s : State) : Out :=
  match s.keyCmds with
  | [] => .next s
  | k :: ks =>
    let s1 := { s with keyCmds := ks }
    .next (if k.op = 1 then s1.keyLoad k else s1.keyClear k).payOwed

/-! ## Reading the registers -/

/-- The 64-bit value of the register at an offset; other offsets read 0. -/
def State.regRead (s : State) (d : Fin 4) (off : Nat) : Nat :=
  let x := s.die d
  match off with
  | 0x0000 => 0xF451 * 2 ^ 32 + x.rev.toNat * 2 ^ 24 + 3 * 2 ^ 20 + d.val * 2 ^ 18 + x.state.toNat
  | 0x0010 => x.dropMap.toNat % 2 ^ 64
  | 0x0018 => x.dropMap.toNat / 2 ^ 64 % 2 ^ 64
  | 0x0020 => x.dropMap.toNat / 2 ^ 128
  | 0x0040 => x.topo.toNat * 2 ^ 14
  | 0x0100 => x.relBase.toNat * 2 ^ 6
  | 0x0108 => x.relSize.toNat
  | 0x0110 => x.relHead.toNat
  | 0x0118 => x.relTail.toNat
  | 0x0120 => x.dropped.toNat * 2 ^ 32 + x.ovf.toNat
  | 0x0200 => x.selvBase.toNat * 2 ^ 15
  | 0x0300 => x.policy.toNat
  | 0x0400 => x.iftQuad.toNat
  | 0x0408 => x.iftLast.toNat * 2 ^ 8 + x.iftFail.toNat * 4 + x.iftPass.toNat * 2 + x.iftBusy.toNat
  | 0x0800 => x.kop.toNat * 2 ^ 17 + x.kpart.toNat * 2 ^ 14 + x.kslot.toNat
  | 0x0808 => x.kresult.toNat * 2 + x.kbusy.toNat
  | _ => 0

/-! ## Writing them -/

/-- REL_SIZE: 0 and 6 to 16 are stored, and HEAD ← 0; other values are ignored (R329). -/
def Die.setRelSize (x : Die) (v : BitVec 64) : Die :=
  let l := fld v.toNat 0 5
  if l = 0 ∨ (6 ≤ l ∧ l ≤ 16) then { x with relSize := BitVec.ofNat 5 l, relHead := 0 } else x

/-- REL_STAT: writing 1 clears OVF, and with it DROPPED. -/
def Die.clearOvf (x : Die) : Die := { x with ovf := false, dropped := 0 }

/-- POLICY_DEFAULT: 2 and 3 store 1 (R334). -/
def Die.setPolicy (x : Die) (v : BitVec 64) : Die :=
  { x with policy := if 2 ≤ fld v.toNat 0 2 then 1 else BitVec.ofNat 2 (fld v.toNat 0 2) }

/-- REL_SIZE_WRITE. -/
def execRelSizeWrite (die : Fin 4) (v : BitVec 64) (s : State) : Out := .next (s.setDie die ((s.die die).setRelSize v))

/-- REL_STAT_OVF_CLEAR. -/
def execRelStatOvfClear (die : Fin 4) (s : State) : Out := .next (s.setDie die (s.die die).clearOvf)

/-- POLICY_DEFAULT_WRITE. -/
def execPolicyDefaultWrite (die : Fin 4) (v : BitVec 64) (s : State) : Out := .next (s.setDie die ((s.die die).setPolicy v))

/-- IFT_CTL: QUAD is stored where it names a quad, and START requests a test (R336). -/
def State.writeIft (s : State) (d : Fin 4) (v : BitVec 64) : State :=
  let q := fld v.toNat 0 6
  let s1 := if q < 36 then s.setDie d { s.die d with iftQuad := BitVec.ofNat 6 q } else s
  if v.getLsbD 8 then s1.startTest d else s1

/-- KCMD: ignored while BUSY. -/
def State.writeKcmd (s : State) (d : Fin 4) (v : BitVec 64) : State :=
  let x := s.die d
  if x.kbusy then s
  else
    (s.setDie d { x with kslot := BitVec.ofNat 14 (fld v.toNat 0 14), kpart := BitVec.ofNat 3 (fld v.toNat 14 3) }).keyStart d
      (BitVec.ofNat 2 (fld v.toNat 17 2))

/-- A write of 64 bits at an offset; read-only registers and other offsets ignore it. -/
def State.regWrite (s : State) (d : Fin 4) (off : Nat) (v : BitVec 64) : State :=
  let x := s.die d
  match off with
  | 0x0100 => s.setDie d { x with relBase := BitVec.ofNat 42 (fld v.toNat 6 42) }
  | 0x0108 => s.setDie d (x.setRelSize v)
  | 0x0118 => s.setDie d { x with relTail := v.truncate 32 }
  | 0x0120 => if v.getLsbD 0 then s.setDie d x.clearOvf else s
  | 0x0200 => s.setDie d { x with selvBase := BitVec.ofNat 33 (fld v.toNat 15 33) }
  | 0x0300 => s.setDie d (x.setPolicy v)
  | 0x0400 => s.writeIft d v
  | 0x0800 => s.writeKcmd d v
  | 0x0840 => s.setDie d { x with kdata := x.kdata.set 0 v }
  | 0x0848 => s.setDie d { x with kdata := x.kdata.set 1 v }
  | 0x0850 => s.setDie d { x with kdata := x.kdata.set 2 v }
  | 0x0858 => s.setDie d { x with kdata := x.kdata.set 3 v }
  | 0x0860 => s.setDie d { x with kdata := x.kdata.set 4 v }
  | 0x0868 => s.setDie d { x with kdata := x.kdata.set 5 v }
  | 0x0870 => s.setDie d { x with kdata := x.kdata.set 6 v }
  | 0x0878 => s.setDie d { x with kdata := x.kdata.set 7 v }
  | _ => s

/-- REGISTER_WRITE. -/
def execRegisterWrite (die : Fin 4) (off : Nat) (v : BitVec 64) (s : State) : Out := .next (s.regWrite die off v)

/-! ## Host transactions (R355, R356) -/

/-- The die and offset of an aperture address. -/
def apertureOf (a : Nat) : Option (Fin 4 × Nat) :=
  if 0x4100000000 ≤ a ∧ a < 0x4100040000 then some (Fin.ofNat 4 ((a - 0x4100000000) / 2 ^ 16), (a - 0x4100000000) % 2 ^ 16) else none

/-- A byte as the host reads it: device physical memory and apertures below 2^48, and from there on the host's own memory (log entry
44). -/
def State.hostByte (s : State) (a : Nat) : Byte :=
  if 2 ^ 48 ≤ a then memRead s.host (a - 2 ^ 48)
  else match apertureOf a with
    | some (d, o) => BitVec.ofNat 8 (s.regRead d (o / 8 * 8) / 2 ^ (8 * (o % 8)))
    | none => s.physByte [] a

/-- HOST_MEMORY_READ: the reply carries the bytes. -/
def execHostMemoryRead (die : Fin 4) (addr len : Nat) (s : State) : Out :=
  .next (s.send (.readReply die ((List.range len).map (fun i => s.hostByte (addr + i)))))

/-- The queues whose notify pages a write of `n` bytes at `a` touches. -/
def notifiedQueues (a n : Nat) : List Nat :=
  let lo := (max a 0x4000000000 - 0x4000000000) / 4096
  let hi := (min (a + n) 0x4010000000 - 0x4000000000 + 4095) / 4096
  if n = 0 then [] else (List.range (hi - lo)).map (lo + ·)

/-- The registers that a write covers whole, with the values written (log entry 44). -/
def writtenRegs (a : Nat) (bs : List Byte) : List (Fin 4 × Nat × BitVec 64) :=
  let x := (a + 7) / 8 * 8
  (List.range ((a + bs.length - x) / 8)).filterMap (fun i =>
    (apertureOf (x + 8 * i)).map (fun e => (e.1, e.2, BitVec.ofNat 64 (field bs (x + 8 * i - a) 8))))

/-- HOST_MEMORY_WRITE. -/
def execHostMemoryWrite (_die : Fin 4) (addr : Nat) (bytes : List Byte) (s : State) : Out :=
  if 2 ^ 48 ≤ addr then .next { s with host := memWrites s.host (addr - 2 ^ 48) bytes }
  else
    let s1 := if addr < gddrEnd then s.gddrPut addr bytes else s
    let s2 := (notifiedQueues addr bytes.length).foldl State.notify s1
    .next ((writtenRegs addr bytes).foldl (fun s e => s.regWrite e.1 e.2.1 e.2.2) s2)

end Sys2Proof.Machine
end

