-- ==== Sys2Proof/Machine/Mailbox.lean ====
section
/-! DEFINITION. The mailbox services (R354). Firmware serves them while it runs on a die; a request that a rule refuses, or that names
what does not exist, is answered with status 1 where the spec gives no other (log entry 45). Messages have the layout of R354 (log entry 81). -/

namespace Sys2Proof.Machine

/-- Firmware runs on some die (R359). -/
def State.firmware (s : State) : Bool :=
  [0, 1, 2, 3].any (fun d => decide (1 ≤ (s.die d).state.toNat) && decide ((s.die d).state.toNat ≤ 3))

/-- A request that firmware serves; without firmware nothing answers. -/
def State.served (s : State) (body : State) : Out := if s.firmware then .next body else .next s

/-- The answer to a request of a service: status 0 where the condition holds, with the state it leaves; else status 1. -/
def State.grantIf (s : State) (service tag : BitVec 16) (ok : Bool) (body : State) : Out :=
  s.served (if ok then body.reply service tag 0 [] else s.reply service tag 1 [])

/-! ## Requests as messages (R354) -/

/-- The act that a mailbox message of the host stands for, `part` being the partition for which it is sent: the services whose payload
R354 lays out, and an unknown service. The fields of the other requests are those of their acts (log entry 45). -/
noncomputable def mailRequest (part : Fin 8) (bs : List Byte) : Option Instr :=
  let tag := BitVec.ofNat 16 (field bs 2 2)
  let p := bs.drop 8
  let who := BitVec.ofNat 8 (field p 0 1)
  match field bs 0 2 with
  | 17 => some (.registerFreedRing tag part (field p 0 2) (field p 2 1) (field p 3 1) (field p 8 8) (field p 16 1))
  | 19 => some (.answerFaultService tag tag (decide (field p 0 1 = 1)))
  | 20 => some (.resumeGangs tag who (BitVec.ofNat 64 (field p 1 8)))
  | 21 => some (.killGangs tag who (BitVec.ofNat 64 (field p 1 8)))
  | n => if 1 ≤ n ∧ n ≤ 21 then none else some (.unknownMailboxService tag (BitVec.ofNat 16 n))

/-! ## Queues (R149, R309) -/

/-- The lowest queue number that is free. -/
def State.freeQueue (s : State) : Option Nat := (List.range 65536).find? (fun q => (lookOpt s.queues q).isNone)

/-- An ASID that is assigned to the partition. -/
def State.asidOf (s : State) (asid : Nat) (part : Fin 8) : Bool := (s.asid asid).live && (s.asid asid).part = part

/-- The queue as it is registered. -/
def State.newQueue (s : State) (desc asid : Nat) (part : Fin 8) (priv : Bool) : Queue :=
  { Queue.none with desc, asid, part, priv, dead := false, mapTime := s.time, emptyAt := s.time }

/-- A key command, or a commit, is in the way of what firmware reads or writes of a queue's descriptor (R357). -/
def State.descBusy (s : State) (x : Queue) : Bool :=
  s.got (s.queueAgent x) .load x.desc 64 = .busy || s.putBusy (s.queueAgent x) (x.desc + 9) 3

/-- Register a queue: its descriptor must keep R149; firmware writes PART and ASID into it, and the reply carries q. -/
def State.queueNow (s : State) (tag : BitVec 16) (desc asid : Nat) (part : Fin 8) (priv : Bool) : State :=
  let x := s.newQueue desc asid part priv
  let service : BitVec 16 := if priv then 2 else 1
  match s.freeQueue, s.peek x, s.putTry (s.queueAgent x) (desc + 9) (bytesOfNat 1 part.val ++ bytesOfNat 2 asid) with
  | some q, some d, .ok s1 =>
    if d.good ∧ (s.partn part).made ∧ s.asidOf asid part then (s1.setQueue q x).reply service tag 0 (bytesOfNat 2 q)
    else s.reply service tag 1 []
  | _, _, _ => s.reply service tag 1 []

/-- The request, or its wait for what is in its way (R357). -/
def State.registerQueue (s : State) (tag : BitVec 16) (desc asid : Nat) (part : Fin 8) (priv : Bool) : State :=
  if s.descBusy (s.newQueue desc asid part priv) then { s with deferred := s.deferred ++ [.queue tag desc asid part priv] }
  else s.queueNow tag desc asid part priv

/-- Service 1. -/
def execRegisterUserQueue (tag : BitVec 16) (desc asid : Nat) (part : Fin 8) (s : State) : Out :=
  s.served (s.registerQueue tag desc asid part false)

/-- Service 2. -/
def execRegisterPrivilegedQueue (tag : BitVec 16) (desc asid : Nat) (part : Fin 8) (s : State) : Out :=
  s.served (s.registerQueue tag desc asid part true)

/-- Service 3: the queue is unmapped first, and a pending notification is folded. -/
def execUnregisterQueue (tag : BitVec 16) (q : Nat) (s : State) : Out :=
  let s1 := if (s.queue q).mapped then s.unmapQueue q else s
  s.grantIf 3 tag (lookOpt s.queues q).isSome { s1 with queues := drop s1.queues q }

/-! ## Partitions (R345, R346, R348) -/

/-- The quads of a configuration belong to no other partition, and its ASIDs to none either. -/
def State.disjointCfg (s : State) (c : PartConfig) : Bool :=
  (List.finRange 8).all (fun p => p = c.part || !(s.partn p).made ||
    (c.quads.all (fun e => !(e ∈ (s.partn p).cfg.quads)) &&
      (decide (c.asidLo + c.asidN ≤ (s.partn p).cfg.asidLo) || decide ((s.partn p).cfg.asidLo + (s.partn p).cfg.asidN ≤ c.asidLo))))

/-- The shares of all partitions, with that of the configuration, stay within the Stash (R153). -/
def State.shareFits (s : State) (c : PartConfig) : Bool :=
  decide ((((List.finRange 8).filter (fun p => p ≠ c.part ∧ (s.partn p).made)).map (fun p => (s.partn p).cfg.share)).foldl (· + ·) 0 +
    c.share ≤ 4096)

/-- Configure a partition: its table is written, no translation of the page where it was or is now stays behind (R347), and %gwarn returns to
its reset value (R305). -/
def State.configure (s : State) (c : PartConfig) (early : Bool) : State :=
  let p := s.partn c.part
  let s1 := (s.dropTopo c.part p.cfg.topoVa).dropTopo c.part c.topoVa
  (s1.setPartn c.part { p with made := true, cfg := c, early, gwarn := Partition.reset.gwarn }).writeTopo c.part

/-- The ASIDs that are assigned fit the range: those of the partition lie in it, and no other partition has one there (R345). -/
def State.asidsFit (s : State) (c : PartConfig) : Bool :=
  s.asids.all (fun e => !e.2.live || decide (e.2.part = c.part) == (decide (c.asidLo ≤ e.1) && decide (e.1 < c.asidLo + c.asidN)))

/-- A class value of the grant caps (R241, R348). -/
def capClass (n : Nat) : Bool := decide (n ∈ [8, 16, 32, 64, 128, 256])

/-- What a configuration must keep: quads, of dies in full service, and ASIDs that no other partition has, a share that the Stash has
left, caps that are class values, and a number of ASIDs that fits its two bytes (R348). -/
def State.cfgOk (s : State) (c : PartConfig) : Bool :=
  !c.quads.isEmpty && c.quads.all (fun e => decide ((s.die e.1).state = 3)) && s.disjointCfg c && s.asidsFit c && s.shareFits c &&
  decide (c.asidLo + c.asidN ≤ 65536) && decide (c.asidN ≤ 65535) && capClass c.capM && capClass c.capN && capClass c.capK

/-- Firmware chooses the virtual page of the table; within it the table lies as in device memory (R347). -/
def State.placeTopo (s : State) (c : PartConfig) : PartConfig :=
  { c with topoVa := c.topoVa % 2 ^ 48 / 2 ^ 16 * 2 ^ 16 + s.topoAt c.part % 2 ^ 16 }

/-- The resident gangs of a partition. -/
def State.partGangs (s : State) (p : Fin 8) : List (Nat × Gang) := s.liveGangs.filter (fun e => e.2.part = p && e.2.place.isSome)

/-- Service 4: while none of the partition's gangs is resident, and not before full service, until when only partition 0 exists (R359). -/
def execConfigurePartition (tag : BitVec 16) (cfg : PartConfig) (s : State) : Out :=
  s.grantIf 4 tag ((s.partGangs cfg.part).isEmpty && s.full && s.cfgOk cfg) (s.configure (s.placeTopo cfg) false)

/-- Service 5: the reply is sent when every kill is over. -/
def execPartitionReset (tag : BitVec 16) (part : Fin 8) (s : State) : Out :=
  if (s.partn part).made then s.served (s.beginEnding part ⟨some tag, false⟩) else s.grantIf 5 tag false s

/-- Service 6: a reset, then the key slots and the put windows. -/
def execPartitionTeardown (tag : BitVec 16) (part : Fin 8) (s : State) : Out :=
  if (s.partn part).made then s.served (s.beginEnding part ⟨some tag, true⟩) else s.grantIf 6 tag false s

/-- Service 13: the expected count of a barrier of the partition or of a logical die. -/
def execSetBarrierCounts (tag : BitVec 16) (part : Fin 8) (sc : GScope) (die : Fin 4) (n : Fin 32) (count : BitVec 16) (s : State) : Out :=
  let p := s.partn part
  let p1 := match sc with
    | .pkg => { p with pkgBar := put p.pkgBar n.val count }
    | .die => { p with dieBar := put p.dieBar (32 * die.val + n.val) count }
  s.grantIf 13 tag (p.made && (sc = .pkg || decide (die.val < p.ndie))) ((s.setPartn part p1).writeTopo part)

/-! ## ASIDs (R299, R306, R315) -/

/-- Service 7: an ASID of the partition's range that is free, while fewer than 1,024 are live (R6); its domains start with C = 0. -/
def execAssignAsid (tag : BitVec 16) (asid root : Nat) (part : Fin 8) (save : Nat) (s : State) : Out :=
  let c := (s.partn part).cfg
  let x : Asid := { live := true, root, part, save, retiring := [] }
  s.grantIf 7 tag ((s.partn part).made && decide (c.asidLo ≤ asid) && decide (asid < c.asidLo + c.asidN) && !(s.asid asid).live &&
      decide ((s.asids.filter (fun e => e.2.live)).length < 1024))
    { s with asids := put s.asids asid x, domains := s.domains.filter (fun e => e.1 / 8 ≠ asid) }

/-- Service 8: once the ASID's graces have completed and its frog queues are empty. -/
def execRetireAsid (tag : BitVec 16) (asid : Nat) (s : State) : Out :=
  if (s.asid asid).live then
    s.served ({ s with asids := put s.asids asid { s.asid asid with retiring := (s.asid asid).retiring ++ [tag] } }.endRetire asid)
  else s.grantIf 8 tag false s

/-- Every store that is late, and every commit, is performed, and every late load is at its end. -/
def State.performAll (s : State) : State :=
  let s1 := (s.liveWaves.foldl (fun s e => s.performLate e.1 e.2.late.length) s).endLoads
  s1.repl.foldl State.commit { s1 with repl := [] }

/-- Service 18 (R314): what has used the translations is performed first. -/
def execInvalidateTranslations (tag : BitVec 16) (asid : Nat) (va : DWord) (s : State) : Out :=
  s.grantIf 18 tag true (s.performAll.dropTlb asid (tlbTarget va))

/-! ## Cores (R343) -/

/-- The partitions whose tables a change of a core's bit concerns. -/
def State.writeTopoOf (s : State) (c : CoreId) : State :=
  ((List.finRange 8).filter (fun p => (s.partn p).made ∧ (c.die, c.quad) ∈ (s.partn p).cfg.quads)).foldl State.writeTopo s

def coreBit (c : CoreId) : BitVec 144 := (1 : BitVec 144) <<< (4 * c.quad.val + c.core.val)

/-- Service 9. -/
def execRetireCore (tag : BitVec 16) (core : CoreId) (s : State) : Out :=
  let d := s.die core.die
  s.grantIf 9 tag true ((s.setDie core.die { d with retired := d.retired ||| coreBit core }).writeTopoOf core)

/-- Service 10: a fused bit is never cleared. -/
def execRestoreCore (tag : BitVec 16) (core : CoreId) (s : State) : Out :=
  let d := s.die core.die
  s.grantIf 10 tag (d.fused &&& coreBit core = 0) ((s.setDie core.die { d with retired := d.retired &&& ~~~coreBit core }).writeTopoOf core)

/-! ## The module, the clock, put windows (R352 to R354) -/

/-- Service 12: a selvedge entry of KIND 6 on die 0 (log entry 46). -/
def execClockStep (tag : BitVec 16) (clock : Nat) (s : State) : Out :=
  s.grantIf 12 tag true ({ s with clock }.selvedge 0 6 0 0xFFFF (dieLoc 0 16 0) noWave 0)

/-- Service 16. -/
def execSetMod (tag : BitVec 16) (num : Fin 64) (s : State) : Out := s.grantIf 16 tag true { s with module := num }

/-- A window that keeps R353: a logical die of the partition, and a range of its die memory, 64-byte aligned. -/
def Partition.windowOk (p : Partition) (x : PutWindow) : Bool :=
  p.made && decide (p.windows.length < 16) && decide (x.die.val < p.ndie) && decide (x.base % 64 = 0) && decide (x.size % 64 = 0) &&
  decide (x.base + x.size ≤ 0x6000000)

/-- Service 14. -/
def execOpenPutWindow (tag : BitVec 16) (part : Fin 8) (win : PutWindow) (s : State) : Out :=
  let p := s.partn part
  s.grantIf 14 tag (p.windowOk win) (s.setPartn part { p with windows := p.windows ++ [win] })

/-- Service 15: a packet that arrives later is refused; every admitted packet has been applied already. -/
def execClosePutWindow (tag : BitVec 16) (part : Fin 8) (index : Nat) (s : State) : Out :=
  let p := s.partn part
  s.grantIf 15 tag (decide (index < p.windows.length)) (s.setPartn part { p with windows := p.windows.eraseIdx index })

/-! ## Freed rings (R304) -/

/-- Whether a registration is refused. -/
def State.badFreedRing (s : State) (part : Fin 8) (asid scope die base log2n : Nat) : Bool :=
  base % 64 ≠ 0 ∨ log2n < 4 ∨ 12 < log2n ∨ ¬ s.asidOf asid part ∨ (scope ≠ 3 ∧ scope ≠ 4) ∨ (s.partn part).ndie ≤ die

/-- Service 17 that no rule refuses: firmware writes LOG2N and the header's zero bytes into the ring (R304, R307), and waiting entries are
posted at once. A header whose page cannot be written stays as it is, and posting meets the page (R354; log entry 45); one whose page waits
for a key command makes the request wait (R357). -/
def State.registerRing (s : State) (tag : BitVec 16) (part : Fin 8) (asid scope die base log2n : Nat) : State :=
  let k := domKey asid (if scope = 3 then some (Fin.ofNat 4 die) else none)
  let s1 := s.setDomain k { s.domain k with ring := some (base, log2n), stuck := false }
  if s.putBusy (s.qtr k) (base + 8) 56 then { s with deferred := s.deferred ++ [.freedRing tag part asid scope die base log2n] }
  else (((s1.putAt (s1.qtr k) (base + 8) (bytesOfNat 1 log2n ++ zeros 55)).reply 17 tag 0 []).postAll k).endRetire asid

/-- Service 17. -/
def execRegisterFreedRing (tag : BitVec 16) (part : Fin 8) (asid scope die base log2n : Nat) (s : State) : Out :=
  if s.badFreedRing part asid scope die base log2n then s.grantIf 17 tag false s
  else s.served (s.registerRing tag part asid scope die base log2n)

/-- The requests that have waited are taken again, each judged anew (R357). -/
def State.serveDeferred (s : State) : State :=
  if s.deferred = [] then s else s.deferred.foldl (fun s x => match x with
    | .queue tag desc asid part priv => s.registerQueue tag desc asid part priv
    | .freedRing tag part asid scope die base log2n =>
      if s.badFreedRing part asid scope die base log2n then s.reply 17 tag 1 [] else s.registerRing tag part asid scope die base log2n)
    { s with deferred := [] }

/-! ## Fault service (R316) -/

/-- A wave whose request is answered: it replays its word, or takes the trap; a wave whose gang is swapped out takes it on restoration
(R318). -/
def State.answerWave (s : State) (n : Nat) (r : Request) (declined hidden : Bool) : State :=
  let w := s.wave n
  if w.live ∧ w.wait = .service r.tag then
    let s1 := s.setWave n { w with wait := .none }
    if ¬ declined then s1
    else if (s.gang w.id.gang).place.isNone then s.setWave n { w with wait := .declined r.cause r.va hidden }
    else if hidden then s1.lose n r.cause
    else s1.trapAt n r.cause (BitVec.ofNat 64 r.va) w.run.pc
  else s

/-- A copy stream: it is replayed, or ends as R228 lays down. -/
def State.answerStream (s : State) (t : Nat) (r : Request) (declined : Bool) : State :=
  match lookOpt s.transfers t with
  | none => s
  | some x =>
    if x.stall ≠ some r.tag then s
    else if declined then s.failTransfer t x r.cause
    else { s with transfers := put s.transfers t { x with stall := none } }

/-- A walking lane: it takes its step again, or finishes with FAULT and reason 3 (R274). -/
def State.answerLane (s : State) (n l : Nat) (r : Request) (declined : Bool) : State :=
  match (s.wave n).walkOf l with
  | none => s
  | some x =>
    if ¬ (s.wave n).live ∨ x.stall ≠ some r.tag then s
    else if declined then s.finish n l x 4 3 2
    else s.setWave n ((s.wave n).setWalk l { x with stall := none })

/-- A queue slot: it serves its entry again, or drops it, or unmaps the queue (R151). -/
def State.answerQueue (s : State) (q : Nat) (r : Request) (declined : Bool) : State :=
  let x := s.queue q
  if x.stall ≠ some r.tag then s
  else
    let s1 := s.setQueue q { x with stall := none }
    if declined ∧ x.mapped then s1.servePending q (some r.va) else s1

/-- A task whose patch table could not be read: it is placed again, or its entry fails (R56). -/
def State.answerTask (s : State) (num : Nat) (r : Request) (declined : Bool) : State :=
  match s.stash.find? (fun t => t.num = num && t.stall = some r.tag) with
  | none => s
  | some t =>
    let t1 := { t with stall := none }
    let s1 := s.setTask t1
    if ¬ declined then s1
    else match s1.taskPatches t1 (some r.va) with
      | .ok _ => s1
      | .bad i => (s1.removeTask num).endTask t1 statusReloc i
      | .stall c va => s1.stallTask t1 c va
      | .busy => s1

/-- The successor step of a gang goes on, or skips that successor (R154). -/
def State.answerSuccessor (s : State) (n : Nat) (r : Request) (declined : Bool) : State :=
  let g := s.gang n
  if g.stall ≠ some r.tag then s
  else (s.setGang n { g with stall := none }).goOnReleasing n (if declined then some r.va else none)

/-- Posting goes on, or stops as for a PROTECT failure (R304). -/
def State.answerDomain (s : State) (k : Nat) (r : Request) (declined : Bool) : State :=
  let d := s.domain k
  if d.stall ≠ some r.tag then s
  else if declined then s.declineDomain k
  else ((s.setDomain k { d with stall := none }).postAll k).endRetire (k / 8)

/-- The stalled agent goes on or ends as its own rule lays down. -/
def State.answer (s : State) (r : Request) (declined : Bool) : State :=
  match r.who with
  | .wave w => s.answerWave w r declined false
  | .hidden w => s.answerWave w r declined true
  | .stream t => s.answerStream t r declined
  | .lane w l => s.answerLane w l r declined
  | .queue q => s.answerQueue q r declined
  | .task n => s.answerTask n r declined
  | .successor g _ => s.answerSuccessor g r declined
  | .domain d => s.answerDomain d r declined

/-- Service 19: on resolved the translation is removed from every TLB, and the agent replays; a TAG with no request outstanding gives
status 1. -/
def execAnswerFaultService (tag : BitVec 16) (request : BitVec 16) (declined : Bool) (s : State) : Out :=
  match s.requests.find? (fun r => r.tag = request) with
  | none => s.grantIf 19 tag false s
  | some r =>
    let s1 := { s with requests := s.requests.filter (fun x => x.tag ≠ request) }
    let s2 := if declined then s1 else s1.dropTlb r.asid (some r.va)
    s.grantIf 19 tag true (s2.answer r declined)

/-! ## Frozen gangs and kills (R312, R333, R334) -/

/-- The gangs of partition PART, which has a byte of its own, with a %task: none where there is no such partition. -/
def State.gangsOf (s : State) (part : BitVec 8) (task : DWord) : List (Nat × Gang) :=
  s.liveGangs.filter (fun e => e.2.part.val = part.toNat && e.2.task = task)

/-- A frozen gang runs on: its blocked runs execute their words again, its stopped waves go on, and its timers start afresh. -/
def State.resumeGang (s : State) (n : Nat) : State :=
  let s1 := s.setGang n { s.gang n with frozen := false, halt := none, contain := none }
  { s1 with waves := s1.waves.map (fun e =>
      if e.1 / 64 = n ∧ e.2.live then (e.1, { e.2.resume with wait := if e.2.wait = .stopped then .none else e.2.wait }) else e) }

/-- Service 20: status 0, 1 where the partition has no gang of that %task, 2 where none of them is frozen. -/
def execResumeGangs (tag : BitVec 16) (part : BitVec 8) (task : DWord) (s : State) : Out :=
  let gs := s.gangsOf part task
  let fr := (gs.filter (fun e => e.2.frozen)).map (·.1)
  s.served (
    if gs = [] then s.reply 20 tag 1 []
    else if fr = [] then s.reply 20 tag 2 []
    else (fr.foldl State.resumeGang s).reply 20 tag 0 [])

/-- Service 21: every such gang begins to be killed with cause 0x202; status 1 where there is none. -/
def execKillGangs (tag : BitVec 16) (part : BitVec 8) (task : DWord) (s : State) : Out :=
  let gs := (s.gangsOf part task).map (·.1)
  s.grantIf 21 tag (!gs.isEmpty) (gs.foldl (fun s n => s.startKill n 0x202) s)

/-- A SERVICE that is none of the 21: status 0xFFFF. -/
def execUnknownMailboxService (tag : BitVec 16) (service : BitVec 16) (s : State) : Out :=
  if 1 ≤ service.toNat ∧ service.toNat ≤ 21 then .next s else s.served (s.reply service tag 0xFFFF [])

end Sys2Proof.Machine
end

