-- ==== Sys2Proof/Machine/Boot.lean ====
section
/-! DEFINITION. Power, start-up and attestation (R4, R358, R359). -/

namespace Sys2Proof.Machine

/-! ## Power -/

/-- What manufacture fixed in a die. -/
def Die.fuses (d : Die) : Die := { Die.reset with rev := d.rev, fused := d.fused }

/-- What manufacture fixed in a core: its working lane groups and half mode (R108, R241). -/
def Core.fuses (c : Core) : Core := { Core.reset false with groups := c.groups, half := c.half }

/-- Step 1 of R359: all is as after reset but the fuses, what stands outside the device (the host's memory, the messages and what is
still to come) and the counter of the free values. -/
def State.powerUp (s : State) : State :=
  { State.reset with
    inbox := s.inbox
    schedule := s.schedule
    outbox := s.outbox
    host := s.host
    fresh := s.fresh
    dies := s.dies.map (fun e => (e.1, e.2.fuses))
    cores := s.cores.map (fun e => (e.1, e.2.fuses)) }

/-- POWER_ON. -/
def execPowerOn (s : State) : Out := .next s.powerUp

/-- POWER_REMOVAL: no part of the device keeps any state; the next POWER_ON finds only the fuses (R4). -/
def execPowerRemoval (s : State) : Out := .next { s.powerUp with power := false }

/-! ## The boot ROM (R358) -/

/-- The image is accepted. -/
def acceptsImage (d : Fin 4) (img : FirmwareImage) : Bool :=
  sha384 img.publicKey = Config.fusedKeyHash d.val &&
    (ecdsaVerify img.publicKey (sha384 img.bytes) img.signature && decide (Config.fusedMinVersion d.val ≤ img.version))

/-- A change of STATE sends a message interrupt with cause 4 (R359). -/
def State.setState (s : State) (d : Fin 4) (v : BitVec 8) : State :=
  (s.setDie d { s.die d with state := v }).send (.interrupt d 4)

/-- Firmware chooses TOPO_BASE once at each start-up, so that the tables lie in device memory (R347). -/
def State.chooseTopo (s : State) : State :=
  let b : BitVec 34 := BitVec.ofNat 34 ((Config.topoBase s.fresh).toNat % (gddrEnd / 2 ^ 14))
  (List.finRange 4).foldl (fun s d => s.setDie d { s.die d with topo := b }) { s with fresh := s.fresh + 1 }

/-- No die has started yet. -/
def State.unstarted (s : State) : Bool := (List.finRange 4).all (fun d => decide ((s.die d).state = 0))

/-- The first 8 physical quads of die 0 with a present core. -/
def State.earlyQuads (s : State) : List (Fin 4 × Fin 36) :=
  (((List.finRange 36).filter (fun q => (quadCores 0 q).any (fun c => !s.coreOff c))).take 8).map (fun q => (0, q))

/-- Partition 0 in early service: one die and FMTMASK 0x0201; the rest is firmware's choice (log entry 47). Its table has one address
modulo 64 KiB in the address spaces and in device memory. -/
def State.earlyConfig (s : State) : PartConfig :=
  let c := Config.earlyService s.fresh
  let lo := c.2.1 % 0xFFFF
  { part := 0
    quads := s.earlyQuads
    asidLo := lo
    asidN := c.2.2.1 % (0x10000 - lo)
    capM := 256
    capN := 256
    capK := 256
    fmtMask := 0x0201
    topoVa := c.1 % 2 ^ 32 * 2 ^ 16 + s.topoAt 0 % 2 ^ 16
    share := c.2.2.2 % 4097 }

/-- No partition exists. -/
def State.unparted (s : State) : Bool := (List.finRange 8).all (fun p => !(s.partn p).made)

/-- Steps 2 and 3 on a die whose image is accepted: with die 0 early service begins, in which only partition 0 exists; it runs at 750 MHz (log
entry 82). -/
def State.startDie (s : State) (d : Fin 4) (img : FirmwareImage) : State :=
  let s1 := if s.unstarted then s.chooseTopo else s
  let s2 := (((if d = 0 then { s1 with clock := 750 } else s1 : State).setDie d { s1.die d with fwMeas := sha384 img.bytes }).setState d 1).setState d 2
  if d = 0 ∧ s2.unparted then { s2 with fresh := s2.fresh + 1 }.configure s2.earlyConfig true else s2

/-- FIRMWARE_AUTHENTICATION: only while the ROM runs; a rejected image leaves the die in STATE 0, with a selvedge entry of KIND 4. -/
def execFirmwareAuthentication (die : Fin 4) (img : FirmwareImage) (s : State) : Out :=
  .next (
    if (s.die die).state ≠ 0 then s
    else if acceptsImage die img then s.startDie die img
    else s.selvedge die 4 0 0xFFFF (dieLoc die 16 0) noWave 0)

/-! ## The end of early service (R359) -/

/-- The quads on dies in full service. -/
def State.servingQuads (s : State) (qs : List (Fin 4 × Fin 36)) : List (Fin 4 × Fin 36) :=
  qs.filter (fun e => (s.die e.1).state = 3)

/-- The configuration of partition 0 in full service: all configured quads of dies in full service, and every format; its table stays at its
address. -/
def State.fullConfig (s : State) (c : PartConfig) : PartConfig :=
  s.placeTopo { c with
    part := 0, quads := s.servingQuads c.quads, fmtMask := 0x07FF
    topoVa := if (s.partn 0).made then (s.partn 0).cfg.topoVa else c.topoVa }

/-- Gangs resident at step 5 run on: the configuration keeps their quads. -/
def State.keepsGangs (s : State) (c : PartConfig) : Bool :=
  (s.partGangs c.part).all (fun e => match e.2.place with
    | some (d, q, _) => decide ((d, q) ∈ c.quads)
    | none => true)

/-- Step 5: partition 0's table is rewritten with FLAGS[0] = 0, and the clock raised to 1.5 GHz (R5; log entry 82). A configuration that breaks
a rule leaves partition 0 its own (log entry 47). -/
def State.fullService (s : State) (cfg : PartConfig) : State :=
  let new := s.fullConfig cfg
  let old := s.fullConfig (s.partn 0).cfg
  let s1 : State := { s with clock := 1500, full := true }
  if s.cfgOk new ∧ s.keepsGangs new then s1.configure new false
  else if (s.partn 0).made then s1.configure old false
  else s1

/-- A die enters full service after step 5: its quads among those of the configuration join partition 0, whose clock and formats stay (log
entry 47). -/
def State.joinService (s : State) (cfg : PartConfig) : State :=
  let old := (s.partn 0).cfg
  let new := { old with quads := old.quads ++ (s.servingQuads cfg.quads).filter (fun e => !(e ∈ old.quads)) }
  if (s.partn 0).made ∧ new ≠ old ∧ s.cfgOk new then s.configure new false else s

/-- Step 5 comes once step 4 is over on die 0, where early service ran, and a die serves. -/
def State.serve5 (s : State) (cfg : PartConfig) : State :=
  if s.full then s.joinService cfg
  else if (s.die 0).state.toNat < 3 ∨ ¬ (List.finRange 4).any (fun d => decide ((s.die d).state = 3)) then s
  else s.fullService cfg

/-- A die that fails joins no partition; a partition left without quads is no more (log entry 47). -/
def State.leavePartitions (s : State) (d : Fin 4) : State :=
  ((List.finRange 8).filter (fun p => (s.partn p).made && (s.partn p).cfg.quads.any (fun e => e.1 = d))).foldl (fun s p =>
    let x := s.partn p
    let qs := x.cfg.quads.filter (fun e => e.1 ≠ d)
    if qs = [] then s.setPartn p { x with made := false, cfg := .none, early := false, windows := [] }
    else (s.setPartn p { x with cfg := { x.cfg with quads := qs } }).writeTopo p) s

/-- Step 4 has failed on a die: STATE 4 and record 0x0050 or 0x0003, which of them being free (log entry 47). -/
def State.failDie (s : State) (d : Fin 4) : State :=
  let r := Record.blank (if Config.linkError s.fresh % 2 = 0 then 0x0050 else 0x0003) 2 (dieLoc d 16 0)
  ((({ s with fresh := s.fresh + 1 }.leavePartitions d).setState d 4).report d r)

/-- EARLY_SERVICE_COMPLETION: step 4 is over on a die. -/
def execEarlyServiceCompletion (die : Fin 4) (passed : Bool) (cfg : PartConfig) (s : State) : Out :=
  .next (
    if (s.die die).state ≠ 2 then s
    else if passed then (s.setState die 3).serve5 cfg
    else if s.full then s.failDie die
    else (s.failDie die).serve5 cfg)

/-! ## Attestation (R358, R354) -/

/-- The numbers of a partition's configuration: quads, ASID range, caps, FMTMASK and put windows. -/
def Partition.numbers (p : Partition) : List Nat :=
  p.cfg.quads.length :: p.cfg.quads.flatMap (fun e => [e.1.val, e.2.val]) ++
    [p.cfg.asidLo, p.cfg.asidN, p.cfg.capM, p.cfg.capN, p.cfg.capK, p.cfg.fmtMask.toNat] ++
    p.windows.flatMap (fun x => [x.srcMod.val, x.srcPart.val, x.die.val, x.base, x.size])

/-- Bytes 0x000 to 0x157 of the report. -/
def State.reportBody (s : State) (nonce : List Byte) (part : Fin 8) : List Byte :=
  bytesOfNat 4 0x52540001 ++ bytesOfNat 1 part.val ++ zeros 3 ++ fillTo 48 0 (nonce.take 48) ++
  (List.finRange 4).flatMap (fun d => fillTo 48 0 (s.die d).fwMeas) ++
  sha384 (Config.partitionBytes (s.partn part).numbers) ++
  sha384 ((List.finRange 4).flatMap (fun d => bytesOfNat 18 (s.die d).dropMap.toNat))

/-- The report with its 96 bytes of signature by the identity key. -/
def State.attestation (s : State) (nonce : List Byte) (part : Fin 8) : List Byte :=
  let b := s.reportBody nonce part
  b ++ ecdsaSign identityPrivate (sha384 b) 16 s.fresh

/-- ATTESTATION_REPORT: service 11. -/
def execAttestationReport (tag : BitVec 16) (nonce : List Byte) (part : Fin 8) (s : State) : Out :=
  s.served (({ s with fresh := s.fresh + 16 } : State).reply 11 tag 0 (s.attestation nonce part))

end Sys2Proof.Machine
end

