-- ==== Sys2Proof/Machine/Dispatch.lean ====
section
/-! DEFINITION. Which meaning each instruction has: one arm per constructor. -/

namespace Sys2Proof.Machine

open Sys2Proof

def exec (i : Instr) (s : State) : Host.Outcome State Fault Refusal :=
  match i with
  -- Scalar register arithmetic (MAJ 0x00, R78)
  | .add sd sa sb => Sys2Proof.Machine.execAdd sd sa sb s
  | .sub sd sa sb => Sys2Proof.Machine.execSub sd sa sb s
  | .and sd sa sb => Sys2Proof.Machine.execAnd sd sa sb s
  | .or sd sa sb => Sys2Proof.Machine.execOr sd sa sb s
  | .xor sd sa sb => Sys2Proof.Machine.execXor sd sa sb s
  | .andn sd sa sb => Sys2Proof.Machine.execAndn sd sa sb s
  | .shl sd sa sb => Sys2Proof.Machine.execShl sd sa sb s
  | .shr sd sa sb => Sys2Proof.Machine.execShr sd sa sb s
  | .sar sd sa sb => Sys2Proof.Machine.execSar sd sa sb s
  | .rol sd sa sb => Sys2Proof.Machine.execRol sd sa sb s
  | .min sd sa sb => Sys2Proof.Machine.execMin sd sa sb s
  | .max sd sa sb => Sys2Proof.Machine.execMax sd sa sb s
  | .minu sd sa sb => Sys2Proof.Machine.execMinu sd sa sb s
  | .maxu sd sa sb => Sys2Proof.Machine.execMaxu sd sa sb s
  | .mul sd sa sb => Sys2Proof.Machine.execMul sd sa sb s
  | .mulh sd sa sb => Sys2Proof.Machine.execMulh sd sa sb s
  | .mulhu sd sa sb => Sys2Proof.Machine.execMulhu sd sa sb s
  | .div sd sa sb => Sys2Proof.Machine.execDiv sd sa sb s
  | .divu sd sa sb => Sys2Proof.Machine.execDivu sd sa sb s
  | .rem sd sa sb => Sys2Proof.Machine.execRem sd sa sb s
  | .remu sd sa sb => Sys2Proof.Machine.execRemu sd sa sb s
  | .slt sd sa sb => Sys2Proof.Machine.execSlt sd sa sb s
  | .sltu sd sa sb => Sys2Proof.Machine.execSltu sd sa sb s
  | .seq sd sa sb => Sys2Proof.Machine.execSeq sd sa sb s
  | .clz sd sa => Sys2Proof.Machine.execClz sd sa s
  | .ctz sd sa => Sys2Proof.Machine.execCtz sd sa s
  | .popc sd sa => Sys2Proof.Machine.execPopc sd sa s
  | .bfe sd sa sb => Sys2Proof.Machine.execBfe sd sa sb s
  | .bfi sd sa sb => Sys2Proof.Machine.execBfi sd sa sb s
  -- Scalar immediates (MAJ 0x01, R81)
  | .addi sd sa imm => Sys2Proof.Machine.execAddi sd sa imm s
  | .andi sd sa imm => Sys2Proof.Machine.execAndi sd sa imm s
  | .ori sd sa imm => Sys2Proof.Machine.execOri sd sa imm s
  | .xori sd sa imm => Sys2Proof.Machine.execXori sd sa imm s
  | .shli sd sa sh => Sys2Proof.Machine.execShli sd sa sh s
  | .shri sd sa sh => Sys2Proof.Machine.execShri sd sa sh s
  | .sari sd sa sh => Sys2Proof.Machine.execSari sd sa sh s
  | .slti sd sa imm => Sys2Proof.Machine.execSlti sd sa imm s
  -- Constants (MAJ 0x02 and 0x03, R82, R83): lit and lit64 carry their literal words
  | .sethi sd imm => Sys2Proof.Machine.execSethi sd imm s
  | .lit sd v => Sys2Proof.Machine.execLit sd v s
  | .lit64 sd v => Sys2Proof.Machine.execLit64 sd v s
  -- Scalar loads and stores (MAJ 0x04 and 0x05, R84)
  | .ld sd sa sp sz off => Sys2Proof.Machine.execLd sd sa sp sz off s
  | .st sd sa sp sz off => Sys2Proof.Machine.execSt sd sa sp sz off s
  -- Branches and transfers (MAJ 0x06 to 0x08, R87 to R89)
  | .beq sa sb off => Sys2Proof.Machine.execBeq sa sb off s
  | .bne sa sb off => Sys2Proof.Machine.execBne sa sb off s
  | .blt sa sb off => Sys2Proof.Machine.execBlt sa sb off s
  | .bge sa sb off => Sys2Proof.Machine.execBge sa sb off s
  | .bltu sa sb off => Sys2Proof.Machine.execBltu sa sb off s
  | .bgeu sa sb off => Sys2Proof.Machine.execBgeu sa sb off s
  | .call sl off => Sys2Proof.Machine.execCall sl off s
  | .jmp off => Sys2Proof.Machine.execJmp off s
  | .jr sa => Sys2Proof.Machine.execJr sa s
  | .callr sd sa => Sys2Proof.Machine.execCallr sd sa s
  | .csel sd sa sb => Sys2Proof.Machine.execCsel sd sa sb s
  -- strip (MAJ 0x09, R267)
  | .strip sr pb np dm off => Sys2Proof.Machine.execStrip sr pb np dm off s
  -- Special registers and setvl (MAJ 0x0A, R91, R106)
  | .mfsr sd num => Sys2Proof.Machine.execMfsr sd num s
  | .mtsr sa num => Sys2Proof.Machine.execMtsr sa num s
  | .setvl sd sa num => Sys2Proof.Machine.execSetvl sd sa num s
  -- System (MAJ 0x0B, R92 to R96)
  | .trap num => Sys2Proof.Machine.execTrap num s
  | .hcall sd sa num => Sys2Proof.Machine.execHcall sd sa num s
  | .exit sa => Sys2Proof.Machine.execExit sa s
  | .yield => Sys2Proof.Machine.execYield s
  | .sleep sa num => Sys2Proof.Machine.execSleep sa num s
  -- Scalar F32 (MAJ 0x0C, R97)
  | .fadd sd sa sb => Sys2Proof.Machine.execFadd sd sa sb s
  | .fsub sd sa sb => Sys2Proof.Machine.execFsub sd sa sb s
  | .fmul sd sa sb => Sys2Proof.Machine.execFmul sd sa sb s
  | .fdiv sd sa sb => Sys2Proof.Machine.execFdiv sd sa sb s
  | .fsqrt sd sa => Sys2Proof.Machine.execFsqrt sd sa s
  | .fmin sd sa sb => Sys2Proof.Machine.execFmin sd sa sb s
  | .fmax sd sa sb => Sys2Proof.Machine.execFmax sd sa sb s
  | .flt sd sa sb => Sys2Proof.Machine.execFlt sd sa sb s
  | .feq sd sa sb => Sys2Proof.Machine.execFeq sd sa sb s
  | .fle sd sa sb => Sys2Proof.Machine.execFle sd sa sb s
  | .fcvtF32Si sd sa => Sys2Proof.Machine.execFcvtF32Si sd sa s
  | .fcvtSiF32 sd sa => Sys2Proof.Machine.execFcvtSiF32 sd sa s
  -- Per-lane transfers (MAJ 0x0D and 0x0E, R136, R137)
  | .vbr km ng off => Sys2Proof.Machine.execVbr km ng off s
  | .vcall km ng off => Sys2Proof.Machine.execVcall km ng off s
  | .vjr va => Sys2Proof.Machine.execVjr va s
  | .vcallr vd va => Sys2Proof.Machine.execVcallr vd va s
  -- Vector integer, vector second source (MAJ 0x10, R119)
  | .vadd vd va vb km ca cb => Sys2Proof.Machine.execVadd vd va vb km ca cb s
  | .vsub vd va vb km ca cb => Sys2Proof.Machine.execVsub vd va vb km ca cb s
  | .vmul vd va vb km ca cb => Sys2Proof.Machine.execVmul vd va vb km ca cb s
  | .vmulh vd va vb km ca cb => Sys2Proof.Machine.execVmulh vd va vb km ca cb s
  | .vmulhu vd va vb km ca cb => Sys2Proof.Machine.execVmulhu vd va vb km ca cb s
  | .vmin vd va vb km ca cb => Sys2Proof.Machine.execVmin vd va vb km ca cb s
  | .vmax vd va vb km ca cb => Sys2Proof.Machine.execVmax vd va vb km ca cb s
  | .vminu vd va vb km ca cb => Sys2Proof.Machine.execVminu vd va vb km ca cb s
  | .vmaxu vd va vb km ca cb => Sys2Proof.Machine.execVmaxu vd va vb km ca cb s
  | .vand vd va vb km ca cb => Sys2Proof.Machine.execVand vd va vb km ca cb s
  | .vor vd va vb km ca cb => Sys2Proof.Machine.execVor vd va vb km ca cb s
  | .vxor vd va vb km ca cb => Sys2Proof.Machine.execVxor vd va vb km ca cb s
  | .vandn vd va vb km ca cb => Sys2Proof.Machine.execVandn vd va vb km ca cb s
  | .vshl vd va vb km ca cb => Sys2Proof.Machine.execVshl vd va vb km ca cb s
  | .vshr vd va vb km ca cb => Sys2Proof.Machine.execVshr vd va vb km ca cb s
  | .vsar vd va vb km ca cb => Sys2Proof.Machine.execVsar vd va vb km ca cb s
  -- Vector integer, scalar second source (MAJ 0x11, R119)
  | .vaddVs vd va sb km ca => Sys2Proof.Machine.execVaddVs vd va sb km ca s
  | .vsubVs vd va sb km ca => Sys2Proof.Machine.execVsubVs vd va sb km ca s
  | .vmulVs vd va sb km ca => Sys2Proof.Machine.execVmulVs vd va sb km ca s
  | .vmulhVs vd va sb km ca => Sys2Proof.Machine.execVmulhVs vd va sb km ca s
  | .vmulhuVs vd va sb km ca => Sys2Proof.Machine.execVmulhuVs vd va sb km ca s
  | .vminVs vd va sb km ca => Sys2Proof.Machine.execVminVs vd va sb km ca s
  | .vmaxVs vd va sb km ca => Sys2Proof.Machine.execVmaxVs vd va sb km ca s
  | .vminuVs vd va sb km ca => Sys2Proof.Machine.execVminuVs vd va sb km ca s
  | .vmaxuVs vd va sb km ca => Sys2Proof.Machine.execVmaxuVs vd va sb km ca s
  | .vandVs vd va sb km ca => Sys2Proof.Machine.execVandVs vd va sb km ca s
  | .vorVs vd va sb km ca => Sys2Proof.Machine.execVorVs vd va sb km ca s
  | .vxorVs vd va sb km ca => Sys2Proof.Machine.execVxorVs vd va sb km ca s
  | .vandnVs vd va sb km ca => Sys2Proof.Machine.execVandnVs vd va sb km ca s
  | .vshlVs vd va sb km ca => Sys2Proof.Machine.execVshlVs vd va sb km ca s
  | .vshrVs vd va sb km ca => Sys2Proof.Machine.execVshrVs vd va sb km ca s
  | .vsarVs vd va sb km ca => Sys2Proof.Machine.execVsarVs vd va sb km ca s
  -- Vector immediates (MAJ 0x12 to 0x14, R120)
  | .vaddi vd va imm km ca => Sys2Proof.Machine.execVaddi vd va imm km ca s
  | .vrsubi vd va imm km ca => Sys2Proof.Machine.execVrsubi vd va imm km ca s
  | .vshli vd va sh km ca => Sys2Proof.Machine.execVshli vd va sh km ca s
  | .vshri vd va sh km ca => Sys2Proof.Machine.execVshri vd va sh km ca s
  | .vsari vd va sh km ca => Sys2Proof.Machine.execVsari vd va sh km ca s
  | .vandi vd va imm km ca => Sys2Proof.Machine.execVandi vd va imm km ca s
  -- Vector F32 (MAJ 0x15 and 0x16, R121)
  | .vfadd vd va vb km ca cb => Sys2Proof.Machine.execVfadd vd va vb km ca cb s
  | .vfsub vd va vb km ca cb => Sys2Proof.Machine.execVfsub vd va vb km ca cb s
  | .vfmul vd va vb km ca cb => Sys2Proof.Machine.execVfmul vd va vb km ca cb s
  | .vfdiv vd va vb km ca cb => Sys2Proof.Machine.execVfdiv vd va vb km ca cb s
  | .vfsqrt vd va km ca => Sys2Proof.Machine.execVfsqrt vd va km ca s
  | .vfmin vd va vb km ca cb => Sys2Proof.Machine.execVfmin vd va vb km ca cb s
  | .vfmax vd va vb km ca cb => Sys2Proof.Machine.execVfmax vd va vb km ca cb s
  | .vfabs vd va km ca => Sys2Proof.Machine.execVfabs vd va km ca s
  | .vfneg vd va km ca => Sys2Proof.Machine.execVfneg vd va km ca s
  | .vfcopysign vd va vb km ca cb => Sys2Proof.Machine.execVfcopysign vd va vb km ca cb s
  | .vfrint vd va km ca => Sys2Proof.Machine.execVfrint vd va km ca s
  | .vffloor vd va km ca => Sys2Proof.Machine.execVffloor vd va km ca s
  | .vfceil vd va km ca => Sys2Proof.Machine.execVfceil vd va km ca s
  | .vftrunc vd va km ca => Sys2Proof.Machine.execVftrunc vd va km ca s
  | .vffract vd va km ca => Sys2Proof.Machine.execVffract vd va km ca s
  | .vfaddVs vd va sb km ca => Sys2Proof.Machine.execVfaddVs vd va sb km ca s
  | .vfsubVs vd va sb km ca => Sys2Proof.Machine.execVfsubVs vd va sb km ca s
  | .vfmulVs vd va sb km ca => Sys2Proof.Machine.execVfmulVs vd va sb km ca s
  | .vfminVs vd va sb km ca => Sys2Proof.Machine.execVfminVs vd va sb km ca s
  | .vfmaxVs vd va sb km ca => Sys2Proof.Machine.execVfmaxVs vd va sb km ca s
  -- Fused (MAJ 0x17, R122)
  | .vfma vd va vb vc km ch => Sys2Proof.Machine.execVfma vd va vb vc km ch s
  | .vfnma vd va vb vc km ch => Sys2Proof.Machine.execVfnma vd va vb vc km ch s
  -- Conversions (MAJ 0x18, R123)
  | .cvtF32Si vd va km ca => Sys2Proof.Machine.execCvtF32Si vd va km ca s
  | .cvtSiF32 vd va km ca => Sys2Proof.Machine.execCvtSiF32 vd va km ca s
  | .cvtF32Ui vd va km ca => Sys2Proof.Machine.execCvtF32Ui vd va km ca s
  | .cvtUiF32 vd va km ca => Sys2Proof.Machine.execCvtUiF32 vd va km ca s
  | .pkBf16 vd va vb km ca cb => Sys2Proof.Machine.execPkBf16 vd va vb km ca cb s
  | .upBf16Lo vd va km ca => Sys2Proof.Machine.execUpBf16Lo vd va km ca s
  | .upBf16Hi vd va km ca => Sys2Proof.Machine.execUpBf16Hi vd va km ca s
  | .pkF16 vd va vb km ca cb => Sys2Proof.Machine.execPkF16 vd va vb km ca cb s
  | .upF16Lo vd va km ca => Sys2Proof.Machine.execUpF16Lo vd va km ca s
  | .upF16Hi vd va km ca => Sys2Proof.Machine.execUpF16Hi vd va km ca s
  | .pkF8a vd va vb km ca cb => Sys2Proof.Machine.execPkF8a vd va vb km ca cb s
  | .pkF8b vd va vb km ca cb => Sys2Proof.Machine.execPkF8b vd va vb km ca cb s
  | .upF8a vd va vb km ca cb => Sys2Proof.Machine.execUpF8a vd va vb km ca cb s
  | .upF8b vd va vb km ca cb => Sys2Proof.Machine.execUpF8b vd va vb km ca cb s
  | .pkI8 vd va vb km ca cb => Sys2Proof.Machine.execPkI8 vd va vb km ca cb s
  | .upI8 vd va vb km ca cb => Sys2Proof.Machine.execUpI8 vd va vb km ca cb s
  -- Special functions (MAJ 0x19, R124)
  | .vsin vd va km ca => Sys2Proof.Machine.execVsin vd va km ca s
  | .vcos vd va km ca => Sys2Proof.Machine.execVcos vd va km ca s
  | .vsinpi vd va km ca => Sys2Proof.Machine.execVsinpi vd va km ca s
  | .vcospi vd va km ca => Sys2Proof.Machine.execVcospi vd va km ca s
  | .vexp2 vd va km ca => Sys2Proof.Machine.execVexp2 vd va km ca s
  | .vlog2 vd va km ca => Sys2Proof.Machine.execVlog2 vd va km ca s
  | .vrcp vd va km ca => Sys2Proof.Machine.execVrcp vd va km ca s
  | .vrsqrt vd va km ca => Sys2Proof.Machine.execVrsqrt vd va km ca s
  | .vtanh vd va km ca => Sys2Proof.Machine.execVtanh vd va km ca s
  | .vsigm vd va km ca => Sys2Proof.Machine.execVsigm vd va km ca s
  -- Compares (MAJ 0x1A and 0x1B, R125)
  | .vcmpEq kd va vb km ca cb => Sys2Proof.Machine.execVcmpEq kd va vb km ca cb s
  | .vcmpNe kd va vb km ca cb => Sys2Proof.Machine.execVcmpNe kd va vb km ca cb s
  | .vcmpLt kd va vb km ca cb => Sys2Proof.Machine.execVcmpLt kd va vb km ca cb s
  | .vcmpGe kd va vb km ca cb => Sys2Proof.Machine.execVcmpGe kd va vb km ca cb s
  | .vcmpLtu kd va vb km ca cb => Sys2Proof.Machine.execVcmpLtu kd va vb km ca cb s
  | .vcmpGeu kd va vb km ca cb => Sys2Proof.Machine.execVcmpGeu kd va vb km ca cb s
  | .vfcmpEq kd va vb km ca cb => Sys2Proof.Machine.execVfcmpEq kd va vb km ca cb s
  | .vfcmpNe kd va vb km ca cb => Sys2Proof.Machine.execVfcmpNe kd va vb km ca cb s
  | .vfcmpLt kd va vb km ca cb => Sys2Proof.Machine.execVfcmpLt kd va vb km ca cb s
  | .vfcmpLe kd va vb km ca cb => Sys2Proof.Machine.execVfcmpLe kd va vb km ca cb s
  | .vfcmpGt kd va vb km ca cb => Sys2Proof.Machine.execVfcmpGt kd va vb km ca cb s
  | .vfcmpGe kd va vb km ca cb => Sys2Proof.Machine.execVfcmpGe kd va vb km ca cb s
  | .vfcmpUn kd va vb km ca cb => Sys2Proof.Machine.execVfcmpUn kd va vb km ca cb s
  | .vfcmpOrd kd va vb km ca cb => Sys2Proof.Machine.execVfcmpOrd kd va vb km ca cb s
  -- Predicates (MAJ 0x1C, R126)
  | .kand kd ka kb => Sys2Proof.Machine.execKand kd ka kb s
  | .kor kd ka kb => Sys2Proof.Machine.execKor kd ka kb s
  | .kxor kd ka kb => Sys2Proof.Machine.execKxor kd ka kb s
  | .kandn kd ka kb => Sys2Proof.Machine.execKandn kd ka kb s
  | .knot kd ka => Sys2Proof.Machine.execKnot kd ka s
  | .kmov kd ka => Sys2Proof.Machine.execKmov kd ka s
  | .kall kd => Sys2Proof.Machine.execKall kd s
  | .knone kd => Sys2Proof.Machine.execKnone kd s
  -- Select and move (MAJ 0x1D, R127)
  | .vsel vd va vb km ca cb => Sys2Proof.Machine.execVsel vd va vb km ca cb s
  | .vmov vd va km ca => Sys2Proof.Machine.execVmov vd va km ca s
  | .viota vd km => Sys2Proof.Machine.execViota vd km s
  -- Scalars and lanes (MAJ 0x1E, R128)
  | .vbcast vd sb km => Sys2Proof.Machine.execVbcast vd sb km s
  | .vextr sd va sb ca => Sys2Proof.Machine.execVextr sd va sb ca s
  | .kcnt sd ka => Sys2Proof.Machine.execKcnt sd ka s
  | .kfst sd ka => Sys2Proof.Machine.execKfst sd ka s
  -- Cross-lane (MAJ 0x1F to 0x22, R129 to R135)
  | .vperm vd va vb km ca cb => Sys2Proof.Machine.execVperm vd va vb km ca cb s
  | .vcompress vd va km ca => Sys2Proof.Machine.execVcompress vd va km ca s
  | .vexpand vd va km ca => Sys2Proof.Machine.execVexpand vd va km ca s
  | .vraddI sd va km ca => Sys2Proof.Machine.execVraddI sd va km ca s
  | .vrmaxI sd va km ca => Sys2Proof.Machine.execVrmaxI sd va km ca s
  | .vrminI sd va km ca => Sys2Proof.Machine.execVrminI sd va km ca s
  | .vraddF sd va km ca => Sys2Proof.Machine.execVraddF sd va km ca s
  | .vrmaxF sd va km ca => Sys2Proof.Machine.execVrmaxF sd va km ca s
  | .vrminF sd va km ca => Sys2Proof.Machine.execVrminF sd va km ca s
  | .vrand sd va km ca => Sys2Proof.Machine.execVrand sd va km ca s
  | .vror sd va km ca => Sys2Proof.Machine.execVror sd va km ca s
  | .vscanAddI vd va km ca => Sys2Proof.Machine.execVscanAddI vd va km ca s
  | .vscanAddF vd va km ca => Sys2Proof.Machine.execVscanAddF vd va km ca s
  | .vscanMaxF vd va km ca => Sys2Proof.Machine.execVscanMaxF vd va km ca s
  | .vswz vd va md amt km ca => Sys2Proof.Machine.execVswz vd va md amt km ca s
  | .vswzg vd va md amt km ca => Sys2Proof.Machine.execVswzg vd va md amt km ca s
  -- Vector memory (MAJ 0x23 to 0x28, R138)
  | .vldW vd sa sp km md => Sys2Proof.Machine.execVldW vd sa sp km md s
  | .vldH vd sa sp km md => Sys2Proof.Machine.execVldH vd sa sp km md s
  | .vldB vd sa sp km md => Sys2Proof.Machine.execVldB vd sa sp km md s
  | .vstW vd sa sp km md => Sys2Proof.Machine.execVstW vd sa sp km md s
  | .vstH vd sa sp km md => Sys2Proof.Machine.execVstH vd sa sp km md s
  | .vstB vd sa sp km md => Sys2Proof.Machine.execVstB vd sa sp km md s
  -- Atomics (MAJ 0x29 to 0x2B, R182)
  | .vatomG vd sa va vb op => Sys2Proof.Machine.execVatomG vd sa va vb op s
  | .vatomD vd sa va vb op => Sys2Proof.Machine.execVatomD vd sa va vb op s
  | .vatomQ vd sa va vb op => Sys2Proof.Machine.execVatomQ vd sa va vb op s
  -- Tiles (MAJ 0x2C to 0x2F, R243 to R266)
  | .tset sa sb sc fm => Sys2Proof.Machine.execTset sa sb sc fm s
  | .tquery sa sb sc fm => Sys2Proof.Machine.execTquery sa sb sc fm s
  | .tzero ad id p1 p2 => Sys2Proof.Machine.execTzero ad id p1 p2 s
  | .tldw sa id p1 p2 => Sys2Proof.Machine.execTldw sa id p1 p2 s
  | .tmma ad sa id p1 p2 => Sys2Proof.Machine.execTmma ad sa id p1 p2 s
  | .tst ad sa id p1 p2 => Sys2Proof.Machine.execTst ad sa id p1 p2 s
  | .tadd ad sa id p1 p2 => Sys2Proof.Machine.execTadd ad sa id p1 p2 s
  | .tsave ad sa id p1 p2 => Sys2Proof.Machine.execTsave ad sa id p1 p2 s
  | .trest ad sa id p1 p2 => Sys2Proof.Machine.execTrest ad sa id p1 p2 s
  | .tstb ad sa id p1 p2 => Sys2Proof.Machine.execTstb ad sa id p1 p2 s
  | .tvget vd ad sb id => Sys2Proof.Machine.execTvget vd ad sb id s
  | .tvset vd ad sb id => Sys2Proof.Machine.execTvset vd ad sb id s
  | .twait id => Sys2Proof.Machine.execTwait id s
  | .tfree ad id => Sys2Proof.Machine.execTfree ad id s
  -- Copies, nests and gathers (MAJ 0x30 to 0x32, R231 to R236)
  | .cpLd sa sb nb bx xs => Sys2Proof.Machine.execCpLd sa sb nb bx xs s
  | .cpSt sa sb nb bx xs => Sys2Proof.Machine.execCpSt sa sb nb bx xs s
  | .cpPut sa sb nb bx => Sys2Proof.Machine.execCpPut sa sb nb bx s
  | .cpLdr sa sb rg bx xs => Sys2Proof.Machine.execCpLdr sa sb rg bx xs s
  | .cpnestRun sd sa nb => Sys2Proof.Machine.execCpnestRun sd sa nb s
  | .cpnestStop sa => Sys2Proof.Machine.execCpnestStop sa s
  | .cpnestStat sd sa => Sys2Proof.Machine.execCpnestStat sd sa s
  | .cpGath kd vb sa sb nb => Sys2Proof.Machine.execCpGath kd vb sa sb nb s
  -- Rings (MAJ 0x33, R238)
  | .rdef sa rg => Sys2Proof.Machine.execRdef sa rg s
  | .rres sd sa rg => Sys2Proof.Machine.execRres sd sa rg s
  | .rpub sa rg => Sys2Proof.Machine.execRpub sa rg s
  | .rpop sd rg => Sys2Proof.Machine.execRpop sd rg s
  | .rrel sa rg => Sys2Proof.Machine.execRrel sa rg s
  | .rstat sd rg => Sys2Proof.Machine.execRstat sd rg s
  -- Named barriers (MAJ 0x34, R217 to R221)
  | .binit sa nb => Sys2Proof.Machine.execBinit sa nb s
  | .barr nb => Sys2Proof.Machine.execBarr nb s
  | .bwait sd sa nb => Sys2Proof.Machine.execBwait sd sa nb s
  | .btest sd nb => Sys2Proof.Machine.execBtest sd nb s
  | .binval nb => Sys2Proof.Machine.execBinval nb s
  -- Stitch markers (MAJ 0x35, R208)
  | .mkTas sd mk => Sys2Proof.Machine.execMkTas sd mk s
  | .mkTasnb sd mk => Sys2Proof.Machine.execMkTasnb sd mk s
  | .mkFadd sd sa mk => Sys2Proof.Machine.execMkFadd sd sa mk s
  | .mkRd sd mk => Sys2Proof.Machine.execMkRd sd mk s
  | .mkWr sa mk => Sys2Proof.Machine.execMkWr sa mk s
  | .mkClr mk => Sys2Proof.Machine.execMkClr mk s
  -- Die sync registers (MAJ 0x36, R211)
  | .dsTas sd ds => Sys2Proof.Machine.execDsTas sd ds s
  | .dsFadd sd sa ds => Sys2Proof.Machine.execDsFadd sd sa ds s
  | .dsRd sd ds => Sys2Proof.Machine.execDsRd sd ds s
  | .dsWr sa ds => Sys2Proof.Machine.execDsWr sa ds s
  | .dsWeq sa ds => Sys2Proof.Machine.execDsWeq sa ds s
  -- Scope barriers and fences (MAJ 0x37, R214, R196)
  | .bar sc n => Sys2Proof.Machine.execBar sc n s
  | .fence sc kd => Sys2Proof.Machine.execFence sc kd s
  -- Tree walks (MAJ 0x38 and 0x39, R271 to R289)
  | .twstart vd va sb tw => Sys2Proof.Machine.execTwstart vd va sb tw s
  | .twret va => Sys2Proof.Machine.execTwret va s
  | .twstop => Sys2Proof.Machine.execTwstop s
  | .twcut vd va sb => Sys2Proof.Machine.execTwcut vd va sb s
  | .twadopt vd sb => Sys2Proof.Machine.execTwadopt vd sb s
  | .twdef sa g tw => Sys2Proof.Machine.execTwdef sa g tw s
  | .twstat sd tw => Sys2Proof.Machine.execTwstat sd tw s
  -- Graces (MAJ 0x3A, R296 to R303)
  | .rdenter => Sys2Proof.Machine.execRdenter s
  | .rdexit => Sys2Proof.Machine.execRdexit s
  | .qsp => Sys2Proof.Machine.execQsp s
  | .gstart sd sc => Sys2Proof.Machine.execGstart sd sc s
  | .wgrace sa sc => Sys2Proof.Machine.execWgrace sa sc s
  | .gpoll sd sc => Sys2Proof.Machine.execGpoll sd sc s
  | .defer sd sa sc cls => Sys2Proof.Machine.execDefer sd sa sc cls s
  -- Spawn, join and register blocks (MAJ 0x3B, R161 to R163)
  | .spawn sd sa => Sys2Proof.Machine.execSpawn sd sa s
  | .join => Sys2Proof.Machine.execJoin s
  | .rgive n => Sys2Proof.Machine.execRgive n s
  | .rclaim n => Sys2Proof.Machine.execRclaim n s
  -- Privileged (MAJ 0x3C, R312 to R314)
  | .mtsrp sa num => Sys2Proof.Machine.execMtsrp sa num s
  | .iret => Sys2Proof.Machine.execIret s
  | .segld sd sa sp => Sys2Proof.Machine.execSegld sd sa sp s
  | .tlbinv sa asid => Sys2Proof.Machine.execTlbinv sa asid s
  | .halt => Sys2Proof.Machine.execHalt s
  -- Acts of the other agents: no encoding (INVENTORY.md, Agents)
  | .instructionFetch wave => Sys2Proof.Machine.execInstructionFetch wave s
  | .powerOn => Sys2Proof.Machine.execPowerOn s
  | .firmwareAuthentication die img => Sys2Proof.Machine.execFirmwareAuthentication die img s
  | .earlyServiceCompletion die passed cfg => Sys2Proof.Machine.execEarlyServiceCompletion die passed cfg s
  | .hostMemoryRead die addr len => Sys2Proof.Machine.execHostMemoryRead die addr len s
  | .hostMemoryWrite die addr bytes => Sys2Proof.Machine.execHostMemoryWrite die addr bytes s
  | .notification q => Sys2Proof.Machine.execNotification q s
  | .queueMap q => Sys2Proof.Machine.execQueueMap q s
  | .queueUnmap q => Sys2Proof.Machine.execQueueUnmap q s
  | .queueTimeShareExpiry q => Sys2Proof.Machine.execQueueTimeShareExpiry q s
  | .pendingBitService q => Sys2Proof.Machine.execPendingBitService q s
  | .placement die => Sys2Proof.Machine.execPlacement die s
  | .gangCompletion gang => Sys2Proof.Machine.execGangCompletion gang s
  | .successorInsertion part => Sys2Proof.Machine.execSuccessorInsertion part s
  | .preemptionTimeout task => Sys2Proof.Machine.execPreemptionTimeout task s
  | .contextSave gang => Sys2Proof.Machine.execContextSave gang s
  | .contextRestore gang => Sys2Proof.Machine.execContextRestore gang s
  | .ageQueueJoin wave => Sys2Proof.Machine.execAgeQueueJoin wave s
  | .sleepDeadline wave => Sys2Proof.Machine.execSleepDeadline wave s
  | .copyCompletion transfer delivered => Sys2Proof.Machine.execCopyCompletion transfer delivered s
  | .putPacketArrival p => Sys2Proof.Machine.execPutPacketArrival p s
  | .putSignal p => Sys2Proof.Machine.execPutSignal p s
  | .tileCommandRetire wave => Sys2Proof.Machine.execTileCommandRetire wave s
  | .nodePresentation wave lane => Sys2Proof.Machine.execNodePresentation wave lane s
  | .mirrorUpdate part die => Sys2Proof.Machine.execMirrorUpdate part die s
  | .replCommit => Sys2Proof.Machine.execReplCommit s
  | .graceCompletion dom => Sys2Proof.Machine.execGraceCompletion dom s
  | .freedRingRecheck dom => Sys2Proof.Machine.execFreedRingRecheck dom s
  | .slowGrace dom => Sys2Proof.Machine.execSlowGrace dom s
  | .correctedError site data syndrome => Sys2Proof.Machine.execCorrectedError site data syndrome s
  | .correctedErrorHoldExpiry die index => Sys2Proof.Machine.execCorrectedErrorHoldExpiry die index s
  | .uncorrectableRetry site lasting data syndrome => Sys2Proof.Machine.execUncorrectableRetry site lasting data syndrome s
  | .shadowDivergence wave acc lasting elem data => Sys2Proof.Machine.execShadowDivergence wave acc lasting elem data s
  | .barrierWatchdogExpiry wave => Sys2Proof.Machine.execBarrierWatchdogExpiry wave s
  | .gangKill gang cause => Sys2Proof.Machine.execGangKill gang cause s
  | .flitReplay link failed => Sys2Proof.Machine.execFlitReplay link failed s
  | .edgeDown a b => Sys2Proof.Machine.execEdgeDown a b s
  | .iftStart die => Sys2Proof.Machine.execIftStart die s
  | .iftTestBegin die => Sys2Proof.Machine.execIftTestBegin die s
  | .iftTestEnd die pass => Sys2Proof.Machine.execIftTestEnd die pass s
  | .keyLoad die => Sys2Proof.Machine.execKeyLoad die s
  | .keyClear die => Sys2Proof.Machine.execKeyClear die s
  | .keyBadCommand die => Sys2Proof.Machine.execKeyBadCommand die s
  | .keyCommandCompletion => Sys2Proof.Machine.execKeyCommandCompletion s
  | .relSizeWrite die v => Sys2Proof.Machine.execRelSizeWrite die v s
  | .relStatOvfClear die => Sys2Proof.Machine.execRelStatOvfClear die s
  | .policyDefaultWrite die v => Sys2Proof.Machine.execPolicyDefaultWrite die v s
  | .registerWrite die off v => Sys2Proof.Machine.execRegisterWrite die off v s
  -- The mailbox services (R354)
  | .registerUserQueue tag desc asid part => Sys2Proof.Machine.execRegisterUserQueue tag desc asid part s
  | .registerPrivilegedQueue tag desc asid part => Sys2Proof.Machine.execRegisterPrivilegedQueue tag desc asid part s
  | .unregisterQueue tag q => Sys2Proof.Machine.execUnregisterQueue tag q s
  | .configurePartition tag cfg => Sys2Proof.Machine.execConfigurePartition tag cfg s
  | .partitionReset tag part => Sys2Proof.Machine.execPartitionReset tag part s
  | .partitionTeardown tag part => Sys2Proof.Machine.execPartitionTeardown tag part s
  | .assignAsid tag asid root part save => Sys2Proof.Machine.execAssignAsid tag asid root part save s
  | .retireAsid tag asid => Sys2Proof.Machine.execRetireAsid tag asid s
  | .retireCore tag core => Sys2Proof.Machine.execRetireCore tag core s
  | .restoreCore tag core => Sys2Proof.Machine.execRestoreCore tag core s
  | .attestationReport tag nonce part => Sys2Proof.Machine.execAttestationReport tag nonce part s
  | .clockStep tag clock => Sys2Proof.Machine.execClockStep tag clock s
  | .setBarrierCounts tag part sc die n count => Sys2Proof.Machine.execSetBarrierCounts tag part sc die n count s
  | .openPutWindow tag part win => Sys2Proof.Machine.execOpenPutWindow tag part win s
  | .closePutWindow tag part index => Sys2Proof.Machine.execClosePutWindow tag part index s
  | .setMod tag num => Sys2Proof.Machine.execSetMod tag num s
  | .registerFreedRing tag part asid scope die base log2n => Sys2Proof.Machine.execRegisterFreedRing tag part asid scope die base log2n s
  | .invalidateTranslations tag asid va => Sys2Proof.Machine.execInvalidateTranslations tag asid va s
  | .answerFaultService tag request declined => Sys2Proof.Machine.execAnswerFaultService tag request declined s
  | .resumeGangs tag part task => Sys2Proof.Machine.execResumeGangs tag part task s
  | .killGangs tag part task => Sys2Proof.Machine.execKillGangs tag part task s
  -- Remaining acts
  | .illegalOp word => Sys2Proof.Machine.execIllegalOp word s
  | .hcallReply wave value => Sys2Proof.Machine.execHcallReply wave value s
  | .powerRemoval => Sys2Proof.Machine.execPowerRemoval s
  | .unknownMailboxService tag service => Sys2Proof.Machine.execUnknownMailboxService tag service s

end Sys2Proof.Machine
end

