-- ==== Sys2Proof/Machine/Events.lean ====
section
/-! DEFINITION. The acts that the engines of the package owe: what the state makes due (INVENTORY.md, Agents). An engine acts when its act
would change something. Acts that carry a choice of the spec's (a failing flit, a test's outcome, a put's delivery, an error) and acts of
the host are taken from the inbox only. -/

namespace Sys2Proof.Machine

open Sys2Proof

/-- Go on with the next state of an outcome. -/
def thenDo (o : Out) (f : State → Out) : Out :=
  match o with
  | .next s => f s
  | .fault x => .fault x
  | .refused r => .refused r

/-- A cycle passes: the waits that a retired command has met, time, the updates of mirrors that must arrive, the requests that have waited for a
key command, the freezes that have waited for their gangs to drain, the counts of waiting tasks, and the graces that hold a wave which is gone
(R102, R37, R202, R357, R312, R159, R302). -/
def State.pass (s : State) : State := s.settle.tick.arriveAll.serveDeferred.endHalts.recountAll.releaseGone

/-- After an act: the waves that hold try again, and a cycle passes. -/
def afterAct (o : Out) : Out := thenDo o (fun s => .next s.retry.pass)

/-- An act would change the state. -/
def State.changes (ex : Instr → State → Out) (s : State) (i : Instr) : Bool :=
  match ex i s with
  | .next t => decide (t ≠ s)
  | _ => false

/-- The domain of a key of the table of domains. -/
def domainOf (k : Nat) : DomainKey := { asid := k / 8, die := if k % 8 = 0 then none else some (Fin.ofNat 4 (k % 8 - 1)) }

/-- What the units of the cores and the memories may owe: keys, commits, ends of gangs, tile commands, transfers, walks. -/
noncomputable def State.unitActs (s : State) : List Instr :=
  (if s.keyCmds = [] then [] else [.keyCommandCompletion]) ++
  (if s.repl = [] then [] else [.replCommit]) ++
  s.gangs.filterMap (fun e => e.2.kill.map (fun k => .gangKill e.1 k.1)) ++
  s.gangs.map (fun e => .gangCompletion e.1) ++
  (s.liveWaves.filter (fun e => e.2.tiles ≠ [])).map (fun e => .tileCommandRetire e.1) ++
  (s.transfers.filter (fun e => e.2.kind ≠ .put)).map (fun e => .copyCompletion e.1 true) ++
  s.liveWaves.flatMap (fun e => (e.2.walks.filter (fun x => x.2.phase = .due)).map (fun x => .nodePresentation e.1 (Fin.ofNat 64 x.1)))

/-- What the grace engine, the mirrors and the timers of waves may owe. -/
noncomputable def State.timerActs (s : State) : List Instr :=
  (List.finRange 8).flatMap (fun p => (s.partn p).updates.map (fun u => .mirrorUpdate p (Fin.ofNat 4 u.die))) ++
  s.domains.flatMap (fun e => [.graceCompletion (domainOf e.1), .freedRingRecheck (domainOf e.1), .slowGrace (domainOf e.1)]) ++
  s.liveWaves.map (fun e => .sleepDeadline e.1) ++
  s.liveWaves.map (fun e => .barrierWatchdogExpiry e.1)

/-- What the scheduler may owe. -/
noncomputable def State.schedulerActs (s : State) : List Instr :=
  s.queues.flatMap (fun e => [.pendingBitService e.1, .queueMap e.1, .queueUnmap e.1, .queueTimeShareExpiry e.1]) ++
  (List.finRange 4).map (fun d => .placement d) ++
  (List.finRange 8).map (fun p => .successorInsertion p) ++
  s.gangs.map (fun e => .contextSave e.1) ++
  s.stash.map (fun t => .preemptionTimeout t.num)

/-- What the reliability engine and the in-field test may owe: a corrected error is held for 1 ms at most (R330). -/
noncomputable def State.reliabilityActs (s : State) : List Instr :=
  (List.finRange 4).flatMap (fun d =>
    ((List.range (s.die d).held.length).filter (fun i => match (s.die d).held[i]? with
      | some h => decide (1000000 ≤ s.time - h.time)
      | none => false)).map (fun i => .correctedErrorHoldExpiry d i)) ++
  (List.finRange 4).map (fun d => .iftTestBegin d) ++
  (List.finRange 4).flatMap (fun a => ((List.finRange 4).filter (fun b => a < b)).map (fun b => .edgeDown a b))

/-- The next act that an engine owes (log entry 2). -/
noncomputable def State.nextEvent (s : State) (ex : Instr → State → Out) : Option Instr :=
  (s.unitActs ++ s.timerActs ++ s.schedulerActs ++ s.reliabilityActs).find? (s.changes ex)

end Sys2Proof.Machine
end

