-- ==== Sys2Proof/Machine/Slip.lean ====
section
/-! DEFINITION. The slip of a wave's lane groups (R109; log entry 104): a vector instruction may be executed by some of them only, and the
others execute it later, within %slip vector instructions, so that the accesses of different lanes interleave as the spec allows. -/

namespace Sys2Proof.Machine

/-- A vector load, store or atomic. -/
def memWord (x : Word) : Bool := decide (0x23 ≤ wordMaj x) && decide (wordMaj x ≤ 0x2B)

/-- The words that a lane group executes for its own lanes alone: those of the vector unit but for the lane barriers (R110), what gives a
scalar, and `kall` and `knone`; and the vector loads, stores and atomics. -/
def slips (x : Word) : Bool :=
  let m := wordMaj x
  (decide (0x10 ≤ m) && decide (m ≤ 0x1D) && !(m = 0x1C && decide (6 ≤ fld x.toNat 9 4))) || (m = 0x1E && fld x.toNat 0 5 = 0) ||
  memWord x

/-- The words that touch scalar registers and the PC only: what a lane group has still to execute stands behind them. -/
def leavesLag (x : Word) : Bool := decide (wordMaj x ≤ 3) || (decide (6 ≤ wordMaj x) && decide (wordMaj x ≤ 8)) || wordMaj x = 0x0C

/-- The lanes of the lane groups `g`: one element group each (R108). -/
def groupLanes (g : BitVec 4) : BitVec 64 :=
  (List.range 4).foldl (fun m i => if g.getLsbD i then m ||| ((0xFFFF : BitVec 64) <<< (16 * i)) else m) 0

/-- The lanes with a word still to execute. -/
def Wave.behind (w : Wave) : BitVec 64 := w.lag.foldl (fun m e => m ||| e.lanes) 0

/-- The issuing wave's word has been executed without a trap, a wait, a lane switched off or a change of its PC table but for the PC. -/
def State.plainly (s t : State) : Bool :=
  let w := s.me
  let y := t.me
  y.live && !y.held && decide (y.wait = .none) && y.run.wait.isNone && decide (y.mode = w.mode) && decide (y.run.kind = w.run.kind) &&
  decide (y.run.mask = w.run.mask) && decide (y.rest = w.rest) && decide (y.sr.lfm = w.sr.lfm)

/-! ## Catching up -/

/-- Wave `n` as the lanes `m` meet a word that they have still to execute: with the scalar registers and the translations of its issue. -/
def State.backAt (s : State) (n : Nat) (e : LagWord) (m : BitVec 64) : State :=
  let w := s.wave n
  (({ s with cur := n, ir := e.word } : State).setWave n
    { w with
      s := e.s, wait := .none, held := false, sr := { w.sr with vstart := 0 }
      run := { w.run with pc := e.pc, kind := e.kind, mask := m, wait := none } }).setCore w.id.place
    { s.core w.id.place with tlb := e.tlb }

/-- The lanes have executed the word, in `t`: what they have written stays, and the wave stands where it stood in `s`. What they have stored is
performed: it is as late as slip allows. -/
def State.caughtUp (s : State) (n : Nat) (t : State) : State :=
  let w := s.wave n
  let y := t.wave n
  let t1 := (({ t with cur := s.cur, ir := s.ir } : State).setWave n
    { w with
      v := y.v, k := y.k, dirty := y.dirty, hw := y.hw, sr := { w.sr with flags := y.sr.flags, pmask := y.sr.pmask }
      late := y.late, loads := y.loads.filter (· ∈ w.loads) }).setCore w.id.place
    { t.core w.id.place with tlb := (s.core w.id.place).tlb }
  if w.late.length < y.late.length then t1.performLate n y.late.length else t1

/-- The lanes `m` of wave `n` execute the word, if they can as things stand. -/
noncomputable def State.tryBehind (ex : Instr → State → Out) (s : State) (n : Nat) (e : LagWord) (m : BitVec 64) : Option State :=
  match ex e.ins (s.backAt n e m) with
  | .next t => if (s.backAt n e m).plainly t then some (s.caughtUp n t) else none
  | _ => none

/-- The same, after the wave's late stores where it must wait for them. No word is left behind that could end in another way (`mayLag`). -/
noncomputable def State.runBehind (ex : Instr → State → Out) (s : State) (n : Nat) (e : LagWord) (m : BitVec 64) : State :=
  match s.tryBehind ex n e m with
  | some t => t
  | none => ((s.performLate n (s.wave n).late.length).tryBehind ex n e m).getD s

/-- The words `es` are executed by all their lanes, in order. -/
noncomputable def State.runAllBehind (ex : Instr → State → Out) (s : State) (n : Nat) (es : List LagWord) : State :=
  es.foldl (fun s e => s.runBehind ex n e e.lanes) s

/-- Every lane group of wave `n` has caught up. -/
noncomputable def State.drainLag (ex : Instr → State → Out) (s : State) (n : Nat) : State :=
  let w := s.wave n
  if w.lag = [] then s else (s.setWave n { w with lag := [] }).runAllBehind ex n w.lag

/-- Every wave's have. -/
noncomputable def State.drainLags (ex : Instr → State → Out) (s : State) : State :=
  ((s.liveWaves.filter (fun e => e.2.lag ≠ [])).map (·.1)).foldl (fun s n => s.drainLag ex n) s

/-- The lanes of `m` that have still to execute word `i` of those behind do so. -/
noncomputable def State.catchUp (ex : Instr → State → Out) (s : State) (n i : Nat) (m : BitVec 64) : State :=
  let w := s.wave n
  match w.lag[i]? with
  | none => s
  | some e =>
    let left := e.lanes &&& ~~~m
    let lag := if left = 0 then w.lag.eraseIdx i else w.lag.set i { e with lanes := left }
    (s.setWave n { w with lag }).runBehind ex n e (e.lanes &&& m)

/-- As time passes a lane group that is behind may execute the oldest of its words: which, the hardware chooses. Where the wave cannot issue, all
of them catch up. -/
noncomputable def State.lagPass (ex : Instr → State → Out) (s : State) (n : Nat) : State :=
  if !s.canIssue n then s.drainLag ex n
  else
    let g := Config.groupNext s.fresh % 5
    let m := groupLanes (BitVec.ofNat 4 (2 ^ g))
    let s1 : State := { s with fresh := s.fresh + 1 }
    match (s.wave n).lag.findIdx? (fun e => e.lanes &&& m ≠ 0) with
    | some i => s1.catchUp ex n i m
    | none => s1

noncomputable def State.lagTime (ex : Instr → State → Out) (s : State) : State :=
  let ns := (s.liveWaves.filter (fun e => e.2.lag ≠ [])).map (·.1)
  if ns = [] then s else (ns.foldl (fun s n => s.lagPass ex n) s).retry

/-- Before the issuing wave's word: where it is one of the lane groups, those that are %slip words behind execute the oldest of them, and what is
left lies one word further back (R109). -/
noncomputable def State.keepSlip (ex : Instr → State → Out) (s : State) (x : Word) : State :=
  let w := s.me
  if w.lag = [] ∨ laneWord x = false then s
  else
    let old := w.lag.takeWhile (fun e => w.sr.slip.toNat ≤ e.steps + 1)
    let s1 := (s.setMe { w with lag := w.lag.drop old.length }).runAllBehind ex s.cur old
    s1.setMe { s1.me with lag := s1.me.lag.map (fun e => { e with steps := e.steps + 1 }) }

/-! ## Leaving lane groups behind -/

/-- What a vector load, store or atomic accesses. -/
structure LaneAccess where
  sp   : Space
  n    : Nat
  kind : AccKind
  regs : List VReg        -- those that its addresses depend on
  km   : KReg
  off  : Lane → Nat

def Wave.accessOf (w : Wave) (n : Nat) (kind : AccKind) (sa : SReg) (sp : Space) (km : KReg) (md : VMode) : LaneAccess :=
  { sp, n, kind, regs := vmodeRegs md, km, off := w.laneOffset sa sp md n }

def Wave.atomOf (w : Wave) (sp : Space) (sa : SReg) (va : VReg) : LaneAccess :=
  { sp, n := 4, kind := .atomic, regs := [va], km := 0, off := w.atomOffset sa va }

def Wave.access (w : Wave) : Instr → Option LaneAccess
  | .vldW _ sa sp km md => some (w.accessOf 4 .load sa sp km md)
  | .vldH _ sa sp km md => some (w.accessOf 2 .load sa sp km md)
  | .vldB _ sa sp km md => some (w.accessOf 1 .load sa sp km md)
  | .vstW _ sa sp km md => some (w.accessOf 4 .store sa sp km md)
  | .vstH _ sa sp km md => some (w.accessOf 2 .store sa sp km md)
  | .vstB _ sa sp km md => some (w.accessOf 1 .store sa sp km md)
  | .vatomG _ sa va _ _ => some (w.atomOf .g sa va)
  | .vatomD _ sa va _ _ => some (w.atomOf .d sa va)
  | .vatomQ _ sa va _ _ => some (w.atomOf .q sa va)
  | _ => none

/-- The word writes one of the vector registers `regs`, or the mask register `km`. -/
def LagWord.writes (e : LagWord) (regs : List VReg) (km : KReg) : Bool :=
  let m := wordMaj e.word
  if 0x1A ≤ m ∧ m ≤ 0x1C then decide (km ≠ 0) && fld e.word.toNat 21 4 = km.val
  else if 0x26 ≤ m ∧ m ≤ 0x28 then false
  else regs.any (fun r => r.val = fld e.word.toNat 20 5)

/-- The lanes `m` reach memory that answers at once, whenever they access it: no REPL page, no poison, nothing that notifies, and HOST pages for loads
only, since stores to them leave in order (R355). -/
def State.plainPlaces (s : State) (x : LaneAccess) (m : BitVec 64) : Bool :=
  (lanesOf m).all (fun l => match s.pieces s.me x.sp l.val (x.off l) x.n x.kind with
    | .ok (t, ps) => ps.all (fun p => t.mayWait p && (decide (x.kind = .load) || !p.1.onHost))
    | _ => false)

/-- Lane groups may be left behind at the instruction. Where it accesses memory its places are plain and are known at its issue (no load or
atomic that is behind bears on its addresses or its mask), and elements that are stored go to places of their own, since those of one place
are ordered by lane (R140, R185). `d` is the state in which every lane group has caught up. -/
def State.mayLag (s d : State) (ins : Instr) : Bool :=
  match d.me.access ins with
  | none => true
  | some x =>
    let m := d.me.part x.km
    let open' := s.me.lag.dropWhile (fun e => !memWord e.word)
    open'.all (fun e => !e.writes x.regs x.km) && d.plainPlaces x m &&
    (decide (x.kind = .load) || decide (x.sp = .l) || decide (((lanesOf m).map x.off).Nodup))

/-- The issuing wave executes the word in `s` as it stands if that ends plainly, else with every lane group up with the word. -/
noncomputable def ahead (ex : Instr → State → Out) (ins : Instr) (s : State) : Out :=
  if s.me.lag = [] then ex ins s
  else match ex ins s with
    | .next t => if s.plainly t then .next t else ex ins (s.drainLag ex s.cur)
    | _ => ex ins (s.drainLag ex s.cur)

/-- The lanes `late` have still to execute the word, which the others have executed in `b` and all would have in `a`. -/
def State.leave (s : State) (ins : Instr) (late : BitVec 64) (a b : State) : State :=
  let w := s.me
  let e : LagWord :=
    { ins, word := s.ir, pc := w.run.pc, kind := w.run.kind, lanes := late, s := w.s, tlb := (a.core w.id.place).tlb, steps := 0 }
  b.setMe { b.me with run := { b.me.run with mask := w.run.mask }, lag := b.me.lag ++ [e] }

/-- The lane groups that are up with the word execute it, and the lanes `late` are left behind; where that may not be, all of them execute it, in
order. -/
noncomputable def runLead (ex : Instr → State → Out) (ins : Instr) (s : State) (late : BitVec 64) : Out :=
  let d := s.drainLag ex s.cur
  let f := s.setMe { s.me with run := { s.me.run with mask := s.me.run.mask &&& ~~~late } }
  match ex ins d, ex ins f with
  | .next a, .next b =>
    if f.me.run.mask ≠ 0 ∧ d.plainly a ∧ f.plainly b ∧ s.mayLag d ins then .next (s.leave ins late a b) else .next a
  | o, _ => o

/-- The state in which a word that lane groups cannot pass is executed: the wave's have caught up; before `tlbinv` every wave's have, since their
accesses use translations (R314). -/
noncomputable def State.upTo (ex : Instr → State → Out) (s : State) : Instr → State
  | .tlbinv _ _ => s.drainLags ex
  | _ => s.drainLag ex s.cur

/-- The issuing wave executes the instruction of the word in `ir`: with %slip = 0 its lane groups move in lockstep (R109); else those that are
behind, and others that the hardware chooses, execute it later. -/
noncomputable def runWord (ex : Instr → State → Out) (ins : Instr) (s : State) : Out :=
  let w := s.me
  if slips s.ir ∧ w.sr.slip ≠ 0 ∧ w.sr.vstart = 0 ∧ w.shadow = [] then
    let s1 : State := { s with fresh := s.fresh + 1 }
    let late := w.run.mask &&& (w.behind ||| groupLanes (Config.groupsBehind s.fresh))
    if late = 0 then ahead ex ins s1 else runLead ex ins s1 late
  else if leavesLag s.ir then ahead ex ins s
  else ex ins (s.upTo ex ins)

end Sys2Proof.Machine
end

