-- ==== Sys2Proof/Machine/Run.lean ====
section
/-! DEFINITION. One step of the package around the meanings: the acts that are to come, the wave that issues, its word, and the
engines' acts (R100, R160); and a machine on which a given instruction is the next to run. -/

namespace Sys2Proof.Machine

/-- The state in which the run's word is executed: after the wave's step of slip (R109) and the launch entry (R338), with the word in `ir`. -/
noncomputable def State.atWord (ex : Instr → State → Out) (s : State) (x : Word) : State :=
  { ((s.keepSlip ex x).beforeWord x).launchEntry with ir := x }

/-- Execute the word at the run's address, `p` being its packet (R15 to R18, R39). A trap that is not the word's own finds every lane group up
with it (R109). -/
noncomputable def executeWord (ex : Instr → State → Out) (s0 : State) (p : Packet) : Out :=
  let x := p.word (wordIndex s0.me.run.pc)
  match s0.shadowDue with
  | some e =>
    let s := s0.drainLag ex s0.cur
    (s.setMe (s.me.dropShadow e)).trap causeShadow e.info
  | none =>
    let s := s0.atWord ex x
    let d := s.drainLag ex s.cur
    match p.decodeAt (wordIndex s0.me.run.pc) with
    | .ok ins =>
      match d.vectorDue x with
      | some e => thenDo (ex ins (d.cutAt x e.info.toNat)) (fun t => .next (t.shadowTrap d x e))
      | none => runWord ex ins s
    | .error .literal => d.trap causeIllegalPacket (p.w0.zeroExtend 64)
    | .error _ => ex (.illegalOp x) d

/-- The word that `s` stands at would wait on the machine as it was before its tie group, in `s0` (R20). -/
noncomputable def waitsBefore (ex : Instr → State → Out) (p : Packet) (s0 s : State) : Bool :=
  match executeWord ex (s0.asBefore s) p with
  | .next t => t.waits
  | _ => false

/-- The words of a tie group from the run's word on, at most `n`, one after another (R15, R20); `s0` is the state before the group. A word
that cannot issue makes the whole group wait, unless it waits only for what an earlier word of its own group has begun: that word stands
(log entry 16). -/
noncomputable def issueGroup (ex : Instr → State → Out) (p : Packet) (s0 : State) : Nat → State → Out
  | 0, s => .next s
  | n + 1, s => thenDo (executeWord ex s p) (fun t =>
      if t.waits then .next (if waitsBefore ex p s0 s then s0.groupWaits t else t)
      else if s.goesOn t then issueGroup ex p s0 n t
      else .next t)

/-- Wave `n` issues one tie group: its run is chosen, its packet fetched if it is not there, and the words executed (R22, R100). -/
noncomputable def issue (ex : Instr → State → Out) (s : State) (n : Nat) : Out :=
  match (s.wave n).pick with
  | none => .next s
  | some w =>
    let s1 := { s.setWave n w with cur := n, relief := s.relief.filter (· ≠ .wave n) }
    thenDo
      (match w.run.buf with
        | some p => issueGroup ex p s1 3 s1
        | none =>
          match s1.fetch with
          | .ok (s2, p) => issueGroup ex p s2 3 s2
          | .error _ =>
            match (s1.drainLag ex n).fetch with
            | .ok (s2, p) => issueGroup ex p s2 3 s2
            | .error o => o)
      (fun t => .next t.afterGroup)

/-- Wave `n` is ready: the run that R100 takes has a tie group that can issue (R160). -/
noncomputable def State.readyNow (ex : Instr → State → Out) (s : State) (n : Nat) : Bool :=
  match issue ex s n with
  | .next t => !(t.cur = n && t.waits && t.me.run.pc = ((s.wave n).pick.getD (s.wave n)).run.pc)
  | _ => true

/-- Core `c` gives its turns to the waves `ns`, those of `ready` being its waves that can issue; its other waves are passed over, in slot
order (R160). -/
def State.turn (s : State) (c : CoreId) (ready ns : List Nat) : State :=
  let mine := sortBy (fun n => (s.wave n).id.slot.val) ((s.liveWaves.filter (fun e => e.2.id.place = c)).map (·.1))
  (mine.filter (fun n => n ∉ ns)).foldl (fun s m => s.passOver c ready m) (ns.foldl (fun s n => s.takeTurn c n) s)

/-- The waves that take a turn of core `c`: one, and on an M-core a second one whose group shares no pipe with the first (R160). -/
def State.turns2 (s : State) (c : CoreId) (ready : List Nat) : List Nat :=
  match s.pickWave c ready with
  | none => []
  | some n =>
    if CoreId.isE c then [n]
    else n :: ((s.pickWave c (ready.filter (s.pairs n))).map (fun m => [m])).getD []

/-- Core `c` issues, and a cycle passes. A core with no ready wave issues nothing; the waves whose groups must wait are held first. -/
noncomputable def issueCore (ex : Instr → State → Out) (s : State) (c : CoreId) (ns : List Nat) : Out :=
  let mine := s.onCore c ns
  let ready := mine.filter (s.readyNow ex)
  let two := s.turns2 c ready
  let go (o : Out) (n : Nat) : Out := thenDo o (fun t => if t.canIssue n then issue ex t n else .next t)
  thenDo
    (two.foldl go (thenDo ((mine.filter (fun n => n ∉ ready)).foldl go (.next s)) (fun t => .next (t.turn c ready two))))
    (fun t => .next (t.lagTime ex).pass)

/-- An act is done, if there is power for it: a package without power knows only POWER_ON (R359). Every lane group has caught up then (log entry
104). -/
noncomputable def runAct (ex : Instr → State → Out) (i : Instr) (s : State) : Out :=
  if i.isWord then .next s
  else if s.power ∨ i = .powerOn then afterAct (ex i (s.drainLags ex)) else .next s

/-- Nothing is scheduled: an engine acts if it has something to do; else a core issues; else time passes. -/
noncomputable def runFree (ex : Instr → State → Out) (s : State) : Out :=
  match s.nextEvent ex with
  | some i => afterAct (ex i (s.drainLags ex))
  | none =>
    let ns := s.readyWaves
    match s.nextCore ns with
    | some c => issueCore ex s c ns
    | none => .next (s.lagTime ex).pass

/-- One step. -/
noncomputable def runStep (ex : Instr → State → Out) (s : State) : Out :=
  match s.inbox with
  | i :: rest => runAct ex i { s with inbox := rest }
  | [] =>
    if ¬ s.power then .fault .noPower
    else match s.schedule with
      | c :: cs => issueCore ex { s with schedule := cs } c s.readyWaves
      | [] => runFree ex s

/-! ## A machine that runs a given instruction next -/

/-- The page table of the test machine: one 2 MiB page at virtual address 0 with R, W and X, from a root at 0x1000 and a table
at 0x2000 to the page at device address 0x200000. -/
def testTables : Mem :=
  memWrites (memWrites [] 0x1000 (bytesOfNat 8 0x2003)) 0x2000 (bytesOfNat 8 0x3003)

def testMem (bs : List Byte) : Mem :=
  memWrites (memWrites testTables 0x3000 (bytesOfNat 8 0x20001D)) 0x200000 bs

def testRecord : TaskRecord :=
  { TaskRecord.zero with
    profile := 3, wg := 1, waves := 1, vlreq := 64, vregs := 4, rings := 8, nbars := 16, scratch := 0x10000
    gbase := 0x100000, glim := 0x10000, dbase := 0, dlim := 0x10000, lbase := 0x120000, llim := 0x100
    cbase := 0x110000, clim := 0x10000, asid := 1 }

def testGang : Gang :=
  { Gang.none with
    live := true, record := testRecord, asid := 1, place := some (0, 0, [0]), issued := true }

def testWave : Wave :=
  { Wave.vacant with
    live := true
    run := { Entry.reset with mask := BitVec.allOnes 64 }
    sr := { Special.reset with vl := 64, slip := 0 }
    id := { Ident.reset with asid := 1, priv := true, eff := 3 }
    seg := { g := ⟨0x100000, 0x10000⟩, d := ⟨0, 0x10000⟩, q := ⟨0, 0x10000⟩, c := ⟨0x110000, 0x10000⟩, l := ⟨0x120000, 0x100⟩ }
    blocks := 4 }

def testPart : Partition :=
  { Partition.reset with
    made := true
    cfg := { PartConfig.none with quads := [(0, 0)], asidLo := 1, asidN := 1, fmtMask := 0x7FF, topoVa := 0x400000 } }

/-- A package with power whose one core holds one privileged wave of profile 3, at address 0, where the bytes `bs` stand. -/
def State.loaded (s : State) (bs : List Byte) : State :=
  { s with
    power := true, inbox := [], schedule := [.zero], cur := 0
    waves := [(0, testWave)], gangs := [(0, testGang)]
    parts := put s.parts 0 testPart
    asids := put s.asids 1 { live := true, root := 0x1000, part := 0, save := 0, retiring := [] }
    cores := s.cores.map (fun e => (e.1, { e.2 with tlb := [] }))
    gddr := testMem bs, unitKey := [], gddrPoison := [], repl := [], keys := [], keyCmds := [] }

end Sys2Proof.Machine
end

