-- ==== Sys2Proof/Machine/Step.lean ====
section
/-! DEFINITION. One step of the package, and the placing of an instruction where the next step fetches it. -/

namespace Sys2Proof.Machine

open Sys2Proof

/-- One step (log entry 2): the next act that the inbox holds; else one cycle of a core, whose waves issue a tie
group each, or an act of an engine. -/
noncomputable def step (s : State) : Host.Outcome State Fault Refusal := runStep exec s

/-- The machine `s` with the instruction whose bits are `w` as the first packet of a wave of its own, which is the next to issue (log
entry 10). -/
def State.withFetchWord (s : State) (nbits w : Nat) : State := s.loaded (bytesOfNat 12 (w % 2 ^ nbits))

end Sys2Proof.Machine
end

