-- ==== Sys2Proof/Safety.lean ====
section
/-! DEFINITION. What counts as a safe state of the package. -/

namespace Sys2Proof.Machine

/-- Every memory of the package is in its canonical form: device memory, the host's, the die memories, the scratchpads, and the
scratchpad bytes of gangs that are swapped out. -/
structure State.MemOk (s : State) : Prop where
  gddr : Mem.wf s.gddr = true
  host : Mem.wf s.host = true
  dies : ∀ e ∈ s.dies, Mem.wf e.2.mem = true
  quads : ∀ e ∈ s.quads, Mem.wf e.2.scratch = true
  gangs : ∀ e ∈ s.gangs, Mem.wf e.2.qsave = true

end Sys2Proof.Machine
end

