-- ==== Sys2Proof/Certificates/Slice0/Obligations.lean ====
section
/-! DEFINITION. The statements for the provers, with the small tables they are written in. -/

open Sys2Proof Sys2Proof.Machine

/-! ## Scalar arithmetic (R77 to R83) -/

namespace Sys2Proof.Claims

/-- The physical lane groups of a core that work, and W, their number (R108). -/
def workingGroups (c : Core) : List Nat := (List.range 4).filter (fun i => c.groups.getLsbD i)

def laneGroups (c : Core) : Nat := (workingGroups c).length

/-- An instruction with a destination and two sources, and what it computes from s[sa], s[sb] and the old s[sd]. -/
abbrev Alu3 := (SReg → SReg → SReg → Instr) × (DWord → DWord → DWord → DWord)

/-- The field of R80: its position and the width that is used. -/
def fieldAt (b : DWord) : Nat := b.toNat % 64
def fieldLen (b : DWord) : Nat := min (b.toNat / 256 % 128) (64 - fieldAt b)

/-- `bfe`, in numbers. -/
def extracted (a b : DWord) : Nat :=
  let x := a.toNat / 2 ^ fieldAt b % 2 ^ fieldLen b
  if 0 < fieldLen b ∧ b.toNat / 2 ^ 15 % 2 = 1 ∧ 2 ^ (fieldLen b - 1) ≤ x then x + 2 ^ 64 - 2 ^ fieldLen b else x

/-- `bfi`, in numbers: the field of `d` gives way to the low bits of `a`. -/
def inserted (a b d : DWord) : Nat :=
  d.toNat - d.toNat / 2 ^ fieldAt b % 2 ^ fieldLen b * 2 ^ fieldAt b + a.toNat % 2 ^ fieldLen b * 2 ^ fieldAt b

def one (c : Prop) [Decidable c] : DWord := if c then 1 else 0

/-- The table of R78 with R79 and R80, each result by the arithmetic of integers. -/
noncomputable def alu3 : List Alu3 :=
  [(.add, fun a b _ => BitVec.ofNat 64 (a.toNat + b.toNat)),
   (.sub, fun a b _ => BitVec.ofInt 64 (a.toInt - b.toInt)),
   (.and, fun a b _ => a &&& b),
   (.or, fun a b _ => a ||| b),
   (.xor, fun a b _ => a ^^^ b),
   (.andn, fun a b _ => a &&& ~~~b),
   (.shl, fun a b _ => BitVec.ofNat 64 (a.toNat * 2 ^ (b.toNat % 64))),
   (.shr, fun a b _ => BitVec.ofNat 64 (a.toNat / 2 ^ (b.toNat % 64))),
   (.sar, fun a b _ => BitVec.ofInt 64 (a.toInt / 2 ^ (b.toNat % 64))),
   (.rol, fun a b _ => BitVec.ofNat 64 (a.toNat * 2 ^ (b.toNat % 64) + a.toNat / 2 ^ (64 - b.toNat % 64))),
   (.min, fun a b _ => BitVec.ofInt 64 (min a.toInt b.toInt)),
   (.max, fun a b _ => BitVec.ofInt 64 (max a.toInt b.toInt)),
   (.minu, fun a b _ => BitVec.ofNat 64 (min a.toNat b.toNat)),
   (.maxu, fun a b _ => BitVec.ofNat 64 (max a.toNat b.toNat))] ++
  [(.mul, fun a b _ => BitVec.ofInt 64 (a.toInt * b.toInt)),
   (.mulh, fun a b _ => BitVec.ofInt 64 (a.toInt * b.toInt / 2 ^ 64)),
   (.mulhu, fun a b _ => BitVec.ofNat 64 (a.toNat * b.toNat / 2 ^ 64)),
   (.div, fun a b _ => if b = 0 then BitVec.ofInt 64 (-1) else BitVec.ofInt 64 (a.toInt.tdiv b.toInt)),
   (.divu, fun a b _ => if b = 0 then BitVec.ofInt 64 (-1) else BitVec.ofNat 64 (a.toNat / b.toNat)),
   (.rem, fun a b _ => if b = 0 then a else BitVec.ofInt 64 (a.toInt - b.toInt * a.toInt.tdiv b.toInt)),
   (.remu, fun a b _ => if b = 0 then a else BitVec.ofNat 64 (a.toNat - b.toNat * (a.toNat / b.toNat))),
   (.slt, fun a b _ => one (a.toInt < b.toInt)),
   (.sltu, fun a b _ => one (a.toNat < b.toNat)),
   (.seq, fun a b _ => one (a = b)),
   (.bfe, fun a b _ => BitVec.ofNat 64 (extracted a b)),
   (.bfi, fun a b d => BitVec.ofNat 64 (inserted a b d)),
   (.csel, fun a b d => if d ≠ 0 then a else b)]

/-- The instructions of R78 with one source: how many leading bits are zero, how many trailing ones, how many bits are one. -/
noncomputable def alu2 : List ((SReg → SReg → Instr) × (DWord → DWord)) :=
  [(.clz, fun a => BitVec.ofNat 64 ((List.range 64).countP (fun i => a.toNat < 2 ^ i))),
   (.ctz, fun a => BitVec.ofNat 64 ((List.range 64).countP (fun i => a.toNat % 2 ^ (i + 1) = 0))),
   (.popc, fun a => BitVec.ofNat 64 ((List.range 64).countP (fun i => a.toNat / 2 ^ i % 2 = 1)))]

/-- The table of R81: a ten-bit immediate, sign-extended. -/
noncomputable def alui : List ((SReg → SReg → BitVec 10 → Instr) × (DWord → Int → DWord)) :=
  [(.addi, fun a i => BitVec.ofInt 64 (a.toInt + i)),
   (.andi, fun a i => a &&& BitVec.ofInt 64 i),
   (.ori, fun a i => a ||| BitVec.ofInt 64 i),
   (.xori, fun a i => a ^^^ BitVec.ofInt 64 i),
   (.slti, fun a i => one (a.toInt < i))]

/-- The shifts of R81. -/
noncomputable def alush : List ((SReg → SReg → Fin 64 → Instr) × (DWord → Nat → DWord)) :=
  [(.shli, fun a n => BitVec.ofNat 64 (a.toNat * 2 ^ n)),
   (.shri, fun a n => BitVec.ofNat 64 (a.toNat / 2 ^ n)),
   (.sari, fun a n => BitVec.ofInt 64 (a.toInt / 2 ^ n))]

end Sys2Proof.Claims

open Sys2Proof.Claims

/-- R78 to R80 and `csel` of R89: every instruction completes, from every state and with every operand, s0 among them. The one change is to
s[sd] and to the run, which goes to the next word: all other registers, the flags, every special register, the other waves and every
memory are as they were, since the state is otherwise the same state. -/
def Sys2Proof.Claims.ScalarResults : Prop :=
  (∀ e ∈ alu3, ∀ (s : State) (sd sa sb : SReg),
    exec (e.1 sd sa sb) s = .next (s.setMe ((s.me.setS sd (e.2 (s.me.rs sa) (s.me.rs sb) (s.me.rs sd))).past 1))) ∧
  (∀ e ∈ alu2, ∀ (s : State) (sd sa : SReg),
    exec (e.1 sd sa) s = .next (s.setMe ((s.me.setS sd (e.2 (s.me.rs sa))).past 1)))

/-- R81 to R83: the immediates and the constants; `lit` and `lit64` move the run past their literal words. -/
def Obligations.ScalarImmediates : Prop :=
  (∀ e ∈ alui, ∀ (s : State) (sd sa : SReg) (i : BitVec 10),
    exec (e.1 sd sa i) s = .next (s.setMe ((s.me.setS sd (e.2 (s.me.rs sa) i.toInt)).past 1))) ∧
  (∀ e ∈ alush, ∀ (s : State) (sd sa : SReg) (n : Fin 64),
    exec (e.1 sd sa n) s = .next (s.setMe ((s.me.setS sd (e.2 (s.me.rs sa) n.val)).past 1))) ∧
  (∀ (s : State) (sd : SReg) (i : BitVec 19),
    exec (.sethi sd i) s = .next (s.setMe ((s.me.setS sd (BitVec.ofInt 64 (i.toInt * 2 ^ 13))).past 1))) ∧
  (∀ (s : State) (sd : SReg) (v : BitVec 32),
    exec (.lit sd v) s = .next (s.setMe ((s.me.setS sd (BitVec.ofInt 64 v.toInt)).past 2))) ∧
  (∀ (s : State) (sd : SReg) (v : BitVec 64), exec (.lit64 sd v) s = .next (s.setMe ((s.me.setS sd v).past 3)))

/-- R12 and R77: s0 reads as zero, a write to it is discarded, and a write to another register is read back there and changes no other
register. -/
def Sys2Proof.Claims.ScalarRegisterFile : Prop :=
  ∀ (w : Wave) (r q : SReg) (x : DWord),
    w.rs 0 = 0 ∧ w.setS 0 x = w ∧ (r ≠ 0 → (w.setS r x).rs r = x) ∧ (q ≠ r → (w.setS r x).rs q = w.rs q)

/-- R12, R77 to R80 and R89: what every scalar instruction of R78 answers, and the register file it answers to. -/
def Obligations.ScalarArithmetic : Prop := ScalarResults ∧ ScalarRegisterFile

/-! ## Control transfer (R87 to R89) -/

namespace Sys2Proof.Claims

/-- The comparisons of R87. -/
noncomputable def branches : List ((SReg → SReg → BitVec 10 → Instr) × (DWord → DWord → Prop)) :=
  [(.beq, fun a b => a = b),
   (.bne, fun a b => a ≠ b),
   (.blt, fun a b => a.toInt < b.toInt),
   (.bge, fun a b => b.toInt ≤ a.toInt),
   (.bltu, fun a b => a.toNat < b.toNat),
   (.bgeu, fun a b => b.toNat ≤ a.toNat)]

/-- P + 12 × off, P being the start of the packet that holds the running word. -/
def packetTarget (w : Wave) (off : Int) : DWord :=
  BitVec.ofInt 64 ((w.run.pc.toNat - w.run.pc.toNat % 12 : Nat) + 12 * off)

end Sys2Proof.Claims

/-- R87 and R88: a branch whose comparison holds takes the run to P + 12 × SignExt(off, 10); one whose comparison fails goes on at the next
word. `jmp` always goes, and `call` first writes the address of the word after it. A branch writes no register. -/
def Sys2Proof.Claims.Branches : Prop :=
  (∀ e ∈ branches, ∀ (s : State) (sa sb : SReg) (off : BitVec 10),
    (e.2 (s.me.rs sa) (s.me.rs sb) →
      exec (e.1 sa sb off) s = .next (s.setMe (s.me.to (packetTarget s.me off.toInt)))) ∧
    (¬ e.2 (s.me.rs sa) (s.me.rs sb) → exec (e.1 sa sb off) s = .next (s.setMe (s.me.past 1)))) ∧
  (∀ (s : State) (off : BitVec 19), exec (.jmp off) s = .next (s.setMe (s.me.to (packetTarget s.me off.toInt)))) ∧
  (∀ (s : State) (sl : SReg) (off : BitVec 19),
    exec (.call sl off) s = .next (s.setMe ((s.me.setS sl (s.me.run.pc + 4)).to (packetTarget s.me off.toInt))))

/-- R89: `jr` and `callr` go to t = s[sa] when it is a word address; t is read before the link is written. Otherwise they raise MISALIGNED
at their own word with t in %tinfo. -/
def Sys2Proof.Claims.IndirectTransfers : Prop :=
  ∀ (s : State) (sd sa : SReg),
    ((s.me.rs sa).toNat % 4 = 0 →
      exec (.jr sa) s = .next (s.setMe (s.me.to (s.me.rs sa))) ∧
      exec (.callr sd sa) s = .next (s.setMe ((s.me.setS sd (s.me.run.pc + 4)).to (s.me.rs sa)))) ∧
    ((s.me.rs sa).toNat % 4 ≠ 0 →
      exec (.jr sa) s = .next (s.trapAt s.cur 0x04 (s.me.rs sa) s.me.run.pc) ∧
      exec (.callr sd sa) s = .next (s.trapAt s.cur 0x04 (s.me.rs sa) s.me.run.pc))

/-- R87 to R89: branches, jumps and calls, direct and indirect. -/
def Obligations.ControlTransfers : Prop := Branches ∧ IndirectTransfers

/-! ## Scalar F32 (R97) -/

namespace Sys2Proof.Claims

/-- s[sd] ← the word, zero-extended, and the flags are ORed into %flags. -/
def putWord (s : State) (sd : SReg) (r : Fp) : Out :=
  .next (s.setMe (((s.me.addFlags r.2).setS sd (r.1.zeroExtend 64)).past 1))

def putBit (s : State) (sd : SReg) (r : Bool × FpFlags) : Out :=
  .next (s.setMe (((s.me.addFlags r.2).setS sd (one (r.1 = true))).past 1))

/-- The two-operand instructions of R97, with the operation of the format chapter each applies. -/
noncomputable def fp2 : List ((SReg → SReg → SReg → Instr) × (Word → Word → Fp)) :=
  [(.fadd, f32Add), (.fsub, f32Sub), (.fmul, f32Mul), (.fdiv, f32Div), (.fmin, f32Min), (.fmax, f32Max)]

noncomputable def fpc : List ((SReg → SReg → SReg → Instr) × (Word → Word → Bool × FpFlags)) :=
  [(.flt, f32Lt), (.feq, f32Eq), (.fle, f32Le)]

/-- The special cases of F32 that R61, R70 and R97 name. -/
def IsNan (x : Word) : Prop := x.toNat / 2 ^ 23 % 256 = 255 ∧ x.toNat % 2 ^ 23 ≠ 0

end Sys2Proof.Claims

/-- R97: every scalar F32 instruction completes on every pair of words, reading bits 31 to 0 of its sources only, and writes s[sd] and the
flags. -/
def Sys2Proof.Claims.ScalarFloatResults : Prop :=
  (∀ e ∈ fp2, ∀ (s : State) (sd sa sb : SReg),
    exec (e.1 sd sa sb) s = putWord s sd (e.2 ((s.me.rs sa).truncate 32) ((s.me.rs sb).truncate 32))) ∧
  (∀ e ∈ fpc, ∀ (s : State) (sd sa sb : SReg),
    exec (e.1 sd sa sb) s = putBit s sd (e.2 ((s.me.rs sa).truncate 32) ((s.me.rs sb).truncate 32))) ∧
  (∀ (s : State) (sd sa : SReg), exec (.fsqrt sd sa) s = putWord s sd (f32Sqrt ((s.me.rs sa).truncate 32))) ∧
  (∀ (s : State) (sd sa : SReg),
    exec (.fcvtF32Si sd sa) s = putWord s sd (f32OfInt ((s.me.rs sa).truncate 32 : Word).toInt)) ∧
  (∀ (s : State) (sd sa : SReg),
    exec (.fcvtSiF32 sd sa) s =
      let r := convertSi (s.me.control slotSi) (readF32 ((s.me.rs sa).truncate 32))
      .next (s.setMe (((s.me.addFlags r.2).setS sd (r.1.signExtend 64)).past 1)))

/-- R97: a NaN operand makes `flt`, `feq` and `fle` false, and the first and the last set INV; `fmin` and `fmax` set no flag at all; dividing a
finite nonzero value by zero gives a signed infinity and DBZ, and 0 ÷ 0 the default NaN and INV. -/
def Sys2Proof.Claims.FloatSpecialCases : Prop :=
  (∀ a b : Word, IsNan a ∨ IsNan b → f32Lt a b = (false, 1) ∧ f32Eq a b = (false, 0) ∧ f32Le a b = (false, 1)) ∧
  (∀ a b : Word, (f32Min a b).2 = 0 ∧ (f32Max a b).2 = 0) ∧
  (∀ a b : Word, b.toNat % 2 ^ 31 = 0 → a.toNat / 2 ^ 23 % 256 ≠ 255 →
    (a.toNat % 2 ^ 31 = 0 → f32Div a b = (0x7FC00000, 1)) ∧
    (a.toNat % 2 ^ 31 ≠ 0 → f32Div a b = (if a.getLsbD 31 = b.getLsbD 31 then 0x7F800000 else 0xFF800000, 2))) ∧
  (∀ a : Word, a.getLsbD 31 = true → a.toNat % 2 ^ 31 ≠ 0 → a.toNat % 2 ^ 31 ≤ 0x7F800000 → f32Sqrt a = (0x7FC00000, 1)) ∧
  f32Sqrt 0x80000000 = (0x80000000, 0)

/-- R97: scalar F32, every instruction on every pair of words, and its special cases. -/
def Obligations.ScalarFloat : Prop := ScalarFloatResults ∧ FloatSpecialCases

namespace Sys2Proof.Claims

/-- A finite F32 word, subnormals and zeros among them (R58, R60). -/
def IsFinite (x : Word) : Prop := x.toNat / 2 ^ 23 % 256 ≠ 255

/-- The sign bit. -/
def signOf (x : Word) : Bool := x.getLsbD 31

/-- The value of a finite F32 word (R58). -/
noncomputable def value (x : Word) : ℝ :=
  let e := x.toNat / 2 ^ 23 % 256
  let m : ℝ := if e = 0 then (x.toNat % 2 ^ 23 : ℕ) else (2 ^ 23 + x.toNat % 2 ^ 23 : ℕ)
  (if signOf x then -1 else 1) * m * 2 ^ ((max e 1 : ℕ) : ℤ) / 2 ^ (150 : ℕ)

/-- `r` is a finite word nearest to the real number `x`; of two words equally near it is the one with an even fraction. -/
def Nearest (x : ℝ) (r : Word) : Prop :=
  IsFinite r ∧ ∀ q, IsFinite q → |value r - x| < |value q - x| ∨ (|value r - x| = |value q - x| ∧ (value q = value r ∨ r.toNat % 2 = 0))

/-- The correctly rounded F32 result of the exact real number `x` with its flags (R61, R68, R70): to nearest even, an infinity with OVF and INX
from half a unit above the largest finite value on, INX where the result differs from `x`, and UNF where `x` is tiny besides. An exact zero has
the sign `z`, any other result the sign of `x`. -/
def Rounds (x : ℝ) (z : Bool) (r : Fp) : Prop :=
  if 2 ^ (128 : ℕ) - 2 ^ (103 : ℕ) ≤ |x| then r = (if x < 0 then 0xFF800000 else 0x7F800000, 0x14)
  else Nearest x r.1 ∧ (x = 0 → signOf r.1 = z) ∧ (x < 0 → signOf r.1 = true) ∧ (0 < x → signOf r.1 = false) ∧
    (value r.1 = x → r.2 = 0) ∧ (value r.1 ≠ x → r.2 = if |x| < 1 / 2 ^ (126 : ℕ) then 0x18 else 0x10)

/-- An infinity by its sign. -/
def infinityOf (n : Bool) : Word := if n then 0xFF800000 else 0x7F800000

end Sys2Proof.Claims

/-- R60, R61 and R68 to R70: the F32 operations of R97, R121 and R122 on finite operands give the exact result rounded once, to nearest even,
with its flags, subnormals included; `f32OfInt` does so for an integer. -/
def Sys2Proof.Claims.FiniteRounding : Prop :=
  (∀ a b : Word, IsFinite a → IsFinite b →
    Rounds (value a + value b) (signOf a && signOf b) (f32Add a b) ∧
    Rounds (value a - value b) (signOf a && !signOf b) (f32Sub a b) ∧
    Rounds (value a * value b) (signOf a != signOf b) (f32Mul a b) ∧
    (value b ≠ 0 → Rounds (value a / value b) (signOf a != signOf b) (f32Div a b))) ∧
  (∀ a b c : Word, IsFinite a → IsFinite b → IsFinite c →
    Rounds (value a * value b + value c) ((signOf a != signOf b) && signOf c) (f32Fma false a b c) ∧
    Rounds (-(value a * value b) + value c) (!(signOf a != signOf b) && signOf c) (f32Fma true a b c)) ∧
  (∀ a : Word, IsFinite a → 0 ≤ value a → Rounds (Real.sqrt (value a)) (signOf a) (f32Sqrt a)) ∧
  (∀ i : Int, Rounds (i : ℝ) false (f32OfInt i))

/-- R59 and R61: a NaN operand gives the default NaN and no flag; what infinities give; `f32Min` and `f32Max` order −0 below +0 and take the operand
that is not a NaN. -/
def Sys2Proof.Claims.NanAndInfinity : Prop :=
  (∀ a b : Word, IsNan a ∨ IsNan b →
    f32Add a b = (0x7FC00000, 0) ∧ f32Sub a b = (0x7FC00000, 0) ∧ f32Mul a b = (0x7FC00000, 0) ∧ f32Div a b = (0x7FC00000, 0)) ∧
  (∀ a : Word, IsNan a → f32Sqrt a = (0x7FC00000, 0)) ∧
  (∀ n m : Bool,
    f32Add (infinityOf n) (infinityOf m) = (if n = m then (infinityOf n, 0) else (0x7FC00000, 1)) ∧
    f32Sub (infinityOf n) (infinityOf m) = (if n = m then (0x7FC00000, 1) else (infinityOf n, 0)) ∧
    f32Mul (infinityOf n) (infinityOf m) = (infinityOf (n != m), 0) ∧ f32Div (infinityOf n) (infinityOf m) = (0x7FC00000, 1)) ∧
  (∀ (n : Bool) (a : Word), IsFinite a →
    f32Add (infinityOf n) a = (infinityOf n, 0) ∧ f32Add a (infinityOf n) = (infinityOf n, 0) ∧
    f32Sub (infinityOf n) a = (infinityOf n, 0) ∧ f32Sub a (infinityOf n) = (infinityOf (!n), 0) ∧
    f32Mul (infinityOf n) a = (if value a = 0 then (0x7FC00000, 1) else (infinityOf (n != signOf a), 0)) ∧
    f32Mul a (infinityOf n) = f32Mul (infinityOf n) a ∧
    f32Div (infinityOf n) a = (infinityOf (n != signOf a), 0) ∧ f32Div a (infinityOf n) = (if n = signOf a then 0 else 0x80000000, 0)) ∧
  (∀ a b : Word, ¬ IsNan a →
    (IsNan b → (f32Min a b).1 = a ∧ (f32Min b a).1 = a ∧ (f32Max a b).1 = a ∧ (f32Max b a).1 = a) ∧
    (IsFinite a → IsFinite b →
      (f32Min a b).1 = (if value a < value b ∨ (value a = value b ∧ signOf a) then a else b) ∧
      (f32Max a b).1 = (if value a < value b ∨ (value a = value b ∧ signOf a) then b else a))) ∧
  (∀ a b : Word, IsNan a → IsNan b → (f32Min a b).1 = 0x7FC00000 ∧ (f32Max a b).1 = 0x7FC00000)

namespace Sys2Proof.Claims

/-- The value of an encoding without its sign, in a format with `ex` exponent and `fr` fraction bits (R58); past the largest finite encoding it
goes on as with an unbounded exponent, so that each number is the next one up on the grid of R68. -/
noncomputable def magnitude (ex fr n : Nat) : ℝ :=
  let e := n / 2 ^ fr
  ((if e = 0 then n % 2 ^ fr else 2 ^ fr + n % 2 ^ fr : ℕ) : ℝ) * 2 ^ max e 1 / 2 ^ (2 ^ (ex - 1) - 1 + fr)

/-- The formats of R58 below F32, with the widths of their exponent and fraction. -/
def narrowFormats : List (FloatFmt × Nat × Nat) := [(fmtBf16, 8, 7), (fmtF16, 5, 10), (fmtF8a, 4, 3), (fmtF8b, 5, 2)]

/-- Point `n` of the rising grid `g` is the one to which the magnitude `x` of a number of sign `neg` is rounded in `mode` (R67). -/
def Picks (mode : Rounding) (neg : Bool) (g : Nat → ℝ) (x : ℝ) (n : Nat) : Prop :=
  let toward := g n ≤ x ∧ x < g (n + 1)
  let away := x ≤ g n ∧ (n = 0 ∨ g (n - 1) < x)
  match mode with
  | .nearest => ∀ k, k ≠ n → |g n - x| < |g k - x| ∨ (|g n - x| = |g k - x| ∧ n % 2 = 0)
  | .zero => toward
  | .down => if neg then away else toward
  | .up => if neg then toward else away

end Sys2Proof.Claims

/-- R68: Convert to BF16, F16, F8A and F8B, with its flags, under every control. -/
def Sys2Proof.Claims.FloatConversions : Prop :=
  ∀ e ∈ narrowFormats, ∀ (c : Control) (a : Word),
    let top := (2 ^ e.2.1 - 1) * 2 ^ e.2.2
    let sign := if signOf a then 2 ^ (e.2.1 + e.2.2) else 0
    let g := magnitude e.2.1 e.2.2
    let r := convertFloat e.1 c (readF32 a)
    (IsNan a → r = if c.sat then (0, 1) else (top + 2 ^ (e.2.2 - 1), 0)) ∧
    (a = infinityOf (signOf a) → r = if c.sat then (sign + top - 1, 0x20) else (sign + top, 0)) ∧
    (IsFinite a → ∃ n, Picks c.mode (signOf a) g |value a| n ∧
      let fl : FpFlags := if g n = |value a| then 0 else if 0 < |value a| ∧ |value a| < g (2 ^ e.2.2) then 0x18 else 0x10
      r = if n < top then (sign + n, fl) else if c.sat then (sign + top - 1, fl ||| 0x30) else (sign + top, fl ||| 0x14))

/-- R68: Convert to SI and UI: the value rounded to an integer in the mode, clamped or replaced by the sentinel outside the range; and to I8, from
an SI value. -/
def Sys2Proof.Claims.IntegerConversions : Prop :=
  (∀ e ∈ [(convertSi, (-(2 ^ 31) : Int), (2 ^ 31 - 1 : Int), (0x80000000 : Word)), (convertUi, 0, 2 ^ 32 - 1, 0)], ∀ (c : Control) (a : Word),
    let r := e.1 c (readF32 a)
    (IsNan a → r = (if c.sat then 0 else e.2.2.2, 1)) ∧
    (a = infinityOf (signOf a) → r = if c.sat then (BitVec.ofInt 32 (if signOf a then e.2.1 else e.2.2.1), 0x20) else (e.2.2.2, 1)) ∧
    (IsFinite a → ∃ n : Nat, Picks c.mode (signOf a) (fun k => (k : ℝ)) |value a| n ∧
      let y : Int := if signOf a then -n else n
      r = if y < e.2.1 ∨ e.2.2.1 < y then
          (if c.sat then (BitVec.ofInt 32 (max e.2.1 (min y e.2.2.1)), 0x20) else (e.2.2.2, 1))
        else (BitVec.ofInt 32 y, if (n : ℝ) = |value a| then 0 else 0x10))) ∧
  (∀ (c : Control) (x : Word), convertI8 c x =
    if c.sat = true ∧ x.toInt < -128 then (0x80, 0x20) else if c.sat = true ∧ 127 < x.toInt then (0x7F, 0x20) else (x.toNat % 256, 0))

/-- R69: widening is exact; the default NaN and the infinities of F32 stand for those of the format. -/
def Sys2Proof.Claims.Widening : Prop :=
  ∀ e ∈ narrowFormats, ∀ x : Nat,
    let n := x % 2 ^ (e.2.1 + e.2.2)
    let top := (2 ^ e.2.1 - 1) * 2 ^ e.2.2
    let sign := decide (x / 2 ^ (e.2.1 + e.2.2) % 2 = 1)
    let r := widen e.1 x
    (top < n → r = 0x7FC00000) ∧ (n = top → r = infinityOf sign) ∧
    (n < top → IsFinite r ∧ signOf r = sign ∧ |value r| = magnitude e.2.1 e.2.2 n)

/-- R121: rounding to an integral value, and the fraction. -/
def Sys2Proof.Claims.IntegralValues : Prop :=
  (∀ (mode : Rounding) (a : Word),
    let r := f32Integral mode a
    (IsNan a → r = (0x7FC00000, 0)) ∧ (a = infinityOf (signOf a) → r = (a, 0)) ∧
    (IsFinite a → IsFinite r.1 ∧ signOf r.1 = signOf a ∧ r.2 = 0 ∧
      ∃ n : Nat, Picks mode (signOf a) (fun k => (k : ℝ)) |value a| n ∧ |value r.1| = n)) ∧
  (∀ a : Word,
    (IsNan a → f32Fract a = (0x7FC00000, 0)) ∧ (a = infinityOf (signOf a) → f32Fract a = (0x7FC00000, 1)) ∧
    (IsFinite a → Rounds (value a - ⌊value a⌋) false (f32Fract a)))

/-- R59 to R61, R68 to R70 and R121: F32 arithmetic and the conversions are correctly rounded, in terms of the real numbers that the words
stand for. -/
def Obligations.FloatRounding : Prop :=
  FiniteRounding ∧ NanAndInfinity ∧ FloatConversions ∧ IntegerConversions ∧ Widening ∧ IntegralValues

/-! ## Scalar loads and stores (R84 to R86) -/

namespace Sys2Proof.Claims

/-- The bytes of an access size (R84). -/
def width : Size → Nat
  | .b | .bu => 1
  | .h | .hu => 2
  | .w | .wu => 4
  | .d => 8

/-- o = s[sa] + off × n, wrapping (R84). -/
def offsetOf (w : Wave) (sa : SReg) (off : BitVec 7) (sz : Size) : Nat := ((w.rs sa).toNat + off.toNat * width sz) % 2 ^ 64

/-- The loaded bytes as a register value: signed for b, h and w (R84). -/
def loaded (sz : Size) (bs : List Byte) : DWord :=
  let n := 8 * width sz
  let x := leNat bs % 2 ^ n
  if sz = .b ∨ sz = .h ∨ sz = .w then BitVec.ofInt 64 (if 2 ^ (n - 1) ≤ x then (x : Int) - 2 ^ n else x)
  else BitVec.ofNat 64 (leNat bs)

/-- Every byte of every memory reads the same in two states: device physical memory under every key, the host's memory, die memory and
the scratchpads. -/
def SameMemory (s t : State) : Prop :=
  (∀ key a, t.physByte key a = s.physByte key a) ∧ (∀ a, memRead t.host a = memRead s.host a) ∧
  (∀ d a, memRead (t.die d).mem a = memRead (s.die d).mem a) ∧ ∀ d q a, (t.quad d q).byte a = (s.quad d q).byte a

/-- The waves other than the issuing one are as they were. -/
def SameOthers (s t : State) : Prop := t.cur = s.cur ∧ ∀ n, n ≠ s.cur → t.wave n = s.wave n

/-- The address in die memory of offset `o` of the wave's .d segment, and of offset `o` of its .q segment in the scratchpad (R164, R169). -/
def dieAddr (w : Wave) (o : Nat) : Nat := w.seg.d.base.toNat + o
def quadAddr (w : Wave) (o : Nat) : Nat := w.seg.q.base.toNat + o

/-- Bytes as the lanes `m` of a wave see them: with the late stores that all of these lanes have made laid over them, where the wave has any
(R199). -/
def laneSees (w : Wave) (m : BitVec 64) (p : Place) (bs : List Byte) : List Byte := if w.late = [] then bs else w.withLate m p bs

/-- No late store of the wave stands before a load of `n` bytes at `p` by the lanes `m` (R189, R191; log entry 8). -/
def nonePending (w : Wave) (m : BitVec 64) (p : Place) (n : Nat) : Bool := w.late.all (fun x => !x.blocks m (p, n))

/-- No late store of the wave has been seen by a load: an acquire then performs none of them (R201; log entry 8). -/
def noneSeen (w : Wave) : Bool := w.late.all (fun x => !x.seen)

/-- Of the waves the issuing one alone differs, and in no more than what it keeps of its late stores and late loads. -/
def SameWave (s t : State) : Prop := t.me = { s.me with late := t.me.late, loads := t.me.loads } ∧ SameOthers s t

/-- The state once the late stores of the issuing wave are performed (R199): a store is performed at once or later, as the hardware chooses
(log entry 8), and this is the state that it leaves either way. -/
def settled (s : State) : State := s.performLate s.cur s.me.late.length

end Sys2Proof.Claims

/-- R84 and R85: a load whose offset is aligned and in range, and whose access is not refused by the page, an interlock entry or poison,
completes in every space: s[sd] takes the bytes, sign- or zero-extended, and the run goes on; the state `s1` is the one after the access, and no
byte of any memory differs in it; of the wave it differs in what is kept of the late stores and loads of R199 (log entries 8 and 89). -/
def Obligations.LoadCompletes : Prop :=
  ∀ (s s1 : State) (bs : List Byte) (sd sa : SReg) (sp : Space) (sz : Size) (off : BitVec 7),
    offsetOf s.me sa off sz % width sz = 0 →
    offsetOf s.me sa off sz + width sz ≤ (s.me.segment sp).limit.toNat →
    s.loadAt s.me sp s.me.run.mask 0 (offsetOf s.me sa off sz) (width sz) = .ok (s1, bs) →
    exec (.ld sd sa sp sz off) s = .next (s1.setMe ((s1.me.setS sd (loaded sz bs)).past 1)) ∧
    SameWave s s1 ∧ SameMemory s s1

/-- R84 in die memory and in the scratchpad: with no interlock entry, no poison and no late store before it there, the loaded bytes are those that
the memory holds at the segment's base plus the offset, least significant first, with the late stores of the run's own lanes laid over them
(R199); where the wave has no late store, they are the memory's bytes, and where it has no late load besides, nothing else of the state differs. -/
def Obligations.LoadReadsMemory : Prop :=
  ∀ (s : State) (sd sa : SReg) (sz : Size) (off : BitVec 7),
    let o := offsetOf s.me sa off sz
    let n := width sz
    let d := (s.gang s.me.id.gang).segDie
    let c := s.me.id.place
    let m := s.me.run.mask
    let reads (sp : Space) (p : Place) (byte : Nat → Byte) : Prop :=
      ∃ t, exec (.ld sd sa sp sz off) s =
          .next (t.setMe ((t.me.setS sd (loaded sz (laneSees s.me m p ((List.range n).map byte)))).past 1)) ∧
        SameWave s t ∧ t = { s with waves := t.waves } ∧ (s.me.late = [] → s.me.loads = [] → t = s)
    o % n = 0 → s.me.locks = [] →
    (o + n ≤ s.me.seg.d.limit.toNat → (s.die d).poisoned (dieAddr s.me o) n = false → nonePending s.me m (.die d (dieAddr s.me o)) n = true →
      reads .d (.die d (dieAddr s.me o)) (fun i => memRead (s.die d).mem (dieAddr s.me o + i))) ∧
    (o + n ≤ s.me.seg.q.limit.toNat → (s.quad c.die c.quad).poisoned (quadAddr s.me o) n = false →
      nonePending s.me m (.scratch c.die c.quad (quadAddr s.me o)) n = true →
      reads .q (.scratch c.die c.quad (quadAddr s.me o)) (fun i => (s.quad c.die c.quad).byte (quadAddr s.me o + i)))

/-- R85: MISALIGNED comes before SEGMENT, in every space, for a load and for a store alike; %tinfo holds the offset with the space code in bits
63 to 61. -/
def Obligations.AccessTraps : Prop :=
  ∀ (s : State) (sd sa : SReg) (sp : Space) (sz : Size) (off : BitVec 7),
    let o := offsetOf s.me sa off sz
    let info : DWord := BitVec.ofNat 64 (o % 2 ^ 61 + spaceCode sp * 2 ^ 61)
    (o % width sz ≠ 0 →
      exec (.ld sd sa sp sz off) s = .next (s.trapAt s.cur 0x04 info s.me.run.pc) ∧
      exec (.st sd sa sp sz off) s = .next (s.trapAt s.cur 0x04 info s.me.run.pc)) ∧
    (o % width sz = 0 → (s.me.segment sp).limit.toNat < o + width sz →
      exec (.ld sd sa sp sz off) s = .next (s.trapAt s.cur 0x05 info s.me.run.pc) ∧
      exec (.st sd sa sp sz off) s = .next (s.trapAt s.cur 0x05 info s.me.run.pc))

/-- R84: a store completes in every space that its access reaches: the state is the one that the access leaves, with the gang's .q high-water
mark raised (R320), and the run goes on; of the wave nothing but its late stores and loads and its run changes. -/
def Obligations.StoreCompletes : Prop :=
  ∀ (s s1 : State) (sd sa : SReg) (sp : Space) (sz : Size) (off : BitVec 7),
    let o := offsetOf s.me sa off sz
    o % width sz = 0 → o + width sz ≤ (s.me.segment sp).limit.toNat →
    s.storeAt s.me sp s.me.run.mask 0 o (bytesOfNat (width sz) (s.me.rs sd).toNat) = .ok s1 →
    exec (.st sd sa sp sz off) s = .next ((s1.mark s.me sp (o + width sz)).setMe (s1.me.past 1)) ∧ SameWave s s1

/-- R84 and R169 in die memory, with the frame: once the store is performed, the n bytes from the segment's base plus the offset are the low
bytes of s[sd]; every other byte of die memory, and every byte of every other memory, reads as before, in the next state and in the one with
the store performed; the wave changes in its run, and in which late loads it keeps, only. -/
def Sys2Proof.Claims.StoreWritesDieMemory : Prop :=
  ∀ (s : State) (sd sa : SReg) (sz : Size) (off : BitVec 7),
    let o := offsetOf s.me sa off sz
    let n := width sz
    let d := (s.gang s.me.id.gang).segDie
    let x := dieAddr s.me o
    o % n = 0 → o + n ≤ s.me.seg.d.limit.toNat → s.me.locks = [] → s.me.late = [] → (s.die d).poisoned x n = false →
    Mem.wf (s.die d).mem = true →
    ∃ t, exec (.st sd sa .d sz off) s = .next t ∧ (settled t).me = { s.me.past 1 with loads := t.me.loads } ∧
      (∀ i, i < n → memRead ((settled t).die d).mem (x + i) = BitVec.ofNat 8 ((s.me.rs sd).toNat / 2 ^ (8 * i))) ∧
      ∀ u, u = t ∨ u = settled t →
        SameOthers s u ∧ u.me = { s.me.past 1 with late := u.me.late, loads := t.me.loads } ∧
        (∀ e a, ¬ (e = d ∧ x ≤ a ∧ a < x + n) → memRead (u.die e).mem a = memRead (s.die e).mem a) ∧
        (∀ key a, u.physByte key a = s.physByte key a) ∧ u.host = s.host ∧ u.quads = s.quads ∧ u.gangs = s.gangs

/-- R166 and R84 in the scratchpad, with the frame: once the store is performed, the bytes stored read back; every other byte of the scratchpad
reads as before (a clean block read 0 and still does), and so does every byte of every other memory. -/
def Sys2Proof.Claims.StoreWritesScratchpad : Prop :=
  ∀ (s : State) (sd sa : SReg) (sz : Size) (off : BitVec 7),
    let o := offsetOf s.me sa off sz
    let n := width sz
    let c := s.me.id.place
    let x := quadAddr s.me o
    o % n = 0 → o + n ≤ s.me.seg.q.limit.toNat → s.me.locks = [] → s.me.late = [] → (s.quad c.die c.quad).poison = [] →
    Mem.wf (s.quad c.die c.quad).scratch = true →
    ∃ t, exec (.st sd sa .q sz off) s = .next t ∧ (settled t).me = { s.me.past 1 with loads := t.me.loads } ∧
      (∀ i, i < n → ((settled t).quad c.die c.quad).byte (x + i) = BitVec.ofNat 8 ((s.me.rs sd).toNat / 2 ^ (8 * i))) ∧
      ∀ u, u = t ∨ u = settled t →
        SameOthers s u ∧ u.me = { s.me.past 1 with late := u.me.late, loads := t.me.loads } ∧
        (∀ e q a, ¬ (e = c.die ∧ q = c.quad ∧ x ≤ a ∧ a < x + n) → (u.quad e q).byte a = (s.quad e q).byte a) ∧
        (∀ key a, u.physByte key a = s.physByte key a) ∧ u.host = s.host ∧ u.dies = s.dies

/-- R84, R166 and R169: what a store writes in die memory and in the scratchpad, and what it leaves alone. -/
def Obligations.StoreWritesMemory : Prop := StoreWritesDieMemory ∧ StoreWritesScratchpad

/-! ## Special registers (R23, R37, R91, R312) -/

namespace Sys2Proof.Claims

/-- The numbers of R37 by their access. -/
def roNumbers : List Nat :=
  [0x000, 0x001, 0x010, 0x011, 0x012, 0x013, 0x014, 0x015, 0x016, 0x01A, 0x030, 0x031, 0x032, 0x033, 0x034, 0x035, 0x036, 0x037] ++
  [0x038, 0x039, 0x03A, 0x03B, 0x03C, 0x03D, 0x03E]

def rwNumbers : List Nat :=
  [0x002, 0x003, 0x004, 0x005, 0x008, 0x009, 0x00A, 0x00B, 0x017, 0x018, 0x019, 0x01B, 0x01C, 0x01D, 0x01E, 0x01F, 0x020, 0x045]

/-- %lfm and %pmask: a bit written as 1 is cleared. -/
def w1cNumbers : List Nat := [0x006, 0x007]

def handlerNumbers : List Nat := [0x041, 0x042, 0x043, 0x044]

def mtsrpNumbers : List Nat := [0x040, 0x046]

def allNumbers : List Nat := roNumbers ++ rwNumbers ++ w1cNumbers ++ handlerNumbers ++ mtsrpNumbers

/-- The width of a register that software writes. -/
def srWidth (n : Nat) : Nat :=
  if n = 0x002 then 16 else if n = 0x003 then 3 else if n = 0x004 then 24 else if n = 0x005 then 6
  else if n = 0x01B then 48 else if n = 0x01E ∨ n = 0x020 ∨ n = 0x045 ∨ n = 0x046 then 32 else if n = 0x041 then 8 else 64

/-- Trap `cause` at the running word, with the word in %tinfo. -/
def trapsWith (s : State) (cause : BitVec 8) : Out := .next (s.trapAt s.cur cause (s.ir.zeroExtend 64) s.me.run.pc)

end Sys2Proof.Claims

/-- R37 and R91: `mfsr` answers every number of R37's table, and no other: it writes s[sd] with the register and changes nothing else; a
number that names no register raises ILLEGAL_OP under `mfsr`, `mtsr` and `mtsrp` alike. -/
def Sys2Proof.Claims.SpecialRegisterValues : Prop :=
  ∀ (s : State) (sd sa : SReg) (num : BitVec 10),
    (num.toNat ∈ allNumbers →
      ∃ x, s.readSr s.me num = some x ∧ exec (.mfsr sd num) s = .next (s.setMe ((s.me.setS sd x).past 1))) ∧
    (num.toNat ∉ allNumbers →
      exec (.mfsr sd num) s = trapsWith s 0x01 ∧ exec (.mtsr sa num) s = trapsWith s 0x01 ∧ exec (.mtsrp sa num) s = trapsWith s 0x01)

namespace Sys2Proof.Claims

/-- The logarithm that %tlim shows of a limit, 0 where it lies below the quantum (R242). -/
def tlimLog (q x : Nat) : Nat := if x < q then 0 else x.log2

/-- The read-only registers of R37 by the fields of their maps: R107, R145, R242, R296, R309 and R347. -/
def readOnlyFields (s : State) : List (Nat × Nat) :=
  let w := s.me
  let fm := w.sr.gf.toNat
  let lim (d : Dim) : Nat := tlimLog (quantum fm d) (s.cap w fm d)
  [(0x000, w.sr.vl.toNat), (0x001, 16 * laneGroups (s.core w.id.place)),
   (0x010, w.sr.gm.toNat), (0x011, w.sr.gn.toNat), (0x012, w.sr.gk.toNat), (0x013, w.sr.gf.toNat),
   (0x014, w.sr.vm.toNat), (0x015, w.sr.vn.toNat), (0x016, w.sr.vk.toNat),
   (0x01A, (if (s.core w.id.place).half then 2 ^ 12 else 0) + lim .k * 2 ^ 8 + lim .n * 2 ^ 4 + lim .m)] ++
  [(0x030, w.id.wave.val), (0x031, w.id.role.val), (0x032, w.id.wg.val), (0x033, w.id.task.toNat), (0x034, w.id.place.core.val),
   (0x035, w.id.quad.val), (0x036, w.id.die.val), (0x037, if w.id.place.core.val < 2 then 0 else 1), (0x038, w.id.asid.toNat)] ++
  [(0x039, (if w.id.priv then 2 ^ 8 else 0) + 3 * 2 ^ 4 + w.id.eff.toNat), (0x03A, s.time), (0x03B, w.sr.rdep.toNat),
   (0x03C, w.id.depth.toNat), (0x03D, w.id.part.val), (0x03E, (s.partn w.id.part).cfg.topoVa % 2 ^ 48)]

end Sys2Proof.Claims

/-- R37 with R107, R145, R242, R296, R309 and R347: what `mfsr` reads of each read-only register, field by field. -/
def Sys2Proof.Claims.ReadOnlyRegisters : Prop :=
  ∀ (s : State), (readOnlyFields s).map (fun e => e.1) = roNumbers ∧
    ∀ (sd : SReg) (num : BitVec 10), ∀ e ∈ readOnlyFields s, num.toNat = e.1 →
      exec (.mfsr sd num) s = .next (s.setMe ((s.me.setS sd (BitVec.ofNat 64 e.2)).past 1))

/-- R23: who may write what. `mtsr` to a register marked ro raises ILLEGAL_OP; to %thb or %gwarn, and in normal mode to a trap register,
PRIVILEGED. -/
def Sys2Proof.Claims.SpecialRegisterGuards : Prop :=
  ∀ (s : State) (sa : SReg) (num : BitVec 10),
    (num.toNat ∈ roNumbers → exec (.mtsr sa num) s = trapsWith s 0x01 ∧ exec (.mtsrp sa num) s = trapsWith s 0x01) ∧
    (num.toNat ∈ mtsrpNumbers → exec (.mtsr sa num) s = trapsWith s 0x03) ∧
    (num.toNat ∈ handlerNumbers → s.me.mode = .normal → exec (.mtsr sa num) s = trapsWith s 0x03) ∧
    (num.toNat ∈ rwNumbers ++ w1cNumbers ++ handlerNumbers ++ mtsrpNumbers → s.me.id.priv = false →
      exec (.mtsrp sa num) s = trapsWith s 0x03)

/-- R23, R37 and R91: which special registers can be read, and who may write which. -/
def Obligations.SpecialRegisterReads : Prop := SpecialRegisterValues ∧ ReadOnlyRegisters ∧ SpecialRegisterGuards

/-- R23, R24 and R312: an allowed write completes; the register then reads as the low bits of s[sa] that it holds, or, for %lfm and %pmask, as
before with the bits written as 1 cleared; no scalar register, no lane, no other wave and no memory changes. -/
def Obligations.SpecialRegisterWrites : Prop :=
  ∀ (s : State) (sa : SReg) (num : BitVec 10) (i : Instr),
    (i = .mtsr sa num ∧ (num.toNat ∈ rwNumbers ++ w1cNumbers ∨ (num.toNat ∈ handlerNumbers ∧ s.me.mode = .handler))) ∨
    (i = .mtsrp sa num ∧ s.me.id.priv = true ∧ num.toNat ∈ rwNumbers ++ w1cNumbers ++ handlerNumbers ++ mtsrpNumbers) →
    ∃ t, exec i s = .next t ∧ SameOthers s t ∧ SameMemory s t ∧ t.me.s = s.me.s ∧ t.me.v = s.me.v ∧ t.me.k = s.me.k ∧
      t.me.run = s.me.run.past 1 ∧ t.me.mode = s.me.mode ∧
      (num.toNat ∉ w1cNumbers → t.readSr t.me num = some (BitVec.ofNat 64 ((s.me.rs sa).toNat % 2 ^ srWidth num.toNat))) ∧
      (num.toNat ∈ w1cNumbers → ∃ x, s.readSr s.me num = some x ∧ t.readSr t.me num = some (x &&& ~~~(s.me.rs sa))) ∧
      ∀ m : BitVec 10, m ≠ num → t.readSr t.me m = s.readSr s.me m

/-! ## Vector length, grants and `strip` (R106, R239, R243, R244, R267) -/

namespace Sys2Proof.Claims

/-- The wave may execute a wave-wide word that is forbidden in a walk (R104, R290). -/
def waveWide (s : State) (profile : Nat) : Prop :=
  profile ≤ s.me.id.eff.toNat ∧ s.me.run.kind ≠ .walk ∧ s.me.rest = []

/-- Grant(d) of R239 for request `r` under the cap `cap` and the quantum `q`: nothing for no request, else the largest class that is at most
the rounded request and the cap. -/
def grantOf (q cap r : Nat) : Nat :=
  if r = 0 then 0
  else (([8, 16, 32, 64, 128, 256].filter (fun c => decide (q ≤ c) && decide (c ≤ min ((r + q - 1) / q * q) cap))).foldl max 0)

/-- Profile 2, or 3 for the block formats (R310). -/
def tileProfile (fm : Fm) : Nat := if fm = .bi8pw2 ∨ fm = .bi8 then 3 else 2

end Sys2Proof.Claims

/-- R106: `setvl` grants min(s[sa] + n, %vlmax); %vl, the entry's mask and s[sd] follow, and nothing else changes. -/
def Sys2Proof.Claims.SetVectorLength : Prop :=
  ∀ (s : State) (sd sa : SReg) (n : BitVec 10), waveWide s 1 →
    let g := min (((s.me.rs sa).toNat + n.toNat) % 2 ^ 64) (16 * laneGroups (s.core s.me.id.place))
    ∃ t, exec (.setvl sd sa n) s = .next (s.setMe t) ∧ t.sr.vl.toNat = g ∧
      (∀ l : Lane, t.run.mask.getLsbD l.val = (decide (l.val < g) && !s.me.sr.lfm.getLsbD l.val)) ∧
      (sd ≠ 0 → t.rs sd = BitVec.ofNat 64 g) ∧ (∀ r, r ≠ sd → t.rs r = s.me.rs r) ∧
      t = { s.me with s := t.s, sr := { s.me.sr with vl := t.sr.vl }, run := { s.me.run.past 1 with mask := t.run.mask } }

/-- R239 and R243: on a core where the format is grantable, `tset` sets %gf, the three requests, the grants of R239 and the valid counts;
elsewhere it raises TILE_OPERAND with reason 1. `tquery` writes the grants that `tset` would give, or 0, and changes nothing else (R244). -/
def Obligations.TileGrants : Prop :=
  ∀ (s : State) (sa sb sc : SReg) (fm : Fm),
    let w := s.me
    let g (d : Dim) (r : SReg) : Nat := grantOf (quantum (fmCode fm) d) (s.cap w (fmCode fm) d) (w.rs r).toNat
    (waveWide s (tileProfile fm) → s.grantable w (fmCode fm) = true →
      ∃ t : Wave, exec (.tset sa sb sc fm) s = .next (s.setMe (t.past 1)) ∧ t = { w with sr := t.sr } ∧
        t.sr = { w.sr with gf := t.sr.gf, reqM := w.rs sa, reqN := w.rs sb, reqK := w.rs sc, gm := t.sr.gm, gn := t.sr.gn,
                           gk := t.sr.gk, vm := t.sr.vm, vn := t.sr.vn, vk := t.sr.vk } ∧
        t.sr.gf.toNat = fmCode fm ∧ t.sr.gm.toNat = g .m sa ∧ t.sr.gn.toNat = g .n sb ∧ t.sr.gk.toNat = g .k sc ∧
        t.sr.vm.toNat = min (w.rs sa).toNat (g .m sa) ∧ t.sr.vn.toNat = min (w.rs sb).toNat (g .n sb) ∧
        t.sr.vk.toNat = min (w.rs sc).toNat (g .k sc)) ∧
    (waveWide s (tileProfile fm) → s.grantable w (fmCode fm) = false →
      exec (.tset sa sb sc fm) s = .next (s.trapAt s.cur 0x10 1 w.run.pc)) ∧
    (tileProfile fm ≤ w.id.eff.toNat →
      let h (d : Dim) (r : SReg) : DWord := if s.grantable w (fmCode fm) then BitVec.ofNat 64 (g d r) else 0
      exec (.tquery sa sb sc fm) s =
        .next (s.setMe ((((w.setS sa (h .m sa)).setS sb (h .n sb)).setS sc (h .k sc)).past 1)))

namespace Sys2Proof.Claims

/-- The granted length of a dimension that is in force (R267). -/
def inForce (r : Special) : Dim → Nat
  | .vl => r.vl.toNat
  | .m => r.gm.toNat
  | .n => r.gn.toNat
  | .k => r.gk.toNat

/-- The special registers after `strip` with the new count `c`: a new grant and valid count of its dimension, and nothing else. -/
def stripped (s : State) (d : Dim) (c : DWord) (t : Special) : Prop :=
  let w := s.me
  let g := grantOf (quantum w.sr.gf.toNat d) (s.cap w w.sr.gf.toNat d) c.toNat
  match d with
  | .vl => t.vl.toNat = min c.toNat (16 * laneGroups (s.core w.id.place)) ∧ t = { w.sr with vl := t.vl }
  | .m => t.gm.toNat = g ∧ t.vm.toNat = min c.toNat g ∧ t = { w.sr with reqM := c, gm := t.gm, vm := t.vm }
  | .n => t.gn.toNat = g ∧ t.vn.toNat = min c.toNat g ∧ t = { w.sr with reqN := c, gn := t.gn, vn := t.vn }
  | .k => t.gk.toNat = g ∧ t.vk.toNat = min c.toNat g ∧ t = { w.sr with reqK := c, gk := t.gk, vk := t.vk }

end Sys2Proof.Claims

/-- R267: `strip` in every dimension and with up to four pointers. rem = s[sr] − g goes to s[sr] (and is discarded for s0), each pointer register
moves by g × %st_i, a new grant is made for what is left, and the loop goes back only while something is left and g was not 0. On a core where
the format of %gf is not grantable, `strip` of a tile dimension raises TILE_OPERAND with reason 1 instead. -/
def Sys2Proof.Claims.Strip : Prop :=
  ∀ (s : State) (sr pb : SReg) (np : Fin 8) (d : Dim) (off : BitVec 8),
    waveWide s (if d = .vl then 1 else 2) → np.val ≤ 4 → pb.val + np.val ≤ 64 →
    (d ≠ .vl → s.grantable s.me s.me.sr.gf.toNat = false →
      exec (.strip sr pb np d off) s = .next (s.trapAt s.cur 0x10 1 s.me.run.pc)) ∧
    (d = .vl ∨ s.grantable s.me s.me.sr.gf.toNat = true →
      let g := inForce s.me.sr d
      let rem : DWord := s.me.rs sr - BitVec.ofNat 64 g
      let c : DWord := if 0 < rem.toInt then rem else 0
      let back := 0 < rem.toInt ∧ g ≠ 0
      ∃ t, exec (.strip sr pb np d off) s = .next (s.setMe t) ∧ stripped s d c t.sr ∧
        (∀ r, r ≠ 0 → t.rs r = (if r = sr then rem else s.me.rs r) +
          (if pb.val ≤ r.val ∧ r.val < pb.val + np.val then BitVec.ofNat 64 g * s.me.sr.st[Fin.ofNat 4 (r.val - pb.val)] else 0)) ∧
        (d = .vl → ∀ l : Lane, t.run.mask.getLsbD l.val = (decide (l.val < t.sr.vl.toNat) && !s.me.sr.lfm.getLsbD l.val)) ∧
        (d ≠ .vl → t.run.mask = s.me.run.mask) ∧
        t.run = { (if back then s.me.run.to (packetTarget s.me off.toInt) else s.me.run.past 1) with mask := t.run.mask } ∧
        t = { s.me with s := t.s, sr := t.sr, run := t.run })

/-- R106 and R267: the vector length by `setvl`, and strip mining in all four dimensions. -/
def Obligations.VectorLength : Prop := SetVectorLength ∧ Strip

/-! ## Traps, `iret` and the system instructions (R26 to R28, R92 to R96) -/

/-- R26 by `trap n`: in normal mode with a handler, the trap registers take cause 0x80, n, the address of the word and the lanes of the run;
the mode becomes handler, and the lanes go to %thb. No scalar register, lane or other wave changes. -/
def Sys2Proof.Claims.TrapDelivered : Prop :=
  ∀ (s : State) (n : BitVec 10), s.me.mode = .normal → s.me.sr.thb ≠ 0 →
    ∃ t, exec (.trap n) s = .next t ∧ SameOthers s t ∧ t.me.mode = .handler ∧
      t.me.sr = { s.me.sr with tcause := 0x80, tinfo := n.zeroExtend 64, tpc := s.me.run.pc, tmask := s.me.run.mask } ∧
      t.me.run = { s.me.run with pc := s.me.sr.thb, kind := .handler, wait := none, buf := none, tied := false } ∧
      t.me = { s.me with mode := t.me.mode, sr := t.me.sr, run := t.me.run }

/-- R28 and R333: a trap in handler mode, or without a handler, is not delivered: the wave stops, no trap register changes, and the event
decides for the gang unless an earlier one has: under policy 0 the gang begins to be frozen for the host, unless it has begun to be, under policy
1 or 2 it is being killed. -/
def Sys2Proof.Claims.TrapUndelivered : Prop :=
  ∀ (s : State) (n : BitVec 10), s.me.mode = .handler ∨ s.me.sr.thb = 0 → s.me.live = true → s.me.wait = .none →
    ∃ t, exec (.trap n) s = .next t ∧ t.me.wait = .stopped ∧ t.me.sr = s.me.sr ∧ t.me.mode = s.me.mode ∧ t.me.run.pc = s.me.run.pc ∧
      (let g := s.gang s.me.id.gang
       g.live = true → g.contain = none → g.kill = none →
        (t.gang s.me.id.gang).contain = some 0x180 ∧
        (s.policyOf g = 0 → (t.gang s.me.id.gang).halt = if g.halt.isSome then g.halt else some 0x180) ∧
        (s.policyOf g ≠ 0 → (t.gang s.me.id.gang).kill = some (0x180, BitVec.ofNat 8 (s.policyOf g))))

/-- R27: `iret` in handler mode takes the run back to %tpc, in a new tie group, and the mode is normal again when no handler entry is left;
outside handler mode and without privilege it raises PRIVILEGED. -/
def Obligations.TrapReturn : Prop :=
  ∀ (s : State),
    (s.me.mode = .handler ∨ s.me.id.priv = true →
      ∃ t, exec .iret s = .next (s.setMe t) ∧ t.run.pc = s.me.sr.tpc ∧ t.run.tied = false ∧ t.run.buf = none ∧
        t.run.mask = s.me.run.mask ∧ (s.me.run.kind = .handler → t.run.kind ≠ .handler) ∧
        (s.me.rest.all (fun e => e.kind ≠ .handler) = true → t.mode = .normal) ∧ t = { s.me with run := t.run, mode := t.mode }) ∧
    (s.me.mode = .normal → s.me.id.priv = false → exec .iret s = trapsWith s 0x03)

namespace Sys2Proof.Claims

/-- No quiescent point of the wave has to wait (R302): no grace holds it, or its read depth is not 0, or nothing of it is under way. -/
def mayQuiet (s : State) : Prop :=
  s.graceHolds s.cur = true → s.me.sr.rdep = 0 → s.me.locks = [] ∧ s.storesDone s.cur = true

/-- Entry `e` stands at the PC of the run of `w` and is of its kind: the two are one entry once they meet (R98, R101). -/
def meetsRun (w : Wave) (e : Entry) : Bool := decide (e.pc = w.run.pc ∧ e.kind = w.run.kind)

end Sys2Proof.Claims

/-- R93 to R96: `yield` goes on at the next word, and its wave goes to the back of its core's round robin; `sleep` with a count of 0 does too, and otherwise waits for its deadline; `hcall`, once the
wave's stores are performed, sends its number, argument, task and wave, and waits for the reply. -/
def Sys2Proof.Claims.SystemWords : Prop :=
  (∀ s : State,
    let c := s.me.id.place
    let i := s.me.id.slot.val
    exec .yield s = .next ((s.setCore c { s.core c with order := (s.core c).order.filter (· ≠ i) ++ [i] }).setMe (s.me.past 1))) ∧
  (∀ (s : State) (sa : SReg) (n : BitVec 10), ((s.me.rs sa).toNat + n.toNat) % 2 ^ 32 = 0 →
    exec (.sleep sa n) s = .next (s.setMe (s.me.past 1))) ∧
  (∀ (s : State) (sa : SReg) (n : BitVec 10), ((s.me.rs sa).toNat + n.toNat) % 2 ^ 32 ≠ 0 → mayQuiet s →
    ∃ t, exec (.sleep sa n) s = .next t ∧ SameOthers s t ∧ SameMemory s t ∧
      t.me = { s.me.past 1 with wait := .sleep (s.time + ((s.me.rs sa).toNat + n.toNat) % 2 ^ 32) }) ∧
  (∀ (s : State) (sd sa : SReg) (n : BitVec 10), s.storesDone s.cur = true → mayQuiet s →
    ∃ t, exec (.hcall sd sa n) s = .next t ∧ SameOthers s t ∧ SameMemory s t ∧ t.me = { s.me with wait := .hcall sd } ∧
      t.outbox = s.outbox ++ [.hcall n.toNat (s.me.rs sa) s.me.id.task s.cur])

/-- R93 and R96: HCALL_REPLY brings the reply of an `hcall` with an acquire, and the wave goes on at the next word, where its run joins an entry
that stands there (R101); at a deadline that has come SLEEP_DEADLINE lets the wave go on; for a wave that does not wait so, neither does
anything. -/
def Sys2Proof.Claims.SystemEvents : Prop :=
  (∀ (s : State) (n : Nat) (sd : SReg) (x : DWord), (s.wave n).live = true → (s.wave n).wait = .hcall sd → noneSeen (s.wave n) = true →
    let w := ((s.wave n).setS sd x).past 1
    ∃ t, exec (.hcallReply n x) s = .next t ∧ (t.core w.id.place).l1 = [] ∧ SameMemory s t ∧ (∀ m, m ≠ n → t.wave m = s.wave m) ∧
      (w.rest.all (fun e => !meetsRun w e) = true → t.wave n = { w with wait := .none }) ∧
      (∀ e, w.rest.filter (meetsRun w) = [e] →
        (t.wave n).run.mask = e.mask ||| w.run.mask ∧ (t.wave n).run.pc = w.run.pc ∧ (t.wave n).run.kind = w.run.kind ∧
        t.wave n = { w with wait := .none, run := (t.wave n).run, rest := w.rest.filter (fun e => !meetsRun w e) })) ∧
  (∀ (s : State) (n d : Nat), (s.wave n).live = true → (s.wave n).wait = .sleep d → d ≤ s.time →
    exec (.sleepDeadline n) s = .next (s.setWave n { s.wave n with wait := .none })) ∧
  (∀ (s : State) (n : Nat) (x : DWord), ((s.wave n).live = false ∨ ∀ sd, (s.wave n).wait ≠ .hcall sd) → exec (.hcallReply n x) s = .next s) ∧
  (∀ (s : State) (n : Nat), ((s.wave n).live = false ∨ ∀ d, (s.wave n).wait = .sleep d → s.time < d) → exec (.sleepDeadline n) s = .next s)

/-- R94, R101 and R105: `exit` with nothing of the wave under way: the low bits of s[sa] are the exit code. Outside a walk, while other entries are
left the next of them issues, in handler mode still if a handler entry is among them and in normal mode if none is; with the last entry the
wave is gone, its matrix unit is free, and the gang keeps its code and its %lfm. In a walk `exit` completes too. -/
def Sys2Proof.Claims.WaveExit : Prop :=
  ∀ (s : State) (sa : SReg), s.me.live = true → s.me.locks = [] → s.me.tiles = [] → s.storesDone s.cur = true →
    (s.me.run.kind ≠ .walk → ∀ e es, s.me.rest = e :: es →
      exec (.exit sa) s = .next (s.setMe { s.me with
        exit := (s.me.rs sa).truncate 32, run := e, rest := es
        mode := if s.me.rest.all (fun x => x.kind ≠ .handler) then .normal else s.me.mode })) ∧
    (s.me.run.kind ≠ .walk → s.me.rest = [] →
      ∃ t, exec (.exit sa) s = .next t ∧ (t.wave s.cur).live = false ∧ (t.core s.me.id.place).owner ≠ some s.cur ∧
        (⟨s.me.id.wg.val, s.me.id.wave.val, (s.me.rs sa).truncate 32, s.me.sr.lfm⟩ : Exited) ∈ (t.gang s.me.id.gang).exits) ∧
    (s.me.run.kind = .walk → ∃ t, exec (.exit sa) s = .next t)

/-- R93 to R96: the system instructions and the end of a wave. -/
def Obligations.SystemInstructions : Prop := SystemWords ∧ SystemEvents ∧ WaveExit

/-! ## Vector instructions (R114 to R128) -/

namespace Sys2Proof.Claims

/-- Lane `l` is in Act (R114). -/
def active (w : Wave) (l : Lane) : Bool := w.run.mask.getLsbD l.val && decide (l.val < w.sr.vl.toNat)

/-- Lane `l` is in Part of the mask km, k0 being no mask (R31, R114). -/
def inPart (w : Wave) (km : KReg) (l : Lane) : Bool := active w l && (decide (km = 0) || (w.rk km).getLsbD l.val)

/-- The lanes that an element-wise word still has to do (R116). -/
def due (w : Wave) (km : KReg) (l : Lane) : Bool := inPart w km l && decide (w.sr.vstart.toNat ≤ l.val)

/-- The profile is 1 or more, and the vector registers named are allocated (R115, R310). -/
def allocated (s : State) (rs : List VReg) : Prop := 1 ≤ s.me.id.eff.toNat ∧ ∀ r ∈ rs, r.val < 8 * s.me.blocks.val

/-- The wave `t` is `w` with the lanes `m` of `vd` written, each with its value, the flags of those lanes ORed in, %vstart 0 and the run at
the next word; no other register, lane, predicate or special register differs. -/
def lanesWritten (w t : Wave) (vd : VReg) (m : Lane → Bool) (f : Lane → Fp) : Prop :=
  (∀ l, t.rv vd l = if m l then (f l).1 else w.rv vd l) ∧ (∀ r, r ≠ vd → t.v[r] = w.v[r]) ∧
  (∀ b, t.sr.flags.getLsbD b = (w.sr.flags.getLsbD b || (List.finRange 64).any (fun l => m l && (f l).2.getLsbD b))) ∧
  t.sr = { w.sr with vstart := 0, flags := t.sr.flags } ∧
  t = { w with v := t.v, dirty := t.dirty, hw := t.hw, sr := t.sr, run := w.run.past 1 }

/-- An element-wise word writes the lanes that are due of `vd`, and that is all it does (R114, R116, R118). -/
def elementWise (s : State) (i : Instr) (vd : VReg) (km : KReg) (f : Lane → Fp) : Prop :=
  ∃ t, exec i s = .next (s.setMe t) ∧ lanesWritten s.me t vd (due s.me km) f

abbrev VV := VReg → VReg → VReg → KReg → Bool → Bool → Instr
abbrev VS := VReg → VReg → SReg → KReg → Bool → Instr
abbrev V1 := VReg → VReg → KReg → Bool → Instr

/-- The table of R119, each result by the arithmetic of integers: the mnemonic with a vector and with a scalar second source. -/
noncomputable def vecInt : List (VV × VS × (Word → Word → Word)) :=
  [(.vadd, .vaddVs, fun a b => BitVec.ofNat 32 (a.toNat + b.toNat)),
   (.vsub, .vsubVs, fun a b => BitVec.ofInt 32 (a.toInt - b.toInt)),
   (.vmul, .vmulVs, fun a b => BitVec.ofNat 32 (a.toNat * b.toNat)),
   (.vmulh, .vmulhVs, fun a b => BitVec.ofInt 32 (a.toInt * b.toInt / 2 ^ 32)),
   (.vmulhu, .vmulhuVs, fun a b => BitVec.ofNat 32 (a.toNat * b.toNat / 2 ^ 32)),
   (.vmin, .vminVs, fun a b => BitVec.ofInt 32 (min a.toInt b.toInt)),
   (.vmax, .vmaxVs, fun a b => BitVec.ofInt 32 (max a.toInt b.toInt)),
   (.vminu, .vminuVs, fun a b => BitVec.ofNat 32 (min a.toNat b.toNat))] ++
  [(.vmaxu, .vmaxuVs, fun a b => BitVec.ofNat 32 (max a.toNat b.toNat)),
   (.vand, .vandVs, fun a b => a &&& b),
   (.vor, .vorVs, fun a b => a ||| b),
   (.vxor, .vxorVs, fun a b => a ^^^ b),
   (.vandn, .vandnVs, fun a b => a &&& ~~~b),
   (.vshl, .vshlVs, fun a b => BitVec.ofNat 32 (a.toNat * 2 ^ (b.toNat % 32))),
   (.vshr, .vshrVs, fun a b => BitVec.ofNat 32 (a.toNat / 2 ^ (b.toNat % 32))),
   (.vsar, .vsarVs, fun a b => BitVec.ofInt 32 (a.toInt / 2 ^ (b.toNat % 32)))]

/-- The table of R120. -/
noncomputable def vecImm : List ((VReg → VReg → BitVec 9 → KReg → Bool → Instr) × (Word → BitVec 9 → Word)) :=
  [(.vaddi, fun a i => BitVec.ofInt 32 (a.toInt + i.toInt)),
   (.vrsubi, fun a i => BitVec.ofInt 32 (i.toInt - a.toInt)),
   (.vandi, fun a i => a &&& BitVec.ofNat 32 i.toNat)]

noncomputable def vecShift : List ((VReg → VReg → Fin 32 → KReg → Bool → Instr) × (Word → Nat → Word)) :=
  [(.vshli, fun a n => BitVec.ofNat 32 (a.toNat * 2 ^ n)),
   (.vshri, fun a n => BitVec.ofNat 32 (a.toNat / 2 ^ n)),
   (.vsari, fun a n => BitVec.ofInt 32 (a.toInt / 2 ^ n))]

/-- A value with no flag. -/
def quiet (x : Word) : Fp := (x, 0)

/-- The F32 operations of R121 with two sources, and those that MAJ 0x16 has with a scalar second source. -/
noncomputable def vecFp2 : List (VV × (Word → Word → Fp)) :=
  [(.vfadd, f32Add), (.vfsub, f32Sub), (.vfmul, f32Mul), (.vfdiv, f32Div), (.vfmin, f32Min), (.vfmax, f32Max)]

noncomputable def vecFpS : List (VS × (Word → Word → Fp)) :=
  [(.vfaddVs, f32Add), (.vfsubVs, f32Sub), (.vfmulVs, f32Mul), (.vfminVs, f32Min), (.vfmaxVs, f32Max)]

/-- A word with its sign bit set to `n`; a NaN becomes the default NaN (R121). -/
def withSign (n : Bool) (a : Word) : Fp :=
  quiet (if a.toNat / 2 ^ 23 % 256 = 255 ∧ a.toNat % 2 ^ 23 ≠ 0 then 0x7FC00000
    else BitVec.ofNat 32 (a.toNat % 2 ^ 31 + if n then 2 ^ 31 else 0))

/-- The one-source operations of R121. -/
noncomputable def vecFp1 : List (V1 × (Word → Fp)) :=
  [(.vfsqrt, f32Sqrt), (.vfabs, withSign false), (.vfneg, fun a => withSign (!a.getLsbD 31) a), (.vfrint, f32Integral .nearest),
   (.vffloor, f32Integral .down), (.vfceil, f32Integral .up), (.vftrunc, f32Integral .zero), (.vffract, f32Fract)]

/-- A NaN becomes the default NaN. -/
def noNan (x : Word) : Word := if x.toNat / 2 ^ 23 % 256 = 255 ∧ x.toNat % 2 ^ 23 ≠ 0 then 0x7FC00000 else x

/-- The widening forms of R123. -/
noncomputable def vecUp : List (V1 × (Word → Fp)) :=
  [(.cvtF32Si, fun a => f32OfInt a.toInt), (.cvtF32Ui, fun a => f32OfInt a.toNat),
   (.upBf16Lo, fun a => quiet (noNan (BitVec.ofNat 32 (a.toNat % 2 ^ 16 * 2 ^ 16)))),
   (.upBf16Hi, fun a => quiet (noNan (BitVec.ofNat 32 (a.toNat / 2 ^ 16 * 2 ^ 16)))),
   (.upF16Lo, fun a => quiet (widen fmtF16 (a.toNat % 2 ^ 16))), (.upF16Hi, fun a => quiet (widen fmtF16 (a.toNat / 2 ^ 16)))]

/-- Byte b[1:0] of `a`. -/
def pickByte (a b : Word) : Nat := a.toNat / 2 ^ (8 * (b.toNat % 4)) % 256

noncomputable def vecUpByte : List (VV × (Word → Word → Word)) :=
  [(.upF8a, fun a b => widen fmtF8a (pickByte a b)), (.upF8b, fun a b => widen fmtF8b (pickByte a b)),
   (.upI8, fun a b => BitVec.ofInt 32 (if pickByte a b < 128 then pickByte a b else (pickByte a b : Int) - 256))]

/-- The packings of R123: the conversion of one element under the %cvt of the wave. -/
noncomputable def vecPack16 : List (VV × (Wave → Word → Nat × FpFlags)) :=
  [(.pkBf16, fun w a => convertFloat fmtBf16 (w.control slotBf16) (readF32 a)),
   (.pkF16, fun w a => convertFloat fmtF16 (w.control slotF16) (readF32 a))]

noncomputable def vecPack8 : List (VV × (Wave → Word → Nat × FpFlags)) :=
  [(.pkF8a, fun w a => convertFloat fmtF8a (w.control slotF8a) (readF32 a)),
   (.pkF8b, fun w a => convertFloat fmtF8b (w.control slotF8b) (readF32 a)),
   (.pkI8, fun w a => convertI8 (w.control slotI8) a)]

/-- The functions of R124. -/
noncomputable def specials : List (V1 × SpecFn) :=
  [(.vsin, .sin), (.vcos, .cos), (.vsinpi, .sinpi), (.vcospi, .cospi), (.vexp2, .exp2), (.vlog2, .log2), (.vrcp, .rcp),
   (.vrsqrt, .rsqrt), (.vtanh, .tanh), (.vsigm, .sigm)]

end Sys2Proof.Claims

/-- R119 and R120: every integer element-wise instruction completes on every wave whose registers are allocated, and writes the lanes of Part
from %vstart on with f(a, b); chain bits change nothing (R32), and no flag is set. -/
def Obligations.VectorInteger : Prop :=
  (∀ e ∈ vecInt, ∀ (s : State) (vd va vb : VReg) (km : KReg) (ca cb : Bool), allocated s [vd, va, vb] →
    elementWise s (e.1 vd va vb km ca cb) vd km (fun l => quiet (e.2.2 (s.me.rv va l) (s.me.rv vb l)))) ∧
  (∀ e ∈ vecInt, ∀ (s : State) (vd va : VReg) (sb : SReg) (km : KReg) (ca : Bool), allocated s [vd, va] →
    elementWise s (e.2.1 vd va sb km ca) vd km (fun l => quiet (e.2.2 (s.me.rv va l) ((s.me.rs sb).truncate 32)))) ∧
  (∀ e ∈ vecImm, ∀ (s : State) (vd va : VReg) (i : BitVec 9) (km : KReg) (ca : Bool), allocated s [vd, va] →
    elementWise s (e.1 vd va i km ca) vd km (fun l => quiet (e.2 (s.me.rv va l) i))) ∧
  (∀ e ∈ vecShift, ∀ (s : State) (vd va : VReg) (n : Fin 32) (km : KReg) (ca : Bool), allocated s [vd, va] →
    elementWise s (e.1 vd va n km ca) vd km (fun l => quiet (e.2 (s.me.rv va l) n.val)))

/-- R121 and R122: the F32 element-wise instructions and the two fused ones, with the flags of every lane written ORed into %flags. -/
def Sys2Proof.Claims.VectorFloatResults : Prop :=
  (∀ e ∈ vecFp2, ∀ (s : State) (vd va vb : VReg) (km : KReg) (ca cb : Bool), allocated s [vd, va, vb] →
    elementWise s (e.1 vd va vb km ca cb) vd km (fun l => e.2 (s.me.rv va l) (s.me.rv vb l))) ∧
  (∀ e ∈ vecFpS, ∀ (s : State) (vd va : VReg) (sb : SReg) (km : KReg) (ca : Bool), allocated s [vd, va] →
    elementWise s (e.1 vd va sb km ca) vd km (fun l => e.2 (s.me.rv va l) ((s.me.rs sb).truncate 32))) ∧
  (∀ e ∈ vecFp1, ∀ (s : State) (vd va : VReg) (km : KReg) (ca : Bool), allocated s [vd, va] →
    elementWise s (e.1 vd va km ca) vd km (fun l => e.2 (s.me.rv va l))) ∧
  (∀ (s : State) (vd va vb : VReg) (km : KReg) (ca cb : Bool), allocated s [vd, va, vb] →
    elementWise s (.vfcopysign vd va vb km ca cb) vd km (fun l => withSign ((s.me.rv vb l).getLsbD 31) (s.me.rv va l))) ∧
  (∀ (s : State) (vd va vb vc : VReg) (km : Fin 8) (ch : Bool), allocated s [vd, va, vb, vc] →
    elementWise s (.vfma vd va vb vc km ch) vd (Fin.ofNat 16 km.val)
      (fun l => f32Fma false (s.me.rv va l) (s.me.rv vb l) (s.me.rv vc l)) ∧
    elementWise s (.vfnma vd va vb vc km ch) vd (Fin.ofNat 16 km.val)
      (fun l => f32Fma true (s.me.rv va l) (s.me.rv vb l) (s.me.rv vc l)))

/-- R123: the conversions. Widening a BF16 value is a shift of its bits, a NaN becoming the default NaN; the packing forms use the slot of %cvt of their
format, and the byte forms push the old low half of vd up. What the conversion functions give in numbers is FloatRounding's. -/
def Sys2Proof.Claims.VectorConversions : Prop :=
  (∀ e ∈ vecUp, ∀ (s : State) (vd va : VReg) (km : KReg) (ca : Bool), allocated s [vd, va] →
    elementWise s (e.1 vd va km ca) vd km (fun l => e.2 (s.me.rv va l))) ∧
  (∀ (s : State) (vd va : VReg) (km : KReg) (ca : Bool), allocated s [vd, va] →
    elementWise s (.cvtSiF32 vd va km ca) vd km (fun l => convertSi (s.me.control slotSi) (readF32 (s.me.rv va l))) ∧
    elementWise s (.cvtUiF32 vd va km ca) vd km (fun l => convertUi (s.me.control slotUi) (readF32 (s.me.rv va l)))) ∧
  (∀ e ∈ vecUpByte, ∀ (s : State) (vd va vb : VReg) (km : KReg) (ca cb : Bool), allocated s [vd, va, vb] →
    elementWise s (e.1 vd va vb km ca cb) vd km (fun l => quiet (e.2 (s.me.rv va l) (s.me.rv vb l)))) ∧
  (∀ e ∈ vecPack16, ∀ (s : State) (vd va vb : VReg) (km : KReg) (ca cb : Bool), allocated s [vd, va, vb] →
    elementWise s (e.1 vd va vb km ca cb) vd km (fun l =>
      let x := e.2 s.me (s.me.rv va l)
      let y := e.2 s.me (s.me.rv vb l)
      (BitVec.ofNat 32 (y.1 * 2 ^ 16 + x.1), x.2 ||| y.2))) ∧
  (∀ e ∈ vecPack8, ∀ (s : State) (vd va vb : VReg) (km : KReg) (ca cb : Bool), allocated s [vd, va, vb] →
    elementWise s (e.1 vd va vb km ca cb) vd km (fun l =>
      let x := e.2 s.me (s.me.rv va l)
      let y := e.2 s.me (s.me.rv vb l)
      (BitVec.ofNat 32 ((s.me.rv vd l).toNat * 2 ^ 16 + (y.1 * 2 ^ 8 + x.1)), x.2 ||| y.2)))

namespace Sys2Proof.Claims

/-- The finite inputs at which R124 gives the result itself: its exact cases, and the special values that finite inputs have. -/
def Settled (f : SpecFn) (a : Word) : Prop :=
  match f with
  | .sin | .cos | .tanh | .sigm => value a = 0
  | .sinpi | .cospi => ∃ n : ℤ, 2 * value a = n
  | .exp2 => 128 ≤ value a ∨ ∃ n : ℤ, value a = n ∧ -149 ≤ n
  | .log2 => value a ≤ 0 ∨ ∃ n : ℤ, value a = 2 ^ n
  | .rcp => value a = 0 ∨ ∃ n : ℤ, |value a| = 2 ^ n ∧ -127 ≤ n
  | .rsqrt => value a ≤ 0 ∨ ∃ n : ℤ, value a = 2 ^ (2 * n)

/-- An exact result of a special function: a finite word of this value, and no flag. -/
def Exactly (r : Fp) (x : ℝ) : Prop := IsFinite r.1 ∧ value r.1 = x ∧ r.2 = 0

end Sys2Proof.Claims

/-- R124: every special function completes on every element; what it gives at a NaN and at the infinities. -/
def Sys2Proof.Claims.VectorSpecialFunctions : Prop :=
  (∀ e ∈ specials, ∀ (s : State) (vd va : VReg) (km : KReg) (ca : Bool), allocated s [vd, va] →
    elementWise s (e.1 vd va km ca) vd km (fun l => f32Special e.2 (s.me.rv va l))) ∧
  (∀ (f : SpecFn) (a : Word), IsNan a → f32Special f a = (0x7FC00000, 0)) ∧
  (∀ a : Word, a = 0x7F800000 ∨ a = 0xFF800000 →
    ∀ f ∈ [SpecFn.sin, SpecFn.cos, SpecFn.sinpi, SpecFn.cospi], f32Special f a = (0x7FC00000, 1)) ∧
  f32Special .exp2 0xFF800000 = (0, 0) ∧ f32Special .exp2 0x7F800000 = (0x7F800000, 0) ∧
  f32Special .log2 0x7F800000 = (0x7F800000, 0) ∧ f32Special .log2 0xFF800000 = (0x7FC00000, 1) ∧
  f32Special .rsqrt 0x7F800000 = (0, 0) ∧ f32Special .rsqrt 0xFF800000 = (0x7FC00000, 1) ∧
  f32Special .rcp 0x7F800000 = (0, 0) ∧ f32Special .rcp 0xFF800000 = (0x80000000, 0) ∧
  f32Special .tanh 0x7F800000 = (0x3F800000, 0) ∧ f32Special .tanh 0xFF800000 = (0xBF800000, 0) ∧
  f32Special .sigm 0xFF800000 = (0, 0) ∧ f32Special .sigm 0x7F800000 = (0x3F800000, 0)

/-- R124: the special values of finite inputs and the exact cases, in terms of the real numbers that the words stand for. -/
def Sys2Proof.Claims.SpecialFunctionCases : Prop :=
  ∀ a : Word, IsFinite a →
    (value a = 0 →
      f32Special .sin a = (a, 0) ∧ f32Special .cos a = (0x3F800000, 0) ∧ f32Special .tanh a = (a, 0) ∧
      f32Special .sigm a = (0x3F000000, 0) ∧ f32Special .log2 a = (0xFF800000, 2) ∧
      f32Special .rcp a = (infinityOf (signOf a), 2) ∧ f32Special .rsqrt a = (infinityOf (signOf a), 2)) ∧
    (value a < 0 → f32Special .log2 a = (0x7FC00000, 1) ∧ f32Special .rsqrt a = (0x7FC00000, 1)) ∧
    (128 ≤ value a → f32Special .exp2 a = (0x7F800000, 0x14)) ∧
    (∀ n : ℤ, 2 * value a = n →
      let p := f32Special .sinpi a
      let q := f32Special .cospi a
      (n % 2 = 0 → p = (if signOf a then 0x80000000 else 0, 0)) ∧ (n % 2 = 1 → q = (0, 0)) ∧
      (n % 4 = 0 → q = (0x3F800000, 0)) ∧ (n % 4 = 1 → p = (0x3F800000, 0)) ∧
      (n % 4 = 2 → q = (0xBF800000, 0)) ∧ (n % 4 = 3 → p = (0xBF800000, 0))) ∧
    (∀ n : ℤ, value a = n → -149 ≤ n → n ≤ 127 → Exactly (f32Special .exp2 a) (2 ^ n)) ∧
    (∀ n : ℤ, value a = 2 ^ n → Exactly (f32Special .log2 a) n) ∧
    (∀ n : ℤ, |value a| = 2 ^ n → -127 ≤ n → Exactly (f32Special .rcp a) (1 / value a)) ∧
    (∀ n : ℤ, value a = 2 ^ (2 * n) → Exactly (f32Special .rsqrt a) (1 / 2 ^ n))

/-- R124 with R70: the flags at every other finite input. INX is set, OVF where the result is an infinity, and UNF where it is below 2^−126 in
magnitude. -/
def Sys2Proof.Claims.SpecialFunctionFlags : Prop :=
  ∀ (f : SpecFn) (a : Word), IsFinite a → ¬ Settled f a →
    let r := f32Special f a
    let m := r.1.toNat % 2 ^ 31
    r.2 = 0x10 ||| (if m = 0x7F800000 then 0x04 else 0) ||| (if m < 0x00800000 then 0x08 else 0)

/-- R119 to R124: vector F32 arithmetic, conversions, and the special functions with their special values, exact cases and flags. -/
def Obligations.VectorFloat : Prop :=
  VectorFloatResults ∧ VectorConversions ∧ VectorSpecialFunctions ∧ SpecialFunctionCases ∧ SpecialFunctionFlags

namespace Sys2Proof.Claims

abbrev VC := KReg → VReg → VReg → KReg → Bool → Bool → Instr

/-- The integer compares of R125. -/
noncomputable def compares : List (VC × (Word → Word → Bool)) :=
  [(.vcmpEq, fun a b => decide (a = b)), (.vcmpNe, fun a b => decide (a ≠ b)), (.vcmpLt, fun a b => decide (a.toInt < b.toInt)),
   (.vcmpGe, fun a b => decide (b.toInt ≤ a.toInt)), (.vcmpLtu, fun a b => decide (a.toNat < b.toNat)),
   (.vcmpGeu, fun a b => decide (b.toNat ≤ a.toNat))]

/-- An F32 word that is not a NaN as a number that rises with its value; both zeros are 0. -/
def orderOf (a : Word) : Int := if a.getLsbD 31 then -((a.toNat % 2 ^ 31 : Nat) : Int) else (a.toNat % 2 ^ 31 : Nat)

/-- The F32 compares of R125: the condition on the values, the answer where an operand is a NaN, and whether that sets INV. -/
noncomputable def fcompares : List (VC × (Int → Int → Bool) × Bool × Bool) :=
  [(.vfcmpEq, fun a b => decide (a = b), false, false), (.vfcmpNe, fun a b => decide (a ≠ b), true, false),
   (.vfcmpLt, fun a b => decide (a < b), false, true), (.vfcmpLe, fun a b => decide (a ≤ b), false, true),
   (.vfcmpGt, fun a b => decide (b < a), false, true), (.vfcmpGe, fun a b => decide (b ≤ a), false, true),
   (.vfcmpUn, fun _ _ => false, true, false), (.vfcmpOrd, fun _ _ => true, false, false)]

/-- What an F32 compare gives for two words. -/
noncomputable def fcompare (c : (Int → Int → Bool) × Bool × Bool) (a b : Word) : Bool × FpFlags :=
  if (a.toNat / 2 ^ 23 % 256 = 255 ∧ a.toNat % 2 ^ 23 ≠ 0) ∨ (b.toNat / 2 ^ 23 % 256 = 255 ∧ b.toNat % 2 ^ 23 ≠ 0)
  then (c.2.1, if c.2.2 then 1 else 0) else (c.1 (orderOf a) (orderOf b), 0)

/-- A compare writes the bits of kd of the lanes that are due, and keeps the other bits. -/
def comparesLanes (s : State) (i : Instr) (kd km : KReg) (f : Lane → Bool × FpFlags) : Prop :=
  ∃ t : Wave, exec i s = .next (s.setMe t) ∧
    (∀ l : Lane, (t.rk kd).getLsbD l.val = if due s.me km l then (f l).1 else (s.me.rk kd).getLsbD l.val) ∧
    (∀ r, r ≠ kd → t.rk r = s.me.rk r) ∧
    (∀ b, t.sr.flags.getLsbD b = (s.me.sr.flags.getLsbD b || (List.finRange 64).any (fun l => due s.me km l && (f l).2.getLsbD b))) ∧
    t.sr = { s.me.sr with vstart := 0, flags := t.sr.flags } ∧ t = { s.me with k := t.k, sr := t.sr, run := s.me.run.past 1 }

/-- The logical operations of R126 on bits. -/
noncomputable def klogic : List ((KReg → KReg → KReg → Instr) × (Bool → Bool → Bool)) :=
  [(.kand, fun a b => a && b), (.kor, fun a b => a || b), (.kxor, fun a b => a != b), (.kandn, fun a b => a && !b)]

/-- A predicate operation: kd as given bit by bit, %vstart 0, nothing else. -/
def predicateWritten (s : State) (i : Instr) (kd : KReg) (f : Lane → Bool) : Prop :=
  ∃ t : Wave, exec i s = .next (s.setMe t) ∧ (∀ l : Lane, (t.rk kd).getLsbD l.val = f l) ∧ (∀ r, r ≠ kd → t.rk r = s.me.rk r) ∧
    t = { s.me with k := t.k, sr := { s.me.sr with vstart := 0 }, run := s.me.run.past 1 }

end Sys2Proof.Claims

/-- R125: every compare completes on every wave whose registers are allocated. -/
def Sys2Proof.Claims.VectorCompares : Prop :=
  (∀ e ∈ compares, ∀ (s : State) (kd : KReg) (va vb : VReg) (km : KReg) (ca cb : Bool), allocated s [va, vb] →
    comparesLanes s (e.1 kd va vb km ca cb) kd km (fun l => (e.2 (s.me.rv va l) (s.me.rv vb l), 0))) ∧
  (∀ e ∈ fcompares, ∀ (s : State) (kd : KReg) (va vb : VReg) (km : KReg) (ca cb : Bool), allocated s [va, vb] →
    comparesLanes s (e.1 kd va vb km ca cb) kd km (fun l => fcompare e.2 (s.me.rv va l) (s.me.rv vb l)))

/-- R126: the predicate operations act on the lanes of Act, `kall` and `knone` on all 64 bits; they have no mask and always complete. -/
def Sys2Proof.Claims.PredicateOperations : Prop :=
  (∀ e ∈ klogic, ∀ (s : State) (kd ka kb : KReg),
    predicateWritten s (e.1 kd ka kb) kd (fun l =>
      if active s.me l then e.2 ((s.me.rk ka).getLsbD l.val) ((s.me.rk kb).getLsbD l.val) else (s.me.rk kd).getLsbD l.val)) ∧
  (∀ (s : State) (kd ka : KReg),
    predicateWritten s (.knot kd ka) kd (fun l => if active s.me l then !(s.me.rk ka).getLsbD l.val else (s.me.rk kd).getLsbD l.val) ∧
    predicateWritten s (.kmov kd ka) kd (fun l => if active s.me l then (s.me.rk ka).getLsbD l.val else (s.me.rk kd).getLsbD l.val)) ∧
  (∀ (s : State) (kd : KReg), predicateWritten s (.kall kd) kd (active s.me) ∧ predicateWritten s (.knone kd) kd (fun _ => false))

/-- R125 to R127: compares into a predicate register, and operations on predicate registers. -/
def Obligations.ComparesAndPredicates : Prop := VectorCompares ∧ PredicateOperations

namespace Sys2Proof.Claims

/-- A word that writes one scalar register, and %flags, and clears %vstart. -/
def scalarWritten (s : State) (i : Instr) (sd : Fin 32) (x : DWord) (fl : FpFlags) : Prop :=
  exec i s = .next (s.setMe ((({ s.me with sr := { s.me.sr with flags := s.me.sr.flags ||| fl, vstart := 0 } } : Wave).setS
    ⟨sd.val, by omega⟩ x).past 1))

/-- The lanes that a test selects, in ascending order. -/
def lanes (f : Lane → Bool) : List Lane := (List.finRange 64).filter f

/-- Element `j` of a source: 0 where lane `j` is not available (R129). -/
def sourceAt (w : Wave) (va : VReg) (j : Int) : Word :=
  if h : 0 ≤ j ∧ j < 64 then (if active w ⟨j.toNat, by omega⟩ then w.rv va ⟨j.toNat, by omega⟩ else 0) else 0

/-- A cross-lane word writes the lanes `m` of vd, from %vstart or not, all sources read first; the flags of R133 and R134 are `fl`. -/
def crossWritten (s : State) (i : Instr) (vd : VReg) (m : Lane → Bool) (f : Lane → Word) (fl : FpFlags) : Prop :=
  ∃ t : Wave, exec i s = .next (s.setMe t) ∧ (∀ l, t.rv vd l = if m l then f l else s.me.rv vd l) ∧ (∀ r, r ≠ vd → t.v[r] = s.me.v[r]) ∧
    t = { s.me with v := t.v, dirty := t.dirty, hw := t.hw, sr := { s.me.sr with vstart := 0, flags := s.me.sr.flags ||| fl },
                    run := s.me.run.past 1 }

/-- Src of R135. -/
def source (md : Swz) (i t : Nat) : Int :=
  match md with
  | .xor => (i ^^^ t : Nat)
  | .up => (i : Int) - t
  | .down => (i : Int) + t
  | .bcast => t

/-- The integer reductions of R132: the combination, the value for an empty Part, and whether the result is sign-extended. -/
noncomputable def reductions : List ((Fin 32 → VReg → KReg → Bool → Instr) × (Word → Word → Word) × DWord × Bool) :=
  [(.vraddI, fun a b => a + b, 0, true),
   (.vrmaxI, fun a b => if a.toInt < b.toInt then b else a, 0xFFFFFFFF80000000, true),
   (.vrminI, fun a b => if a.toInt < b.toInt then a else b, 0x7FFFFFFF, true),
   (.vrand, fun a b => a &&& b, 0xFFFFFFFF, false),
   (.vror, fun a b => a ||| b, 0, false)]

/-- Comb of R133 on elements that may be absent, with flags. -/
def comb (f : Word → Word → Fp) : Option Fp → Option Fp → Option Fp
  | some a, some b => some ((f a.1 b.1).1, a.2 ||| b.2 ||| (f a.1 b.1).2)
  | some a, none => some a
  | none, b => b

/-- The tree of R133 over 2^n positions from `p`: the element of the whole and the flags of every rounding in it. -/
def tree (f : Word → Word → Fp) (x : Nat → Option Word) : Nat → Nat → Option Fp
  | 0, p => (x p).map (fun a => (a, 0))
  | n + 1, p => comb f (tree f x n p) (tree f x n (p + 2 ^ n))

/-- The F32 reductions of R132, with the value for an empty Part. -/
noncomputable def freductions : List ((Fin 32 → VReg → KReg → Bool → Instr) × (Word → Word → Fp) × Word) :=
  [(.vraddF, f32Add, 0), (.vrmaxF, f32Max, 0xFF800000), (.vrminF, f32Min, 0x7F800000)]

/-- A scan of R134 up to and with the last of a list of lanes, and the flags so far. -/
def scanTo (f : Word → Word → Fp) (first : Word → Word) (va : Lane → Word) : List Lane → Fp
  | [] => (0, 0)
  | l :: ls => ls.foldl (fun a k => ((f a.1 (va k)).1, a.2 ||| (f a.1 (va k)).2)) (first (va l), 0)

noncomputable def scans : List (V1 × (Word → Word → Fp) × (Word → Word)) :=
  [(.vscanAddI, fun a b => quiet (a + b), fun a => a), (.vscanAddF, f32Add, noNan), (.vscanMaxF, f32Max, noNan)]

end Sys2Proof.Claims

/-- R127 and R128: selection, moves, lane numbers and broadcasts; and the scalars taken from lanes, which clear %vstart as every indivisible
word does (R116). -/
def Sys2Proof.Claims.LaneMovesWithin : Prop :=
  (∀ (s : State) (vd va vb : VReg) (km : KReg) (ca cb : Bool), allocated s [vd, va, vb] →
    elementWise s (.vsel vd va vb km ca cb) vd 0 (fun l => quiet (if (s.me.rk km).getLsbD l.val then s.me.rv va l else s.me.rv vb l))) ∧
  (∀ (s : State) (vd va : VReg) (km : KReg) (ca : Bool), allocated s [vd, va] →
    elementWise s (.vmov vd va km ca) vd km (fun l => quiet (s.me.rv va l))) ∧
  (∀ (s : State) (vd : VReg) (sb : SReg) (km : KReg), allocated s [vd] →
    elementWise s (.viota vd km) vd km (fun l => quiet (BitVec.ofNat 32 l.val)) ∧
    elementWise s (.vbcast vd sb km) vd km (fun _ => quiet ((s.me.rs sb).truncate 32))) ∧
  (∀ (s : State) (sd : Fin 32) (va : VReg) (sb : SReg) (ca : Bool), allocated s [va] →
    scalarWritten s (.vextr sd va sb ca) sd ((sourceAt s.me va (s.me.rs sb).toNat).zeroExtend 64) 0) ∧
  (∀ (s : State) (sd : Fin 32) (ka : KReg),
    let ls := lanes (fun l => active s.me l && (s.me.rk ka).getLsbD l.val)
    scalarWritten s (.kcnt sd ka) sd (BitVec.ofNat 64 ls.length) 0 ∧
    scalarWritten s (.kfst sd ka) sd (match ls with | [] => BitVec.allOnes 64 | l :: _ => BitVec.ofNat 64 l.val) 0)

/-- R129 to R131 and R135: a cross-lane word reads all its sources first; a source lane outside Act delivers 0, and the mask only selects what is
written. -/
def Sys2Proof.Claims.CrossLaneMoves : Prop :=
  (∀ (s : State) (vd va vb : VReg) (km : KReg) (ca cb : Bool), allocated s [vd, va, vb] → s.me.late = [] →
    crossWritten s (.vperm vd va vb km ca cb) vd (inPart s.me km) (fun l => sourceAt s.me va (s.me.rv vb l).toNat) 0) ∧
  (∀ (s : State) (vd va : VReg) (md : Swz) (amt : BitVec 7) (km : KReg) (ca : Bool), allocated s [vd, va] → s.me.late = [] →
    crossWritten s (.vswz vd va md amt km ca) vd (inPart s.me km) (fun l => sourceAt s.me va (source md l.val amt.toNat)) 0 ∧
    crossWritten s (.vswzg vd va md amt km ca) vd (inPart s.me km) (fun l =>
      let i := source md (l.val % 16) amt.toNat
      if 0 ≤ i ∧ i ≤ 15 then sourceAt s.me va (l.val - l.val % 16 + i) else 0) 0) ∧
  (∀ (s : State) (vd va : VReg) (km : KReg) (ca : Bool), allocated s [vd, va] → s.me.late = [] →
    let a := lanes (active s.me)
    let ck := lanes (fun l => active s.me l && (s.me.rk km).getLsbD l.val)
    (∃ f : Lane → Word, crossWritten s (.vcompress vd va km ca) vd (fun l => decide (l ∈ a.take ck.length)) f 0 ∧
      ∀ (i : Nat) (x y : Lane), a[i]? = some x → ck[i]? = some y → f x = s.me.rv va y) ∧
    (∃ f : Lane → Word, crossWritten s (.vexpand vd va km ca) vd (fun l => decide (l ∈ ck)) f 0 ∧
      ∀ (i : Nat) (x y : Lane), ck[i]? = some x → a[i]? = some y → f x = s.me.rv va y))

/-- R110: the cross-lane instructions are lane barriers: with stores of the wave that are not yet performed they wait. -/
def Sys2Proof.Claims.LaneBarriers : Prop :=
  ∀ (s : State) (sd : Fin 32) (vd va vb : VReg) (md : Swz) (amt : BitVec 7) (km : KReg) (ca cb : Bool), allocated s [vd, va, vb] → s.me.late ≠ [] →
    ∀ i ∈ [.vperm vd va vb km ca cb, .vswz vd va md amt km ca, .vswzg vd va md amt km ca, .vcompress vd va km ca, .vexpand vd va km ca] ++
        reductions.map (fun e => e.1 sd va km ca) ++ freductions.map (fun e => e.1 sd va km ca) ++ scans.map (fun e => e.1 vd va km ca),
      exec i s = .next (s.setMe { s.me with held := true })

/-- R128 to R132 with R110: moves within a lane and across lanes. -/
def Obligations.LaneMoves : Prop := LaneMovesWithin ∧ CrossLaneMoves ∧ LaneBarriers

/-- R132 to R134: the reductions over Part, an empty Part giving the empty value; the F32 ones along the fixed tree over positions 0 to 63; and
the scans in ascending order, lanes outside Part being neither written nor counted. -/
def Obligations.Reductions : Prop :=
  (∀ e ∈ reductions, ∀ (s : State) (sd : Fin 32) (va : VReg) (km : KReg) (ca : Bool), allocated s [va] → s.me.late = [] →
    scalarWritten s (e.1 sd va km ca) sd (match (lanes (inPart s.me km)).map (s.me.rv va) with
      | [] => e.2.2.1
      | x :: xs => let y := xs.foldl e.2.1 x; if e.2.2.2 then y.signExtend 64 else y.zeroExtend 64) 0) ∧
  (∀ e ∈ freductions, ∀ (s : State) (sd : Fin 32) (va : VReg) (km : KReg) (ca : Bool), allocated s [va] → s.me.late = [] →
    let x (p : Nat) : Option Word := if h : p < 64 then (if inPart s.me km ⟨p, h⟩ then some (s.me.rv va ⟨p, h⟩) else none) else none
    match tree e.2.1 x 6 0 with
    | some r => scalarWritten s (e.1 sd va km ca) sd ((noNan r.1).zeroExtend 64) r.2
    | none => scalarWritten s (e.1 sd va km ca) sd (e.2.2.zeroExtend 64) 0) ∧
  (∀ e ∈ scans, ∀ (s : State) (vd va : VReg) (km : KReg) (ca : Bool), allocated s [vd, va] → s.me.late = [] →
    let below (l : Lane) : List Lane := lanes (fun k => inPart s.me km k && decide (k ≤ l))
    crossWritten s (e.1 vd va km ca) vd (inPart s.me km) (fun l => (scanTo e.2.1 e.2.2 (s.me.rv va) (below l)).1)
      (scanTo e.2.1 e.2.2 (s.me.rv va) (lanes (inPart s.me km))).2)

/-! ## Encoding (R17, R29 to R38, R83) -/

namespace Sys2Proof.Claims

/-- Words written out field by field from the formats of R29, the fields of R30 to R33 and the opcode map of R34, with the instructions they
stand for. -/
noncomputable def specWords : List (Nat × Instr) :=
  -- MAJ 0, SR: sd = 33, sa = 18, sb = 45, fn 15 `mulh`
  [(0b0000000_100001_010010_101101_0001111, .mulh 33 18 45),
  -- MAJ 1, SF: sd = 33, sa = 18, fn 0 `addi`, imm = −3
   (0b0000001_100001_010010_000_1111111101, .addi 33 18 (-3)),
  -- MAJ 4, SM: sd = 5, sa = 6, sp = 2 (.q), sz = 3 (hu), off = 77
   (0b0000100_000101_000110_010_011_1001101, .ld 5 6 .q .hu 77),
  -- MAJ 6, BR: sa = 1, sb = 2, cc = 3 (ge), off = −512
   (0b0000110_000001_000010_011_1000000000, .bge 1 2 (-512)),
  -- MAJ 7, BL: sl = 0 is `jmp`
   (0b0000111_000000_0000000000000000101, .jmp 5),
  -- MAJ 9, ST: sr = 27, pb = 38, np = 4, dm = 3 (k), off = −1
   (0b0001001_011011_100110_100_11_11111111, .strip 27 38 4 .k (-1)),
  -- MAJ 0x0D, KB: km = 5, ng = 1, fn 1 `vcall`, off = −2
   (0b0001101_0101_1_01_111111111111111110, .vcall 5 true (-2)),
  -- MAJ 0x10, VR: vd = 21, va = 10, vb = 28, km = 5, ca = 1, cb = 0, fn 12 `vandn`
   (0b0010000_10101_01010_11100_0101_1_0_1100, .vandn 21 10 28 5 true false)] ++
  -- MAJ 0x11, VS: the scalar source is sb = 45
  [(0b0010001_10101_01010_101101_0101_0_0000, .vaddVs 21 10 45 5 false),
  -- MAJ 0x17, VF: vc = 14, km = 5, ch = 1, fn 1 `vfnma`
   (0b0010111_10101_01010_11100_01110_101_1_1, .vfnma 21 10 28 14 5 true),
  -- MAJ 0x1B, VC: kd = 9, fn 7 `vfcmp.ord`
   (0b0011011_1001_01010_11100_0101_0_1_00111, .vfcmpOrd 9 10 28 5 false true),
  -- MAJ 0x22, VI: imm = mode 2 (down), amount 93
   (0b0100010_10101_01010_10_1011101_0101_1_0, .vswz 21 10 .down 93 5 true),
  -- MAJ 0x23, VM: vb = %st3, sp = 4 (.l), md = 1
   (0b0100011_10101_010010_00011_100_0101_01, .vldW 21 18 .l 5 (.strided 3)),
  -- MAJ 0x2A, AT: sa = 18, op 12 (binc)
   (0b0101010_10101_01010_11100_010010_1100, .vatomD 21 18 10 28 .binc),
  -- MAJ 0x2D, TM: ad = 2, sa = 18, id = 19, p1 = 6, p2 = 25, fn 2 `tmma`
   (0b0101101_10_010010_10011_00110_11001_10, .tmma 2 18 19 6 25),
  -- MAJ 0x30, CP: sa = 18, sb = 45, nb = 11, bx = 3 (.x), xs = 2, fn 2 `cp.put`
   (0b0110000_010010_101101_1011_11_10_00010, .cpPut 18 45 11 .x)] ++
  -- MAJ 0x35, XS: fn 2 `mk.fadd`, num = mk44
  [(0b0110101_100001_010010_010_0000101100, .mkFadd 33 18 44),
  -- MAJ 0x37, XS: fn 1 `fence`, scope 5 (.pod) in num[9:7], kind 3 (.sc)
   (0b0110111_000000_000000_001_101_00000_11, .fence .pod .sc),
  -- MAJ 0x38, VS: fn 0 `twstart`, the slot tw3 in km[3:2]
   (0b0111000_10101_01010_101101_1100_0_0000, .twstart 21 10 45 3),
  -- MAJ 0x3C, XS: fn 2 `segld`, space code 3
   (0b0111100_100001_010010_010_0000000011, .segld 33 18 .c),
  -- the all-zero word is `add s0, s0, s0` (R45)
   (0, .add 0 0 0)]

/-- The bytes of words, as memory holds them (R14). -/
def bytesOfWords (ws : List Word) : List Byte := ws.flatMap (fun w => bytesOfNat 4 w.toNat)

end Sys2Proof.Claims

/-- R29 to R37: these words decode to these instructions. -/
def Obligations.DecodeSpecWords : Prop :=
  (∀ e ∈ specWords, decodeTableWord 32 e.1 = some e.2) ∧
  decodeTableWord 64 0xDEADBEEF_06380000 = some (.lit 7 0xDEADBEEF) ∧
  decodeTableWord 96 0x01234567_89ABCDEF_06380001 = some (.lit64 7 0x0123456789ABCDEF)

/-- Every well-formed instruction, with every operand the encoding admits, is read back from its words, whatever bytes follow. -/
def Obligations.DecodeEncode : Prop :=
  ∀ (i : Instr) (rest : List Byte), i.isWord = true → i.wellFormed = true →
    decode (bytesOfWords (encode i) ++ rest) = .ok (i, rest)

/-- R29 and R38 the other way: a word that is decoded stands for a well-formed instruction whose encoding is that word but for its tie bit, so that
no other word means it and a word with a field that must be 0 means nothing; and MAJ 0x0F and 0x3D to 0x3F stand for no instruction. -/
def Obligations.DecodedWordIsItsEncoding : Prop :=
  (∀ (w : Word) (ls : List Word) (i : Instr), decodeWord w ls = .ok i →
    i.isWord = true ∧ i.wellFormed = true ∧ (encode i).head? = some (w &&& 0x7FFFFFFF) ∧ (encode i).tail = ls.take (i.words - 1)) ∧
  (∀ (w : Word) (ls : List Word), w.toNat / 2 ^ 25 % 64 = 0x0F ∨ 0x3D ≤ w.toNat / 2 ^ 25 % 64 → ∃ e, decodeWord w ls = .error e) ∧
  ∀ (w : Word) (ls : List Word), decodeWord (w ||| 0x80000000) ls = decodeWord w ls

/-! ## Steps (R4, R15 to R18, R22, R38, R100) -/

namespace Sys2Proof.Claims

/-- The waves `ns` try their groups one after another, each where it can still issue. -/
noncomputable def tries (ns : List Nat) (s : State) : Out :=
  ns.foldl (fun o n => thenDo o (fun t => if t.canIssue n then issue exec t n else .next t)) (.next s)

/-- The scheduled core `c` gives its turn to the waves `ns`, of its waves whose groups can issue (R160); the others' groups are held first, and `b`
is the state with the turn accounted for. -/
def issues (s : State) (c : CoreId) (ns : List Nat) (b : State) : Prop :=
  let s0 : State := { s with schedule := s.schedule.tail }
  let mine := s0.onCore c s.readyWaves
  let ready := mine.filter (s0.readyNow exec)
  s0.turns2 c ready = ns ∧ ∃ h, tries (mine.filter (fun n => n ∉ ready)) s0 = .next h ∧ b = h.turn c ready ns

/-- The running entry of wave `n`, which can issue, is chosen, and its packet `p` is there or is fetched: the state before its tie group. -/
def holdsPacket (b : State) (n : Nat) (p : Packet) (s1 : State) : Prop :=
  b.canIssue n = true ∧ ∃ w, (b.wave n).pick = some w ∧
    let s0 : State := { b.setWave n w with cur := n, relief := b.relief.filter (· ≠ .wave n) }
    (w.run.buf = some p ∧ s1 = s0) ∨ (w.run.buf = none ∧ s0.fetch = .ok (s1, p))

/-- The bytes of the packet from word `k` on: those at the program counter. -/
def bytesFrom (p : Packet) (k : Nat) : List Byte := bytesOfWords ([p.w0, p.w1, p.w2].drop k)

/-- What follows a word, which `s1` stood before and `t` after: a word that waits makes the whole group wait, as in `s0`, where it would wait
there too, and stands where it waits only for what its own group has begun (R20; log entry 16); else the next word of the tie group is
executed, or the group is over. -/
noncomputable def afterWord (s0 s1 : State) (p : Packet) (left : Nat) (t : State) : Out :=
  if t.me.held ∨ t.me.locked then .next (if waitsBefore exec p s0 s1 then s0.groupWaits t else t)
  else if s1.goesOn t then issueGroup exec p s0 left t
  else .next t

/-- The outcome `o` of a group is what the wave makes of the word at the run's address in `s1`, after the wave's step of slip (R109), after the launch
entry of R338 and with the word in `ir`, and then `f`: the decoded instruction is executed (`WordsSlip` says for which lane groups at once). Bytes
that R38 gives to no instruction are executed as ILLEGAL_OP, and `lit` without its words in the packet is ILLEGAL_PACKET, every lane group
having caught up. -/
def runsDecoded (o : Out) (s1 : State) (p : Packet) (f : State → Out) : Prop :=
  let k := wordIndex s1.me.run.pc
  let s2 : State := { ((s1.keepSlip exec (p.word k)).beforeWord (p.word k)).launchEntry with ir := p.word k }
  let d := s2.drainLag exec s2.cur
  (∀ i rest, decode (bytesFrom p k) = .ok (i, rest) → d.me.shadow = [] → o = thenDo (runWord exec i s2) f) ∧
  (∀ e, decode (bytesFrom p k) = .error e → e ≠ .literal → o = thenDo (exec (.illegalOp (p.word k)) d) f) ∧
  (decode (bytesFrom p k) = .error .literal → o = f (d.trapAt d.cur 0x02 (p.w0.zeroExtend 64) d.me.run.pc))

/-- No lane group has a word still to execute. -/
def groupsLevel (s : State) : Prop := s.me.lag = [] ∧ ∀ e ∈ s.liveWaves, e.2.lag = []

end Sys2Proof.Claims

/-- A STEP RUNS THE DECODED INSTRUCTION: with nothing in the inbox and a core scheduled, if the bytes at the program counter of the wave whose turn it
is decode to `i`, the step is `exec i`, then the rest of its tie group, what follows every group (R101), and the cycle's end. -/
def Sys2Proof.Claims.StepRunsWord : Prop :=
  ∀ (s b s1 : State) (c : CoreId) (n : Nat) (p : Packet),
    s.inbox = [] → s.power = true → s.schedule.head? = some c → issues s c [n] b → holdsPacket b n p s1 →
    s1.me.shadow = [] →
    runsDecoded (step s) s1 p (fun t => thenDo (afterWord s1 s1 p 2 t) (fun u => .next (u.afterGroup.lagTime exec).pass))

/-- Each further word of a tie group is the decoded instruction too (R15, R20); and where an M-core gives a second wave a turn in the same cycle
(R160), its group follows that of the first. -/
def Sys2Proof.Claims.GroupRunsWords : Prop :=
  (∀ (s0 s1 : State) (p : Packet) (left : Nat), s1.me.shadow = [] →
    runsDecoded (issueGroup exec p s0 (left + 1) s1) s1 p (afterWord s0 s1 p left)) ∧
  ∀ (s b : State) (c : CoreId) (n m : Nat),
    s.inbox = [] → s.power = true → s.schedule.head? = some c → issues s c [n, m] b →
    step s = thenDo (tries [n, m] b) (fun u => .next (u.lagTime exec).pass)

/-- R109, with the model's choices of log entry 104: the word's instruction is executed by every lane group at once where none is behind and %slip is
0, or the word is none that lane groups pass one by one; what gives a scalar, a lane barrier (R110) and every word outside the vector unit but
scalar arithmetic and branches find all of them level. Otherwise every lane group executes it, before or after they have caught up, or those that
are up with it execute it and the lanes `late` are left behind. After the step before a lane word none is as many words behind as %slip. -/
def Sys2Proof.Claims.WordsSlip : Prop :=
  ∀ (i : Instr) (s : State),
    (groupsLevel s → s.me.sr.slip = 0 ∨ slips s.ir = false → runWord exec i s = exec i s) ∧
    (groupsLevel s → s.drainLag exec s.cur = s ∧ s.drainLags exec = s ∧ ∀ x, s.keepSlip exec x = s) ∧
    (slips s.ir = false → leavesLag s.ir = false → runWord exec i s = exec i (s.upTo exec i)) ∧
    (∀ u, runWord exec i s = .next u →
      (∃ t, (t = s ∨ t = { s with fresh := s.fresh + 1 }) ∧
        (exec i t = .next u ∨ exec i (t.drainLag exec s.cur) = .next u ∨ exec i (t.upTo exec i) = .next u)) ∨
      ∃ (t : State) (late : BitVec 64) (a b : State), t = { s with fresh := s.fresh + 1 } ∧ late ≠ 0 ∧ late &&& ~~~s.me.run.mask = 0 ∧
        s.me.sr.slip ≠ 0 ∧ exec i (t.drainLag exec s.cur) = .next a ∧
        exec i (t.setMe { t.me with run := { t.me.run with mask := t.me.run.mask &&& ~~~late } }) = .next b ∧ u = t.leave i late a b) ∧
    ∀ x, laneWord x = true → s.me.lag.Pairwise (fun e f => f.steps < e.steps) →
      ∀ e ∈ (s.keepSlip exec x).me.lag, e.steps < s.me.sr.slip.toNat

/-- An act that is to come next is done, then what follows every act; a word of a wave is no act. Without power only POWER_ON acts, and
with nothing to come the package is stuck (R4, R359). An act finds the lane groups of every wave level (log entry 104). -/
def Sys2Proof.Claims.StepActs : Prop :=
  ∀ (s : State),
    (∀ i rest, s.inbox = i :: rest → i.isWord = false → s.power = true ∨ i = .powerOn →
      step s = afterAct (exec i (({ s with inbox := rest } : State).drainLags exec))) ∧
    (∀ i rest, s.inbox = i :: rest → i.isWord = true ∨ (s.power = false ∧ i ≠ .powerOn) →
      step s = .next { s with inbox := rest }) ∧
    (s.inbox = [] → s.power = false → step s = .fault .noPower)

/-- A STEP RUNS THE DECODED INSTRUCTION, and an act that is to come (R4, R15 to R18, R22, R100, R359). -/
def Obligations.StepRunsDecoded : Prop := StepRunsWord ∧ GroupRunsWords ∧ WordsSlip ∧ StepActs

/-- R38 and R25: a word that stands for no instruction raises ILLEGAL_OP at its address, with the word in %tinfo; `iret`, `mtsrp`, `segld`,
`tlbinv` and `halt` are not of that kind. -/
def Sys2Proof.Claims.IllegalOp : Prop :=
  ∀ (s : State) (w : Word), exec (.illegalOp w) s = .next (s.trapAt s.cur 0x01 (w.zeroExtend 64) s.me.run.pc)

/-- R26, R28, R38 and R333: taking a trap, where it is delivered and where it is not. -/
def Obligations.TrapEntry : Prop := TrapDelivered ∧ TrapUndelivered ∧ IllegalOp

/-- The package is never stuck in an instruction: whatever the instruction and the state, exec answers a next state, and step does while there
is power. -/
def Obligations.NothingIsRefused : Prop :=
  (∀ (i : Instr) (s : State), ∃ t, exec i s = .next t) ∧
  (∀ s : State, s.power = true ∨ s.inbox ≠ [] → ∃ t, step s = .next t)

/-! ## Invariants and reset (R166, R359) -/

/-- The memories of the state after reset are in canonical form. -/
def Sys2Proof.Claims.ResetMemory : Prop := State.reset.MemOk

/-- Every step keeps every memory in its canonical form. -/
def Obligations.StepKeepsMemory : Prop := ∀ s t : State, s.MemOk → step s = .next t → t.MemOk

/-- R359, R329, R336, R357 and R37: right after power-on no wave, gang, queue or partition exists; %time is 0; die memory, the scratchpads and
GDDR-7 list nothing, STATE is 0, and every register of every aperture but ID, DROPMAP and TOPO_BASE reads 0; the caches and the TLBs are empty. -/
def Sys2Proof.Claims.ResetValues : Prop :=
  let s := State.reset
  s.waves = [] ∧ s.gangs = [] ∧ s.stash = [] ∧ s.queues = [] ∧ s.time = 0 ∧ s.gddr = [] ∧ s.transfers = [] ∧ s.keys = [] ∧
  (∀ p : Fin 8, (s.partn p).made = false ∧ (s.partn p).gwarn = 10000000) ∧
  (∀ (d : Fin 4) (q : Fin 36), (s.quad d q).scratch = [] ∧ (s.die d).mem = [] ∧ (s.die d).state = 0) ∧
  (∀ d : Fin 4, ∀ off ∈ [0x0100, 0x0108, 0x0110, 0x0118, 0x0120, 0x0200, 0x0300, 0x0400, 0x0408, 0x0800, 0x0808], s.regRead d off = 0) ∧
  ∀ c : CoreId, (s.core c).tlb = [] ∧ (s.core c).l1 = [] ∧ (s.core c).owner = none

/-- R359: the state right after reset, its memories in canonical form. -/
def Obligations.ResetState : Prop := ResetValues ∧ ResetMemory

/-! ## Vector memory (R136 to R140, R182 to R187) -/

namespace Sys2Proof.Claims

abbrev VM := VReg → SReg → Space → KReg → VMode → Instr

noncomputable def vectorLoads : List (VM × Nat) := [(.vldW, 4), (.vldH, 2), (.vldB, 1)]

noncomputable def vectorStores : List (VM × Nat) := [(.vstW, 4), (.vstH, 2), (.vstB, 1)]

/-- o_l of R138 for elements of `n` bytes: the bytes of a lane of .l are its own, so unit stride stays at s[sa] there. -/
def elementOffset (w : Wave) (sa : SReg) (sp : Space) (n : Nat) (md : VMode) (l : Lane) : Nat :=
  let o := (w.rs sa).toNat
  (match md with
    | .unit => if sp = .l then o else o + l.val * n
    | .strided i => o + l.val * w.sr.st[i].toNat
    | .indexed vb => o + (w.rv vb l).toNat
    | .scaled vb => o + (w.rv vb l).toNat * n) % 2 ^ 64

/-- The vector registers that an addressing names. -/
def indexRegs : VMode → List VReg
  | .indexed vb => [vb]
  | .scaled vb => [vb]
  | _ => []

/-- An element of `n` bytes at `o` is aligned and lies within the segment (R139). -/
def fits (w : Wave) (sp : Space) (n o : Nat) : Prop := o % n = 0 ∧ o + n ≤ (w.segment sp).limit.toNat

/-- The lanes of a list act one after another, each on the state that the one before it leaves; none where an element does not fit or an
access cannot be made. -/
noncomputable def lanesOneByOne (w : Wave) (sp : Space) (n : Nat) (off : Lane → Nat) (act : State → Lane → Option State) :
    List Lane → State → Option State
  | [], s => some s
  | l :: ls, s => by
      classical exact if fits w sp n (off l) then (act s l).bind (lanesOneByOne w sp n off act ls) else none

/-- The mask of lane `l` alone. -/
def lane (l : Lane) : BitVec 64 := (1 : BitVec 64) <<< l.val

/-- No pending transfer of the wave meets the range from the lowest to the highest byte that the lanes touch (R225). -/
def rangeFree (s : State) (k : AccKind) (sp : Space) (n : Nat) (off : Lane → Nat) (ls : List Lane) : Prop :=
  ∀ r, s.vectorRange s.me sp n (ls.map off) = some r → (if k = .load then s.me.lockLoad r else s.me.lockStore r) = .ok ()

/-- Lane `l` loads: vd[l] takes the zero-extended bytes; the load may be made anew later (R199; log entry 89). -/
def laneLoads (sp : Space) (n : Nat) (vd : VReg) (off : Lane → Nat) (s : State) (l : Lane) : Option State :=
  match s.loadAt s.me sp (lane l) l.val (off l) n with
  | .ok (s1, bs) => some ((s1.setMe (s1.me.setV vd l (BitVec.ofNat 32 (leNat bs)))).noteLoad s.me sp l vd (off l) n)
  | _ => none

/-- Lane `l` stores the low bytes of vd[l]; the gang's .q high-water mark rises (R320). -/
def laneStores (sp : Space) (n : Nat) (vd : VReg) (off : Lane → Nat) (s : State) (l : Lane) : Option State :=
  match s.storeAt s.me sp (lane l) l.val (off l) (bytesOfNat n (s.me.rv vd l).toNat) with
  | .ok s1 => some (s1.mark s1.me sp (off l + n))
  | _ => none

/-- Lane `l` does its atomic, behind the commits `before`; a poisoned word is `atomLane`'s too (R186). -/
def laneAtomics (before : List ReplCommit) (sp : Space) (op : AtomOp) (vd vb : VReg) (off : Lane → Nat) (s : State) (l : Lane) : Option State :=
  match s.atomLane before sp op vd vb l (off l) with
  | .ok s1 => some s1
  | _ => none

/-- The end of an element-wise access: %vstart is 0 and the run is at the next word. -/
def afterAccess (t : State) : State := t.setMe { t.me with sr := { t.me.sr with vstart := 0 }, run := t.me.run.past 1 }

/-- The end of a `vatom` that has made commits on REPL pages: the run goes on behind it when they are made (R203). -/
def awaitsCommits (t : State) : State :=
  t.next.setMe { t.me with run := { t.me.run with wait := some { what := .commits, order := t.seq, start := t.time } } }

/-- The lanes that are due, in ascending order (R116). -/
def dueLanes (w : Wave) (km : KReg) : List Lane := (List.finRange 64).filter (due w km)

/-- Op of R183 by the arithmetic of integers: the new value where the word changes, and the flags. -/
def atomResult (op : AtomOp) (old b c : Word) : Option Word × FpFlags :=
  match op with
  | .add => (some (BitVec.ofNat 32 (old.toNat + b.toNat)), 0)
  | .min => (some (BitVec.ofInt 32 (min old.toInt b.toInt)), 0)
  | .max => (some (BitVec.ofInt 32 (max old.toInt b.toInt)), 0)
  | .minu => (some (BitVec.ofNat 32 (min old.toNat b.toNat)), 0)
  | .maxu => (some (BitVec.ofNat 32 (max old.toNat b.toNat)), 0)
  | .and => (some (old &&& b), 0)
  | .or => (some (old ||| b), 0)
  | .xor => (some (old ^^^ b), 0)
  | .xchg => (some b, 0)
  | .cas => (if old = c then some b else none, 0)
  | .fadd => (some (f32Add old b).1, (f32Add old b).2)
  | .fmax => (some (f32Max old b).1, 0)
  | .binc => (if old.toNat < b.toNat then some (BitVec.ofNat 32 (old.toNat + 1)) else none, 0)

/-- One lane's atomic on die memory: vd[l] takes the old word, the word the new value, and %flags the flags. -/
def atomInDie (d : Fin 4) (op : AtomOp) (vd vb : VReg) (addr : Lane → Nat) (s : State) (l : Lane) : State :=
  let w := s.me
  let old : Word := BitVec.ofNat 32 (leNat ((List.range 4).map (fun i => memRead (s.die d).mem (addr l + i))))
  let r := atomResult op old (w.rv vb l) (w.rv vd l)
  let s1 := match r.1 with
    | some x => s.setDie d { s.die d with mem := memWrites (s.die d).mem (addr l) (bytesOfNat 4 x.toNat) }
    | none => s
  s1.setMe { w.setV vd l old with sr := { w.sr with flags := w.sr.flags ||| r.2 } }

end Sys2Proof.Claims

/-- R138 and R139 in every space: while every element fits and no access is refused or waits for a transfer, the lanes of Part load in ascending order, each completely before
the next, and the word completes. -/
def Sys2Proof.Claims.VectorLoadCompletes : Prop :=
  ∀ e ∈ vectorLoads, ∀ (s t : State) (vd : VReg) (sa : SReg) (sp : Space) (km : KReg) (md : VMode),
    allocated s (vd :: indexRegs md) → rangeFree s .load sp e.2 (elementOffset s.me sa sp e.2 md) (dueLanes s.me km) →
    lanesOneByOne s.me sp e.2 (elementOffset s.me sa sp e.2 md) (laneLoads sp e.2 vd (elementOffset s.me sa sp e.2 md))
      (dueLanes s.me km) s = some t →
    exec (e.1 vd sa sp km md) s = .next (afterAccess t)

/-- R138 and R139 for the stores. -/
def Sys2Proof.Claims.VectorStoreCompletes : Prop :=
  ∀ e ∈ vectorStores, ∀ (s t : State) (vd : VReg) (sa : SReg) (sp : Space) (km : KReg) (md : VMode),
    allocated s (vd :: indexRegs md) → rangeFree s .store sp e.2 (elementOffset s.me sa sp e.2 md) (dueLanes s.me km) →
    lanesOneByOne s.me sp e.2 (elementOffset s.me sa sp e.2 md) (laneStores sp e.2 vd (elementOffset s.me sa sp e.2 md))
      (dueLanes s.me km) s = some t →
    exec (e.1 vd sa sp km md) s = .next (afterAccess t) ∧ SameWave s t

namespace Sys2Proof.Claims

/-- Byte `a` of a memory after the lanes `ls` have stored elements of `n` bytes at `x l` in order: of the elements that cover it the last
one's byte, else `old`. -/
def storedByte (ls : List Lane) (n : Nat) (x : Lane → Nat) (v : Lane → Word) (old : Byte) (a : Nat) : Byte :=
  match (ls.filter (fun l => decide (x l ≤ a) && decide (a < x l + n))).getLast? with
  | some l => BitVec.ofNat 8 ((v l).toNat / 2 ^ (8 * (a - x l)))
  | none => old

end Sys2Proof.Claims

/-- R138, R166 and R169: what a vector store leaves in die memory and in the scratchpad once its stores are performed, and that no other byte of any
memory, no other wave, and of the wave only the run, %vstart and which late loads it keeps, changes. -/
def Sys2Proof.Claims.VectorStoreWritesMemory : Prop :=
  ∀ e ∈ vectorStores, ∀ (s : State) (vd : VReg) (sa : SReg) (km : KReg) (md : VMode),
    allocated s (vd :: indexRegs md) → s.me.locks = [] → s.me.late = [] →
    let w : Wave := { s.me with sr := { s.me.sr with vstart := 0 }, run := s.me.run.past 1 }
    (let o := elementOffset s.me sa .d e.2 md
     let d := (s.gang s.me.id.gang).segDie
     (s.die d).poison = [] → Mem.wf (s.die d).mem = true → (∀ l, due s.me km l = true → fits s.me .d e.2 (o l)) →
      ∃ t, exec (e.1 vd sa .d km md) s = .next t ∧ SameOthers s (settled t) ∧ (settled t).me = { w with loads := t.me.loads } ∧
        (∀ a, memRead ((settled t).die d).mem a =
          storedByte (dueLanes s.me km) e.2 (fun l => dieAddr s.me (o l)) (s.me.rv vd) (memRead (s.die d).mem a) a) ∧
        (∀ c, c ≠ d → (settled t).die c = s.die c) ∧ (∀ key a, (settled t).physByte key a = s.physByte key a) ∧
        (settled t).host = s.host ∧ (settled t).quads = s.quads ∧ (settled t).gangs = s.gangs) ∧
    (let o := elementOffset s.me sa .q e.2 md
     let c := s.me.id.place
     (s.quad c.die c.quad).poison = [] → Mem.wf (s.quad c.die c.quad).scratch = true →
     (∀ l, due s.me km l = true → fits s.me .q e.2 (o l)) →
      ∃ t, exec (e.1 vd sa .q km md) s = .next t ∧ SameOthers s (settled t) ∧ (settled t).me = { w with loads := t.me.loads } ∧
        (∀ a, ((settled t).quad c.die c.quad).byte a =
          storedByte (dueLanes s.me km) e.2 (fun l => quadAddr s.me (o l)) (s.me.rv vd) ((s.quad c.die c.quad).byte a) a) ∧
        (∀ d q, ¬ (d = c.die ∧ q = c.quad) → (settled t).quad d q = s.quad d q) ∧
        (∀ key a, (settled t).physByte key a = s.physByte key a) ∧ (settled t).host = s.host ∧ (settled t).dies = s.dies)

/-- R138 and R139: the lanes of a vector load or store, in every space, and the bytes that a store leaves in die memory and in the
scratchpad. -/
def Obligations.VectorAccessCompletes : Prop := VectorLoadCompletes ∧ VectorStoreCompletes ∧ VectorStoreWritesMemory

/-- R138 and R166 in die memory and the scratchpad: with no interlock entry, nothing poisoned and no late store to wait for, each due lane of vd takes
the zero-extended bytes that the memory holds at the segment's base plus its offset, with the lane's own late stores laid over them (R199);
nothing else changes but what the wave keeps of its late stores and loads, and the count of free choices (log entries 8 and 89). -/
def Obligations.VectorLoadReadsMemory : Prop :=
  ∀ e ∈ vectorLoads, ∀ (s : State) (vd : VReg) (sa : SReg) (km : KReg) (md : VMode), allocated s (vd :: indexRegs md) → s.me.locks = [] →
    let reads (sp : Space) (p : Lane → Place) (byte : Lane → Nat → Byte) : Prop :=
      ∃ (u : State) (t : Wave), exec (e.1 vd sa sp km md) s = .next (u.setMe t) ∧ u = { s with waves := u.waves, fresh := u.fresh } ∧
        SameOthers s u ∧
        lanesWritten { s.me with late := t.late, loads := t.loads } t vd (due s.me km)
          (fun l => quiet (BitVec.ofNat 32 (leNat (laneSees s.me (lane l) (p l) ((List.range e.2).map (byte l))))))
    (let o := elementOffset s.me sa .d e.2 md
     let x := (s.gang s.me.id.gang).segDie
     let d := s.die x
     (∀ l, due s.me km l = true → fits s.me .d e.2 (o l) ∧ d.poisoned (dieAddr s.me (o l)) e.2 = false ∧
        nonePending s.me (lane l) (.die x (dieAddr s.me (o l))) e.2 = true) →
      reads .d (fun l => .die x (dieAddr s.me (o l))) (fun l i => memRead d.mem (dieAddr s.me (o l) + i))) ∧
    (let o := elementOffset s.me sa .q e.2 md
     let c := s.me.id.place
     let q := s.quad c.die c.quad
     (∀ l, due s.me km l = true → fits s.me .q e.2 (o l) ∧ q.poisoned (quadAddr s.me (o l)) e.2 = false ∧
        nonePending s.me (lane l) (.scratch c.die c.quad (quadAddr s.me (o l))) e.2 = true) →
      reads .q (fun l => .scratch c.die c.quad (quadAddr s.me (o l))) (fun l i => q.byte (quadAddr s.me (o l) + i)))

/-- R167 and R139: an element that lies outside the .q or the .l segment switches its lane off and the word goes on; outside another
segment, and wherever it is misaligned, it traps, with %vstart at the element and the offset in %tinfo. Said of a word whose one due lane is
such an element. -/
def Obligations.VectorElementsOutOfRange : Prop :=
  ∀ e ∈ vectorLoads ++ vectorStores, ∀ (s : State) (vd : VReg) (sa : SReg) (sp : Space) (km : KReg) (md : VMode) (l : Lane),
    allocated s (vd :: indexRegs md) → dueLanes s.me km = [l] → s.me.run.kind ≠ .walk → s.me.locks = [] →
    let o := elementOffset s.me sa sp e.2 md l
    let info : DWord := BitVec.ofNat 64 (o % 2 ^ 61 + spaceCode sp * 2 ^ 61)
    let at_l : State := s.setMe { s.me with sr := { s.me.sr with vstart := BitVec.ofNat 16 l.val } }
    (o % e.2 ≠ 0 → exec (e.1 vd sa sp km md) s = .next (at_l.trapAt s.cur 0x04 info s.me.run.pc)) ∧
    (o % e.2 = 0 → (s.me.segment sp).limit.toNat < o + e.2 → sp ≠ .q → sp ≠ .l →
      exec (e.1 vd sa sp km md) s = .next (at_l.trapAt s.cur 0x05 info s.me.run.pc)) ∧
    (o % e.2 = 0 → (s.me.segment sp).limit.toNat < o + e.2 → sp = .q ∨ sp = .l →
      s.me.run.mask &&& ~~~((1 : BitVec 64) <<< l.val) ≠ 0 →
      exec (e.1 vd sa sp km md) s = .next (s.setMe { s.me with
        sr := { s.me.sr with lfm := s.me.sr.lfm ||| (1 : BitVec 64) <<< l.val, vstart := 0 }
        run := { s.me.run.past 1 with mask := s.me.run.mask &&& ~~~((1 : BitVec 64) <<< l.val) } }))

/-- R182, R183 and R185: the lanes of Act do their atomics in ascending order, in device memory (`vatom.g`), die memory and the
scratchpad, behind the commits that a REPL page's home had taken before the word; with no late store of the wave, the word completes when each
lane's access can be made, and its run goes on once its own commits are made. -/
def Sys2Proof.Claims.AtomicsComplete : Prop :=
  ∀ e ∈ ([(.vatomG, .g), (.vatomD, .d), (.vatomQ, .q)] : List ((VReg → SReg → VReg → VReg → AtomOp → Instr) × Space)),
    ∀ (s t : State) (vd va vb : VReg) (sa : SReg) (op : AtomOp), allocated s [vd, va, vb] → s.me.late = [] →
    let o := elementOffset s.me sa .g 4 (.indexed va)
    rangeFree s .atomic e.2 4 o (dueLanes s.me 0) →
    lanesOneByOne s.me e.2 4 o (laneAtomics s.repl e.2 op vd vb o) (dueLanes s.me 0) s = some t →
    exec (e.1 vd sa va vb op) s =
      .next (if t.repl.length = s.repl.length then afterAccess t else awaitsCommits (afterAccess t))

/-- R189: an atomic waits while stores of the wave are late. -/
def Sys2Proof.Claims.AtomicsWait : Prop :=
  ∀ (s : State) (vd va vb : VReg) (sa : SReg) (op : AtomOp), allocated s [vd, va, vb] → s.me.late ≠ [] →
    ∀ i ∈ [.vatomG vd sa va vb op, .vatomD vd sa va vb op, .vatomQ vd sa va vb op], exec i s = .next (s.setMe { s.me with held := true })

/-- R182 and R183 by value: `vatom.d` of any operation on die memory without poison, the lanes of Act in ascending order, each seeing what the
lanes below it have left; where the memory is another die's, no change of a sync register is on its way, which would go first (R202). -/
def Sys2Proof.Claims.AtomicOperations : Prop :=
  ∀ (s : State) (vd va vb : VReg) (sa : SReg) (op : AtomOp), allocated s [vd, va, vb] → s.me.locks = [] → s.me.late = [] →
    let o := elementOffset s.me sa .g 4 (.indexed va)
    let d := (s.gang s.me.id.gang).segDie
    (s.die d).poison = [] → d = s.me.id.place.die ∨ (s.partn s.me.id.part).updates = [] →
    (∀ l, due s.me 0 l = true → fits s.me .d 4 (o l) ∧ dieAddr s.me (o l) % 4 = 0) →
    exec (.vatomD vd sa va vb op) s =
      .next (afterAccess ((dueLanes s.me 0).foldl (atomInDie d op vd vb (fun l => dieAddr s.me (o l))) s))

/-- R182, R183 and R185: `vatom`, lane by lane. -/
def Obligations.Atomics : Prop := AtomicsComplete ∧ AtomicOperations ∧ AtomicsWait

/-! ## Translated accesses (R164, R168, R173, R176, R180, R315) -/

namespace Sys2Proof.Claims

/-- The index of a virtual address at a level of the page table (R315). -/
def levelIndex (va : Nat) : Nat → Nat
  | 0 => va / 2 ^ 39 % 512
  | 1 => va / 2 ^ 30 % 512
  | 2 => va / 2 ^ 21 % 512
  | _ => va / 2 ^ 16 % 32

/-- Entry `i` of the table at physical address `t`: eight bytes, least significant first. -/
def entryAt (s : State) (t i : Nat) : DWord := BitVec.ofNat 64 (leNat ((List.range 8).map (fun j => s.physByte [] (t + 8 * i + j))))

/-- Bits 47 to 12 of an entry as an address. -/
def frameOf (e : DWord) : Nat := e.toNat / 2 ^ 12 % 2 ^ 36 * 2 ^ 12

/-- A valid entry: V is set, and the fields that must be 0 are. -/
def valid (e : DWord) : Prop := e.getLsbD 0 = true ∧ e.toNat / 2 ^ 62 = 0 ∧ e.toNat / 2 ^ 9 % 8 = 0

/-- The page size of a leaf at a level. -/
def pageSize : Nat → Nat
  | 1 => 2 ^ 30
  | 2 => 2 ^ 21
  | _ => 2 ^ 16

/-- The walk of `va` goes through the tables `t 0` to `t k`. -/
def through (s : State) (va : Nat) (t : Nat → Nat) (k : Nat) : Prop :=
  ∀ j, j < k → valid (entryAt s (t j) (levelIndex va j)) ∧ (entryAt s (t j) (levelIndex va j)).getLsbD 1 = true ∧
    frameOf (entryAt s (t j) (levelIndex va j)) = t (j + 1)

/-- A leaf that an access of this kind from partition `p` passes (R176): the permission is set, a key slot that it names is loaded, owned by the partition and
free, and, for a store, COW is clear. -/
def passes (s : State) (p : Fin 8) (e : DWord) (store : Bool) : Prop :=
  e.getLsbD (if store then 3 else 2) = true ∧ (store = true → e.getLsbD 5 = false) ∧
  (e.getLsbD 8 = true → s.keyOwned (e.toNat / 2 ^ 48 % 2 ^ 14) p = true ∧ s.keyBusy (e.toNat / 2 ^ 48 % 2 ^ 14) = false)

/-- The key of a page: none without KEYEN, else the one that its slot holds (R180). -/
def keyOf (s : State) (e : DWord) : List DWord := if e.getLsbD 8 then s.keyValue (e.toNat / 2 ^ 48 % 2 ^ 14) else []

/-- The virtual address of byte `o` of a space: of .g and .c from the segment's base; of .l in lane `l`, where the words of the 64 lanes of a
wave are interleaved (R164, R168). -/
def virtualAt (s : State) (w : Wave) (sp : Space) (l o : Nat) : Nat :=
  match sp with
  | .g => w.seg.g.base.toNat + o
  | .c => w.seg.c.base.toNat + o
  | _ => w.seg.l.base.toNat + (w.id.wg.val * (s.gang w.id.gang).record.waves + w.id.wave.val) * 64 * w.seg.l.limit.toNat +
      o / 4 * 256 + 4 * l + o % 4

/-- The address at which an L1 holds a byte of a page: that of device memory, or above 2^48 that of the host's. -/
def l1At (e : DWord) (pa : Nat) : Nat := if e.getLsbD 7 then 2 ^ 48 + pa else pa

/-- Byte `pa` of a page in the memory behind it: host memory, or device memory under the page's key. -/
def pageByte (s : State) (e : DWord) (pa : Nat) : Byte := if e.getLsbD 7 then memRead s.host pa else s.physByte (keyOf s e) pa

/-- The byte as the wave's core sees it: its L1's copy, where it has one (R173). -/
def coreSees (s : State) (w : Wave) (e : DWord) (pa : Nat) : Byte := (lineByte (s.core w.id.place).l1 (l1At e pa)).getD (pageByte s e pa)

/-- Byte `i` of an access lies this far behind its first byte: in .l the words of a lane are 256 bytes apart (R168). -/
def spread (sp : Space) (i : Nat) : Nat := if sp = .l then i / 4 * 256 + i % 4 else i

/-- The access of `n` bytes from `va` lies in one page, whose leaf `e`, without REPL, the wave's core has or finds; `pa` is its physical
address. -/
def maps (s : State) (w : Wave) (va n : Nat) (e : TlbEntry) (pa : Nat) : Prop :=
  s.leaf w.agent va = some e ∧ va % 2 ^ 16 + n ≤ 2 ^ 16 ∧ e.pte.getLsbD 6 = false ∧ pa = frameOf e.pte + (va - e.va)

end Sys2Proof.Claims

/-- R315: the walk of an address of an assigned ASID, where the page of the topology table (R347) does not lie: through up to three tables to a
leaf of 1 GiB, 2 MiB or 64 KiB whose frame is a multiple of its size; an entry that is not valid gives no translation, nor does an address of
more than 48 bits or an ASID that is not assigned. -/
def Sys2Proof.Claims.PageWalk : Prop :=
  (∀ (s : State) (a va k : Nat) (t : Nat → Nat), (s.asid a).live = true → va < 2 ^ 48 → s.topoLeaf a va = none →
    t 0 = (s.asid a).root → through s va t k →
    let e := entryAt s (t k) (levelIndex va k)
    (1 ≤ k → k ≤ 3 → valid e → e.getLsbD 1 = false → frameOf e % pageSize k = 0 →
      (e.getLsbD 7 = true ∨ frameOf e + pageSize k ≤ 0x4100000000 ∨ 0x4100040000 ≤ frameOf e) →
      s.walk a va = some { asid := a, va := va - va % pageSize k, size := pageSize k, pte := e }) ∧
    (k ≤ 3 → ¬ valid e → s.walk a va = none)) ∧
  ∀ (s : State) (a va : Nat), 2 ^ 48 ≤ va ∨ (s.asid a).live = false → s.walk a va = none

/-- R84, R138, R164, R168, R173, R176 and R180: the bytes that a scalar load and one lane of a vector load read in .g, .c and .l are those of the
page's memory, or the L1's copies of them; .l is interleaved word by word. Of the rest of the machine only the caches may change. -/
def Sys2Proof.Claims.TranslatedLoads : Prop :=
  ∀ (s : State) (sa : SReg) (sp : Space) (e : TlbEntry) (pa : Nat), sp ∈ [Space.g, .c, .l] → s.me.locks = [] → s.me.late = [] →
    passes s s.me.id.part e.pte false →
    let reaches (l o n : Nat) : Prop :=
      maps s s.me (virtualAt s s.me sp l o) (spread sp (n - 1) + 1) e pa ∧
      (e.pte.getLsbD 7 = false → ∀ i, i < n → s.gddrPoisoned (pa + spread sp i) 1 = false)
    let bytes (n : Nat) : List Byte := (List.range n).map (fun i => coreSees s s.me e.pte (pa + spread sp i))
    (∀ (sd : SReg) (sz : Size) (off : BitVec 7),
      let o := offsetOf s.me sa off sz
      let n := width sz
      o % n = 0 → o + n ≤ (s.me.segment sp).limit.toNat → reaches 0 o n →
      ∃ t, exec (.ld sd sa sp sz off) s = .next t ∧ SameOthers s t ∧ SameMemory s t ∧
        t.me = { (s.me.setS sd (loaded sz (bytes n))).past 1 with loads := t.me.loads }) ∧
    ∀ v ∈ vectorLoads, ∀ (vd : VReg) (km : KReg) (md : VMode) (l : Lane), allocated s (vd :: indexRegs md) → dueLanes s.me km = [l] →
      let o := elementOffset s.me sa sp v.2 md l
      fits s.me sp v.2 o → reaches l.val o v.2 →
      ∃ t, exec (v.1 vd sa sp km md) s = .next t ∧ SameOthers s t ∧ SameMemory s t ∧
        lanesWritten { s.me with loads := t.me.loads } t.me vd (due s.me km)
          (fun _ => quiet (BitVec.ofNat 32 (leNat (bytes v.2))))

namespace Sys2Proof.Claims

/-- The store of the `n` low bytes of `v` at `pa` of the page of leaf `e` is made in `t`, once it is performed: these bytes of the page's memory are
those of `v`, and so are the copies of them in the core's own L1; no other byte of device memory under the page's key, of any other 32-byte unit
under any key, of host memory, die memory or a scratchpad changes. -/
def storedThere (s t : State) (sp : Space) (e : DWord) (pa n v : Nat) : Prop :=
  let host := e.getLsbD 7
  let x (i : Nat) : Nat := pa + spread sp i
  (∀ i, i < n → pageByte t e (x i) = BitVec.ofNat 8 (v / 2 ^ (8 * i)) ∧
    ∀ b, lineByte (t.core s.me.id.place).l1 (l1At e (x i)) = some b → b = BitVec.ofNat 8 (v / 2 ^ (8 * i))) ∧
  (∀ a, (∀ i, i < n → a ≠ x i) → pageByte t e a = pageByte s e a) ∧
  (∀ key a, host = true ∨ (∀ i, i < n → a / 32 ≠ x i / 32) → t.physByte key a = s.physByte key a) ∧
  (host = false → t.host = s.host) ∧ t.dies = s.dies ∧ t.quads = s.quads

end Sys2Proof.Claims

/-- R84, R138, R164, R168, R172, R173 and R176: a scalar store, and one lane of a vector store, in .g or .l. -/
def Sys2Proof.Claims.TranslatedStores : Prop :=
  ∀ (s : State) (sa : SReg) (sp : Space) (e : TlbEntry) (pa : Nat),
    sp ∈ [Space.g, .l] → s.me.locks = [] → s.me.late = [] → s.MemOk → passes s s.me.id.part e.pte true →
    let reaches (l o n : Nat) : Prop :=
      maps s s.me (virtualAt s s.me sp l o) (spread sp (n - 1) + 1) e pa ∧
      (e.pte.getLsbD 7 = false → ∀ i, i < n → pa + spread sp i < 2 ^ 38 ∧ s.gddrPoisoned (pa + spread sp i) 1 = false)
    (∀ (sd : SReg) (sz : Size) (off : BitVec 7),
      let o := offsetOf s.me sa off sz
      let n := width sz
      o % n = 0 → o + n ≤ (s.me.segment sp).limit.toNat → reaches 0 o n →
      ∃ t, exec (.st sd sa sp sz off) s = .next t ∧ SameOthers s (settled t) ∧
        (settled t).me = { s.me.past 1 with loads := t.me.loads } ∧ storedThere s (settled t) sp e.pte pa n (s.me.rs sd).toNat) ∧
    ∀ v ∈ vectorStores, ∀ (vd : VReg) (km : KReg) (md : VMode) (l : Lane), allocated s (vd :: indexRegs md) → dueLanes s.me km = [l] →
      let o := elementOffset s.me sa sp v.2 md l
      fits s.me sp v.2 o → reaches l.val o v.2 →
      ∃ t, exec (v.1 vd sa sp km md) s = .next t ∧ SameOthers s (settled t) ∧
        (settled t).me = { s.me with sr := { s.me.sr with vstart := 0 }, run := s.me.run.past 1, loads := t.me.loads } ∧
        storedThere s (settled t) sp e.pte pa v.2 (s.me.rv vd l).toNat

/-- R164, R168, R173, R176, R180 and R315: what an access of a translated space reaches. -/
def Obligations.TranslatedAccesses : Prop := PageWalk ∧ TranslatedLoads ∧ TranslatedStores

/-! ## Per-lane transfers (R136, R137) -/

namespace Sys2Proof.Claims

/-- The lanes of `m` stand at `pc` in a wave's PC table, in entries of kind `k`. -/
def lanesAt (t : Wave) (k : Kind) (m : Lane → Bool) (pc : Lane → DWord) : Prop :=
  ∀ l, m l = true → ∃ e ∈ t.run :: t.rest, e.pc = pc l ∧ e.kind = k ∧ e.mask.getLsbD l.val = true

/-- The lanes that `vbr` and `vcall` select (R136). -/
def picked (w : Wave) (km : KReg) (ng : Bool) (l : Lane) : Bool :=
  active w l && (if km = 0 then !ng else (w.rk km).getLsbD l.val != ng)

/-- A transfer of lanes: the lanes `m` of the run go to their targets, its other lanes to the next word, and every other entry keeps its
lanes; no lane is in two entries that was not before; beside the table only the link register `v` and %vstart change. -/
def splits (w t : Wave) (m : Lane → Bool) (pc : Lane → DWord) : Prop :=
  lanesAt t w.run.kind (fun l => w.run.mask.getLsbD l.val && m l) pc ∧
  lanesAt t w.run.kind (fun l => w.run.mask.getLsbD l.val && !m l) (fun _ => w.run.pc + 4) ∧
  (∀ e ∈ w.rest, ∃ x ∈ t.run :: t.rest, x.pc = e.pc ∧ x.kind = e.kind ∧ e.mask &&& ~~~x.mask = 0) ∧
  (∀ x ∈ t.run :: t.rest, ∀ l : Lane, x.mask.getLsbD l.val = true →
    w.run.mask.getLsbD l.val = true ∨ ∃ e ∈ w.rest, e.pc = x.pc ∧ e.kind = x.kind ∧ e.mask.getLsbD l.val = true)

/-- The link of a lane transfer: the low half of the address of the next word, in the lanes of `m` (R136, R137). -/
def linked (w t : Wave) (vd : VReg) (m : Lane → Bool) : Prop :=
  ∀ (r : VReg) (l : Lane), t.rv r l = if r = vd ∧ m l = true then (w.run.pc + 4).truncate 32 else w.rv r l

end Sys2Proof.Claims

/-- R136 and R137: `vbr` and `vcall` send the selected lanes to P + 12 × off, `vjr` and `vcallr` every lane of Act to its own target, the word address that
va[l] gives in the 4 GiB of the run; the calls write the link first, after the targets are read; a target that is no word address traps. -/
def Obligations.LaneTransfers : Prop :=
  (∀ (s : State) (km : KReg) (ng : Bool) (off : BitVec 18),
    let m := picked s.me km ng
    let dest : Lane → DWord := fun _ => packetTarget s.me off.toInt
    (∃ t : Wave, exec (.vbr km ng off) s = .next (s.setMe t) ∧ splits s.me t m dest ∧
      t = { s.me with sr := { s.me.sr with vstart := 0 }, run := t.run, rest := t.rest }) ∧
    (allocated s [31] → ∃ t : Wave, exec (.vcall km ng off) s = .next (s.setMe t) ∧ splits s.me t m dest ∧ linked s.me t 31 m ∧
      t = { s.me with sr := { s.me.sr with vstart := 0 }, run := t.run, rest := t.rest, v := t.v, dirty := t.dirty, hw := t.hw })) ∧
  (∀ (s : State) (vd va : VReg), allocated s [vd, va] →
    let dest (l : Lane) : DWord := BitVec.ofNat 64 (s.me.run.pc.toNat / 2 ^ 32 * 2 ^ 32 + (s.me.rv va l).toNat)
    ((∀ l, active s.me l = true → (dest l).toNat % 4 = 0) →
      (∃ t : Wave, exec (.vjr va) s = .next (s.setMe t) ∧ splits s.me t (active s.me) dest ∧
        t = { s.me with sr := { s.me.sr with vstart := 0 }, run := t.run, rest := t.rest }) ∧
      (∃ t : Wave, exec (.vcallr vd va) s = .next (s.setMe t) ∧ splits s.me t (active s.me) dest ∧ linked s.me t vd (active s.me) ∧
        t = { s.me with sr := { s.me.sr with vstart := 0 }, run := t.run, rest := t.rest, v := t.v, dirty := t.dirty, hw := t.hw })) ∧
    (∀ l, active s.me l = true → (∀ k, active s.me k = true → k < l → (dest k).toNat % 4 = 0) → (dest l).toNat % 4 ≠ 0 →
      exec (.vjr va) s = .next (s.trapAt s.cur 0x04 (dest l) s.me.run.pc) ∧
      exec (.vcallr vd va) s = .next (s.trapAt s.cur 0x04 (dest l) s.me.run.pc)))

/-! ## The matrix unit (R245 to R266) -/

namespace Sys2Proof.Claims

/-- The state once the commands of the issuing wave have taken every row step that is left to them. A command's row steps are taken at its issue
or later, as the hardware chooses (log entry 11); its rows come after those of the wave's earlier commands (R252). -/
def taken (s : State) : State := s.finishTiles s.cur

/-- The matrix unit can take a command with this id from the issuing wave (R248, R251, R256, R310): no command of the wave is held, none in
flight has the id, and their numbers lie below the next one. -/
def tileReady (s : State) (id : Fin 32) : Prop :=
  2 ≤ s.me.id.eff.toNat ∧ ((s.core s.me.id.place).owner = none ∨ (s.core s.me.id.place).owner = some s.cur) ∧
  ∀ c ∈ s.me.tiles, c.held = none ∧ (id = 0 ∨ c.id ≠ id) ∧ c.num < s.seq

/-- No entry of the interlock table and no late store keeps a command with a range from issuing (R225). -/
def lockFree (s : State) : Prop := s.me.locks = [] ∧ s.me.late = []

/-- The commands in flight that a new one depends on, by their numbers: the latest with the id of each predecessor, and the wave's previous command
where the new one has id 0 or is of format TG (R251). -/
def dependsOn (s : State) (tg : Bool) (id p1 p2 : Fin 32) : List Nat :=
  let l := (taken s).me.tiles
  let latest (p : Fin 32) : List Nat := if p = 0 then [] else ((l.filter (fun c => decide (c.id = p))).getLast?.map (·.num)).toList
  latest p1 ++ latest p2 ++ if id = 0 ∨ tg = true then (l.getLast?.map (·.num)).toList else []

/-- The command is in flight in `t` with its id; once all rows are taken, the commands `ds` that it depends on have retired with their flags merged
(R251, R253), and it holds the flags that it will merge when it retires. The wave is `w` but for its run, %vstart, %flags, its commands and its
interlock table. -/
def inFlightAfter (s t : State) (w : Wave) (ds : List Nat) (id : Fin 32) (flags : FpFlags) : Prop :=
  let l := (taken s).me.tiles
  SameOthers s t ∧ (∃ c ∈ t.me.tiles, c.id = id ∧ c.held = none ∧ c.num = s.seq) ∧
  (∃ c : TileCmd, (taken t).me.tiles = l.filter (fun x => decide (x.num ∉ ds)) ++ [c] ∧ c.id = id ∧ c.flags = flags ∧ c.held = none ∧
    c.left = 0) ∧
  (taken t).me.sr.flags = (l.filter (fun x => decide (x.num ∈ ds))).foldl (fun f x => f ||| x.flags) (taken s).me.sr.flags ∧
  ∀ u, u = t ∨ u = taken t →
    u.me = { w with run := w.run.past 1, tiles := u.me.tiles, locks := u.me.locks, sr := { w.sr with vstart := 0, flags := u.me.sr.flags } }

def inFlight (s t : State) (w : Wave) (tg : Bool) (id p1 p2 : Fin 32) (flags : FpFlags) : Prop :=
  inFlightAfter s t w (dependsOn s tg id p1 p2) id flags

/-- The issuing wave's core, and one that it owns. -/
def unit (s : State) : Core := s.core s.me.id.place
def owned (s : State) (c : Core) : Core := { c with owner := some s.cur, freeing := false }

/-- The type of an accumulator under a format pair (R240): I32 for I8 and I4. -/
def typeFor (w : Wave) : AccType := if w.sr.gf.toNat = 6 ∨ w.sr.gf.toNat = 10 then .i32 else .f32

/-- Element (i, j) of an accumulator; a dead one reads 0 (R249). -/
def element (a : Accum) (i : Nat) (j : Fin 64) : Word := if a.live then look 0 a.el (64 * i + j.val) else 0

/-- Rows of an accumulator: 128 on an M-core, 16 on an E-core (R249). -/
def tileRows (s : State) : Nat := if 2 ≤ s.me.id.place.core.val then 16 else 128

/-- The lanes of `tvget` and `tvset`: those of Act below %vn (R264). -/
def tileLane (w : Wave) (l : Lane) : Bool := active w l && decide (l.val < w.sr.vn.toNat)

end Sys2Proof.Claims

/-- R258, R264, R265, R266 and R253: `tzero` gives an accumulator of the format's type, live, and all 0; `tfree` makes it dead, and with the last one the
weights go and the unit is given up; `tvget` and `tvset` move a row, as the wave's earlier commands leave it; `twait` goes on when no command it
names is in flight; and a command that retires takes the rows that are left to it, merges its flags and frees its id and its interlock entry. -/
def Obligations.TileAccumulators : Prop :=
  (∀ (s : State) (ad : Fin 4) (id p1 p2 : Fin 32), tileReady s id →
    let x := unit (taken s)
    ∃ t, exec (.tzero ad id p1 p2) s = .next t ∧ inFlight s t s.me false id p1 p2 0 ∧
      unit t = { owned s x with acc := x.acc.set ad { Accum.dead with live := true, type := typeFor s.me } }) ∧
  (∀ (s : State) (ad : Fin 4) (id : Fin 32), tileReady s id →
    let x := unit (taken s)
    let acc := x.acc.set ad Accum.dead
    ∃ t, exec (.tfree ad id) s = .next t ∧ inFlight s t s.me true id 0 0 0 ∧
      ((∀ i : Fin 4, acc[i].live = false) →
        unit t = { owned s x with acc, shadow := .empty, active := .empty, fresh := false, freeing := true }) ∧
      ((∃ i : Fin 4, acc[i].live = true) → unit t = { owned s x with acc })) ∧
  (∀ (s : State) (vd : VReg) (ad : Fin 4) (sb : SReg) (id : Fin 32), tileReady s id → allocated s [vd] →
    let x := unit (taken s)
    let a := x.acc[ad]
    let r := (s.me.rs sb).toNat
    r < tileRows s →
    (∃ t w, exec (.tvget vd ad sb id) s = .next t ∧ inFlight s t w true id 0 0 0 ∧ unit t = owned s x ∧
      (∀ l, w.rv vd l = if tileLane s.me l then (if a.pois then 0 else element a r l) else s.me.rv vd l) ∧
      (∀ v, v ≠ vd → w.v[v] = s.me.v[v]) ∧
      (∀ l : Lane, w.sr.pmask.getLsbD l.val = (s.me.sr.pmask.getLsbD l.val || (a.pois && tileLane s.me l))) ∧
      w = { s.me with v := w.v, dirty := w.dirty, hw := w.hw, sr := { s.me.sr with pmask := w.sr.pmask } }) ∧
    (a.live = false ∨ a.type = typeFor s.me →
      ∃ t b, exec (.tvset vd ad sb id) s = .next t ∧ inFlight s t s.me true id 0 0 0 ∧
        unit t = { owned s x with acc := x.acc.set ad b } ∧ b.live = true ∧ b.type = typeFor s.me ∧
        (∀ i (j : Fin 64), element b i j = if i = r ∧ tileLane s.me j = true then s.me.rv vd j else element a i j) ∧
        b.hm = max (if a.live then a.hm else 0) (r + 1) ∧ b.hn = max (if a.live then a.hn else 0) s.me.sr.vn.toNat)) ∧
  (∀ (s : State) (id : Fin 32), 2 ≤ s.me.id.eff.toNat → (∀ c ∈ s.me.tiles, c.held = none → id ≠ 0 ∧ c.id ≠ id) →
    exec (.twait id) s = .next (s.setMe (s.me.past 1))) ∧
  (∀ (s : State) (n : Nat) (c : TileCmd), (s.wave n).live = true → (s.gang (s.wave n).id.gang).engines = true →
    (s.wave n).tiles.find? (fun x => x.held.isNone) = some c →
    let r := s.rowSteps n c c.left
    ∃ t, exec (.tileCommandRetire n) s = .next t ∧
      (t.wave n).sr = { (s.wave n).sr with flags := (s.wave n).sr.flags ||| r.2.flags } ∧
      (c.left = 0 → r.2.flags = c.flags ∧ r.1 = s) ∧
      (t.wave n).tiles = (s.wave n).tiles.filter (fun x => x.num ≠ c.num) ∧
      (t.wave n).locks = (s.wave n).locks.filter (fun x => x.owner ≠ c.num))

namespace Sys2Proof.Claims

/-- base + i × stride, wrapping (R246). -/
def rowOff (base stride : DWord) (i : Nat) : Nat := (base.toNat + i * stride.toNat) % 2 ^ 64

/-- Element `k` of the .q row at offset `o`, of `h` half bytes (R230, R246). -/
def qElement (s : State) (o h k : Nat) : Nat :=
  let q := s.quad s.me.id.place.die s.me.id.place.quad
  let a := quadAddr s.me (o + k * h / 2)
  if h = 1 then (q.byte a).toNat / 16 ^ (k % 2) % 16 else leNat ((List.range (h / 2)).map (fun i => q.byte (a + i)))

/-- `rows` rows of `len` bytes lie in the .q segment, aligned to the element (R254). -/
def rowsFit (w : Wave) (sp : Space) (base stride : DWord) (align rows len : Nat) : Prop :=
  base.toNat % align = 0 ∧ stride.toNat % align = 0 ∧ ∀ i, i < rows → rowOff base stride i + len ≤ (w.segment sp).limit.toNat

/-- The bytes of `n` elements of `h` half bytes. -/
def rowLen (n h : Nat) : Nat := (n * h + 1) / 2

/-- A block format (R64). -/
def isBlock (fm : Nat) : Prop := fm = 7 ∨ fm = 8

/-- Blocks that hold an unmasked element. -/
def blocks (n : Nat) : Nat := (n + 31) / 32

/-- A PW2 code with a reserved term (R64). -/
def badPw2 (x : Nat) : Prop := x % 16 = 15 ∨ x / 16 % 16 = 15

/-- What `tldw` may meet nowhere in what it reads: a reserved code or a reserved scale (R66). -/
def weightsClean (s : State) (o : DWord) : Prop :=
  let w := s.me
  let fm := w.sr.gf.toNat
  (wgtFmt fm = .pw2 → ∀ k j, k < w.sr.vk.toNat → j < w.sr.vn.toNat → ¬ badPw2 (qElement s (rowOff o w.sr.tldb k) 2 j)) ∧
  (isBlock fm → ∀ b j, b < blocks w.sr.vk.toNat → j < w.sr.vn.toNat → qElement s (rowOff o w.sr.tldb (w.sr.gk.toNat + b)) 2 j ≠ 255)

/-- The codes of activation row `i`, and its block scales. -/
def rowCodes (s : State) (o : DWord) (i : Nat) : List Nat :=
  (List.range s.me.sr.vk.toNat).map (qElement s (rowOff o s.me.sr.tlda i) (actFmt s.me.sr.gf.toNat).halves)

noncomputable def rowScales (s : State) (o : DWord) (i : Nat) : List Nat :=
  by classical exact if isBlock s.me.sr.gf.toNat then
    (List.range (blocks s.me.sr.vk.toNat)).map (qElement s (rowOff o s.me.sr.tlda i + s.me.sr.gk.toNat) 2) else []

/-- The bank that the next `tmma` uses: the tile loaded last (R250). -/
def weights (s : State) : Bank := if (unit s).fresh then (unit s).shadow else (unit s).active

/-- The `tmma` commands in flight that read the bank that is not active, by their numbers: those before the one that made the other bank active
(R250). -/
def otherReaders (s : State) : List Nat :=
  ((taken s).me.tiles.filter (fun c => decide (c.op = .mma ∧ c.num < (unit (taken s)).turned))).map (·.num)

end Sys2Proof.Claims

/-- R259 and R250: `tldw` of a tile without a reserved code completes: once its rows are taken, each `tmma` that reads the bank it writes has retired, and
the shadow bank holds the codes of the vk × vn elements and, for a block format, the scales, with the format and the grants that it was loaded
under; nothing else changes but what every command changes. -/
def Obligations.TileWeights : Prop :=
  ∀ (s : State) (sa : SReg) (id p1 p2 : Fin 32), tileReady s id → lockFree s →
    let w := s.me
    let u := taken s
    let fm := w.sr.gf.toNat
    let h := (wgtFmt fm).halves
    let o := w.rs sa
    w.sr.vk ≠ 0 → w.sr.vn ≠ 0 → w.sr.vn.toNat ≤ 256 →
    rowsFit w .q o w.sr.tldb (max (h / 2) 1) w.sr.vk.toNat (rowLen w.sr.vn.toNat h) →
    (isBlock fm → ∀ b, b < blocks w.sr.vk.toNat → rowOff o w.sr.tldb (w.sr.gk.toNat + b) + w.sr.vn.toNat ≤ w.seg.q.limit.toNat) →
    weightsClean u o →
    ∃ t b, exec (.tldw sa id p1 p2) s = .next t ∧ inFlightAfter s t w (dependsOn s false id p1 p2 ++ otherReaders s) id 0 ∧ (taken t).quads = u.quads ∧ (taken t).dies = u.dies ∧
      unit (taken t) = { owned s (unit u) with shadow := b, fresh := true } ∧
      b.complete = true ∧ b.wf = (wgtFmt fm).code ∧ b.lgk = w.sr.gk.toNat ∧ b.lgn = w.sr.gn.toNat ∧ b.lvk = w.sr.vk.toNat ∧
      b.lvn = w.sr.vn.toNat ∧
      (∀ k j, k < w.sr.vk.toNat → j < w.sr.vn.toNat → look 0 b.w (256 * k + j) = qElement u (rowOff o w.sr.tldb k) h j) ∧
      (isBlock fm → ∀ x j, x < blocks w.sr.vk.toNat → j < w.sr.vn.toNat →
        look 0 b.sc (256 * x + j) = qElement u (rowOff o w.sr.tldb (w.sr.gk.toNat + x)) 2 j)

namespace Sys2Proof.Claims

/-- Exponent and fraction bits of a floating-point element format (R58). -/
def floatBits : EltFmt → Option (Nat × Nat)
  | .bf16 => some (8, 7)
  | .f16 => some (5, 10)
  | .f8a => some (4, 3)
  | .f8b => some (5, 2)
  | .f32 => some (8, 23)
  | _ => none

/-- The value of a finite code with `ex` exponent and `fr` fraction bits (R58). -/
noncomputable def codeValue (ex fr x : Nat) : ℝ :=
  (if x / 2 ^ (ex + fr) % 2 = 1 then -1 else 1) * magnitude ex fr (x % 2 ^ (ex + fr))

/-- The code is neither an infinity nor a NaN. -/
def codeFinite (ex fr x : Nat) : Prop := x / 2 ^ fr % 2 ^ ex ≠ 2 ^ ex - 1

/-- A four-bit term of a PW2 weight: ±2^e, and 0 for e = 7 (R64). -/
def pw2Part (t : Nat) : Int := if t % 8 = 7 then 0 else (if t / 8 % 2 = 1 then -1 else 1) * 2 ^ (t % 8)

/-- The number of an integer code (R62 to R64). -/
def codeNumber (f : EltFmt) (x : Nat) : Int :=
  match f with
  | .pw2 => pw2Part (x / 16 % 16) + pw2Part (x % 16)
  | .i4 => if x % 16 < 8 then (x % 16 : Nat) else (x % 16 : Nat) - 16
  | _ => if x % 256 < 128 then (x % 256 : Nat) else (x % 256 : Nat) - 256

/-- R71 and R72: the value `y` is `x` with the products of `n` elements added, in groups of `p`, each group rounded once with the accumulator so far;
`m` elements are counted, those from `n` on contributing +0 (R75). `f` and `h` are the exponent and fraction bits of the two formats. Said while
the accumulator and the codes are finite. -/
def floatSum (f h : Nat × Nat) (p n m : Nat) (a b : Nat → Nat) (x y : Word) : Prop :=
  (∀ k, k < n → codeFinite f.1 f.2 (a k) ∧ codeFinite h.1 h.2 (b k)) →
  ∃ c : Nat → Word, c 0 = x ∧ c (m / p) = y ∧ ∀ g, g < m / p → IsFinite (c g) →
    let ks := (List.range p).map (fun i => p * g + i)
    ∃ fl, Rounds (value (c g) + (ks.map (fun k => if k < n then codeValue f.1 f.2 (a k) * codeValue h.1 h.2 (b k) else 0)).sum)
      (signOf (c g) && ks.all (fun k => decide (k < n) && (decide (a k / 2 ^ (f.1 + f.2) % 2 = 1) != decide (b k / 2 ^ (h.1 + h.2) % 2 = 1))))
      (c (g + 1), fl)

/-- R73: the value `y` is `x` with the exact integer sum of each block of 32, scaled by 2^(ea + ew − 254), added and rounded block by block. -/
def blockSum (fm n m : Nat) (a b ea ew : Nat → Nat) (x y : Word) : Prop :=
  ∃ c : Nat → Word, c 0 = x ∧ c (m / 32) = y ∧ ∀ g, g < m / 32 → IsFinite (c g) →
    let i : Int := (((List.range n).filter (fun k => k / 32 = g)).map (fun k => codeNumber (actFmt fm) (a k) * codeNumber (wgtFmt fm) (b k))).sum
    ∃ fl, Rounds (value (c g) + (i : ℝ) * 2 ^ ((ea g : ℤ) + ew g - 254)) false (c (g + 1), fl)

end Sys2Proof.Claims

/-- R260 and R71 to R75: `tmma` on a complete bank of its format and grant completes: once its rows are taken, element (i, j) for i < vm and j < the
bank's valid columns is combined with row i and column j over the smaller of the two valid counts of k, and the other elements stay. In a
floating-point format the products of eight k, of one for F32, are added to the accumulator with one rounding; in a block format the
exact sum of a block, scaled, is; in an integer format the exact sum of all is added, wrapping. -/
def Sys2Proof.Claims.TileMultiply : Prop :=
  ∀ (s : State) (ad : Fin 4) (sa : SReg) (id p1 p2 : Fin 32), tileReady s id → lockFree s →
    let w := s.me
    let u := taken s
    let fm := w.sr.gf.toNat
    let h := (actFmt fm).halves
    let o := w.rs sa
    let b := weights u
    let a := (unit u).acc[ad]
    let m := w.sr.gk.toNat
    let n := min w.sr.vk.toNat b.lvk
    w.sr.vm ≠ 0 → w.sr.vk ≠ 0 → b.lvn ≤ 64 →
    b.complete = true → b.wf = (wgtFmt fm).code → b.lgk = m → m ≠ 0 → (a.live = false ∨ a.type = typeFor w) →
    rowsFit w .q o w.sr.tlda (max (h / 2) 1) w.sr.vm.toNat (rowLen w.sr.vk.toNat h) →
    (isBlock fm → ∀ i, i < w.sr.vm.toNat →
      rowOff o w.sr.tlda i + m + blocks w.sr.vk.toNat ≤ w.seg.q.limit.toNat ∧ 255 ∉ rowScales u o i) →
    ∃ t x fl, exec (.tmma ad sa id p1 p2) s = .next t ∧ inFlight s t w false id p1 p2 fl ∧ (taken t).quads = u.quads ∧
      (unit (taken t)).acc = (unit u).acc.set ad x ∧ x.live = true ∧ x.type = typeFor w ∧ (unit (taken t)).fresh = false ∧
      (∀ (i : Nat) (j : Fin 64), ¬ (i < w.sr.vm.toNat ∧ j.val < b.lvn) → element x i j = element a i j) ∧
      ∀ (i : Nat) (j : Fin 64), i < w.sr.vm.toNat → j.val < b.lvn →
        let code (k : Nat) : Nat := (rowCodes u o i).getD k 0
        let weight (k : Nat) : Nat := look 0 b.w (256 * k + j.val)
        element x i j = (tileDot fm (element a i j) ((rowCodes u o i).take n) ((List.range n).map weight) (rowScales u o i)
          ((List.range (m / 32)).map (fun k => look 0 b.sc (256 * k + j.val))) m).1 ∧
        (∀ f h, floatBits (actFmt fm) = some f → floatBits (wgtFmt fm) = some h → m % 8 = 0 → n ≤ m →
          floatSum f h (if fm = 9 then 1 else 8) n m code weight (element a i j) (element x i j)) ∧
        (isBlock fm → m % 32 = 0 → n ≤ m →
          blockSum fm n m code weight (fun k => (rowScales u o i).getD k 0) (fun k => look 0 b.sc (256 * k + j.val)) (element a i j)
            (element x i j)) ∧
        (fm = 6 ∨ fm = 10 → element x i j = element a i j + BitVec.ofInt 32 (((List.range n).map (fun k =>
          codeNumber (actFmt fm) (code k) * codeNumber (actFmt fm) (weight k))).sum))

/-- R255: an empty `tldw` or `tmma` retires at once. -/
def Sys2Proof.Claims.EmptyTiles : Prop :=
  ∀ (s : State) (ad : Fin 4) (sa : SReg) (id p1 p2 : Fin 32), tileReady s id →
    let w := s.me
    let u := taken s
    let fm := w.sr.gf.toNat
    let done : State := u.setMe { u.me with run := w.run.past 1, sr := { u.me.sr with vstart := 0 } }
    (w.sr.vk = 0 ∨ w.sr.vn = 0 → rowsFit w .q (w.rs sa) w.sr.tldb (max ((wgtFmt fm).halves / 2) 1) 0 0 →
      exec (.tldw sa id p1 p2) s = .next (done.setCore w.id.place (owned s (unit u)))) ∧
    (w.sr.vk = 0 ∨ w.sr.vm = 0 → rowsFit w .q (w.rs sa) w.sr.tlda (max ((actFmt fm).halves / 2) 1) 0 0 →
      exec (.tmma ad sa id p1 p2) s = .next (done.setCore w.id.place (owned s (unit u))))

/-- R260, R255 and R71 to R75: tile products, with their sums in terms of the numbers that the codes stand for. -/
def Obligations.TileProducts : Prop := TileMultiply ∧ EmptyTiles

namespace Sys2Proof.Claims

/-- Store rows in the scratchpad, the first row first. -/
def storeRows (q : Quad) (at_ : Nat → Nat) (bytes : Nat → List Byte) (n : Nat) : Quad :=
  (List.range n).foldl (fun q i => (q.store (at_ i) (bytes i)).1) q

/-- The bytes of row `i` of an output tile. -/
def outRow (a : Accum) (vn size : Nat) (conv : Word → Nat) (i : Nat) : List Byte :=
  (List.range vn).flatMap (fun j => bytesOfNat size (conv (if a.live then look 0 a.el (64 * i + j) else 0)))

/-- The header and the elements of an accumulator's image (R263). -/
def imageOf (a : Accum) (vm vn : Nat) : List Byte :=
  bytesOfNat 4 0xACC00001 ++ bytesOfNat 2 (if a.live then vm else 0) ++ bytesOfNat 2 (if a.live then vn else 0) ++
  bytesOfNat 1 (if a.live = true ∧ a.type = .i32 then 1 else 0) ++ bytesOfNat 1 (if a.live then 1 else 0) ++ List.replicate 54 0 ++
  (if a.live then (List.range vm).flatMap (fun i => outRow a vn 4 (·.toNat) i) else [])

end Sys2Proof.Claims

/-- R261 to R263: `tst` stores the words of the accumulator, `tstb` their BF16 conversions, row by row; `tadd` adds each to its word of die memory;
`tsave` stores the image and `trest` reads one back. Said of sound accumulators and memory without poison, and of the state once the rows are
taken. That `tadd` of a dead accumulator adds +0 as an F32 (log entry 93) and that FMT of its image is 0 (log entry 94) are the model's choices. -/
def Obligations.TileStores : Prop :=
  (∀ (s : State) (ad : Fin 4) (sa : SReg) (id p1 p2 : Fin 32), tileReady s id → lockFree s →
    let w := s.me
    let u := taken s
    let c := w.id.place
    let a := (unit u).acc[ad]
    let q := u.quad c.die c.quad
    let o := w.rs sa
    let vm := w.sr.vm.toNat
    let vn := w.sr.vn.toNat
    q.poison = [] → Mem.wf q.scratch = true →
    (a.pois = false → vm ≠ 0 → vn ≠ 0 → rowsFit w .q o w.sr.tldc 4 vm (4 * vn) →
      ∃ t fl, exec (.tst ad sa id p1 p2) s = .next t ∧ inFlight s t w false id p1 p2 fl ∧ unit (taken t) = owned s (unit u) ∧
        (taken t).dies = u.dies ∧
        (taken t).quad c.die c.quad = storeRows q (fun i => quadAddr w (rowOff o w.sr.tldc i)) (outRow a vn 4 (·.toNat)) vm) ∧
    (a.pois = false → vm ≠ 0 → vn ≠ 0 → rowsFit w .q o w.sr.tldc 2 vm (2 * vn) → ¬ (a.live = true ∧ a.type = .i32) →
      ∃ t fl, exec (.tstb ad sa id p1 p2) s = .next t ∧ inFlight s t w false id p1 p2 fl ∧ unit (taken t) = owned s (unit u) ∧
        (taken t).dies = u.dies ∧
        (taken t).quad c.die c.quad = storeRows q (fun i => quadAddr w (rowOff o w.sr.tldc i))
          (outRow a vn 2 (fun x => (convertFloat fmtBf16 (w.control slotBf16) (readF32 x)).1)) vm) ∧
    (a.pois = false → o.toNat % 4 = 0 → a.live = (unit s).acc[ad].live → o.toNat + (imageOf a vm vn).length ≤ w.seg.q.limit.toNat →
      ∃ t, exec (.tsave ad sa id p1 p2) s = .next t ∧ inFlight s t w false id p1 p2 0 ∧ unit t = owned s (unit u) ∧ t.dies = u.dies ∧
        t.quad c.die c.quad = (q.store (quadAddr w o.toNat) (imageOf a vm vn)).1) ∧
    (let m := qElement s (o.toNat + 4) 4 0
     let n := qElement s (o.toNat + 6) 4 0
     let live := qElement s (o.toNat + 9) 2 0
     u.quads = s.quads → o.toNat % 4 = 0 → o.toNat + 64 + 4 * m * n ≤ w.seg.q.limit.toNat → qElement s o.toNat 8 0 = 0xACC00001 →
      qElement s (o.toNat + 8) 2 0 ≤ 1 → live ≤ 1 → (∀ k, k < 54 → qElement s (o.toNat + 10) 2 k = 0) →
      m ≤ tileRows s → n ≤ (if 2 ≤ c.core.val then 16 else 64) → (live = 0 → m = 0 ∧ n = 0) →
      ∃ t x, exec (.trest ad sa id p1 p2) s = .next t ∧ inFlight s t w false id p1 p2 0 ∧ t.quads = s.quads ∧
        unit t = { owned s (unit u) with acc := (unit u).acc.set ad x } ∧
        (live = 0 → x = .dead) ∧
        (live = 1 → x.live = true ∧ x.type = (if qElement s (o.toNat + 8) 2 0 = 1 then .i32 else .f32) ∧ x.hm = m ∧ x.hn = n ∧ x.pois = false ∧
          ∀ (i : Nat) (j : Fin 64), element x i j =
            if i < m ∧ j.val < n then BitVec.ofNat 32 (qElement s (o.toNat + 64) 8 (i * n + j.val)) else 0))) ∧
  (∀ (s : State) (ad : Fin 4) (sa : SReg) (id p1 p2 : Fin 32), tileReady s id → lockFree s →
    let w := s.me
    let u := taken s
    let a := (unit u).acc[ad]
    let d := (s.gang w.id.gang).segDie
    let vm := w.sr.vm.toNat
    let vn := w.sr.vn.toNat
    let add (i j : Nat) (x : Die) : Die :=
      let p := dieAddr w (rowOff (w.rs sa) w.sr.tldc i + 4 * j)
      let old : Word := BitVec.ofNat 32 (leNat ((List.range 4).map (fun k => memRead x.mem (p + k))))
      let y : Word := if a.live then look 0 a.el (64 * i + j) else 0
      (x.store p (bytesOfNat 4 (if a.live = true ∧ a.type = .i32 then old + y else (f32Add old y).1).toNat)).1
    a.pois = false → (u.die d).poison = [] → vm ≠ 0 → vn ≠ 0 → rowsFit w .d (w.rs sa) w.sr.tldc 4 vm (4 * vn) →
    ∃ t fl, exec (.tadd ad sa id p1 p2) s = .next t ∧ inFlight s t w false id p1 p2 fl ∧ unit t = owned s (unit u) ∧ t.quads = u.quads ∧
      t.die d = (List.range vm).foldl (fun x i => (List.range vn).foldl (fun x j => add i j x) x) (u.die d))

/-! ## Copies (R226 to R236, R353) -/

namespace Sys2Proof.Claims

/-- The quad of the issuing wave, and of a transfer. -/
def myQuad (s : State) : Quad := s.quad s.me.id.place.die s.me.id.place.quad
def quadOf (s : State) (x : Transfer) : Quad := s.quad x.die x.quad

/-- The issuing wave's barrier `nb`. -/
def barrier (s : State) (nb : Fin 16) : NamedBar := (s.gang s.me.id.gang).bar s.me.id.wg.val nb

/-- A copy that signals `nb` can issue (R189, R216, R225, R227, R228): the barrier is one of the gang's and valid, the wave has no interlock entry and
no late store, and a stream of the quad is free. -/
def copyReady (s : State) (nb : Fin 16) : Prop :=
  nb.val < (s.gang s.me.id.gang).record.nbars ∧ (barrier s nb).valid = true ∧ lockFree s ∧
  ∃ i : Fin 16, ((myQuad s).stream i).busy = none

/-- Every row of a box lies in the .q segment and in the far one; `rows` and `len` are what it touches of .q. -/
def boxFits (w : Wave) (b : BoxGeom) (far : Space) (rows len : Nat) : Prop :=
  (∀ i, i < rows → rowOff b.q b.qstr i + len ≤ w.seg.q.limit.toNat) ∧
  ∀ i, i < b.vrows → rowOff b.f b.fstr i + b.validBytes ≤ (w.segment far).limit.toNat

/-- The box that a copy latches at issue: the shape of its bx field under the grants, its .q side at s[sa], its far side at s[sb] (R229). -/
def boxAt (w : Wave) (bx : Box) (q f : DWord) : BoxGeom := (w.shape bx).place q f w.sr.cpld

/-- The transfer `x` has issued with the next number: it has a stream of its own and the one interlock entry; the wave is `w` but for its run and
its interlock table, and no byte has moved yet. -/
def copyIssued (s t : State) (w : Wave) (x : Transfer) : Prop :=
  lookOpt t.transfers s.seq = some x ∧ x.wave = s.cur ∧ x.gang = s.me.id.gang ∧ x.die = s.me.id.place.die ∧
  x.quad = s.me.id.place.quad ∧ x.pc = s.me.run.pc ∧ x.row = 0 ∧ x.stop = false ∧ x.stall = none ∧
  ((myQuad s).stream x.stream).busy = none ∧ ((quadOf t x).stream x.stream).busy = some s.seq ∧
  (∃ i, t.me.locks = [i] ∧ i.owner = s.seq) ∧ SameOthers s t ∧ SameMemory s t ∧
  t.me = { w with run := w.run.past 1, locks := t.me.locks }

/-- Bits 55 to 27 of a remote address, which are 0 (R232). -/
def zeroField (a : DWord) : Nat := a.toNat / 2 ^ 27 % 2 ^ 29

/-- One more transfer is pending at the barrier. -/
def pends (s t : State) (nb : Fin 16) : Prop := barrier t nb = { barrier s nb with pend := (barrier s nb).pend + 1 }

end Sys2Proof.Claims

/-- R226 to R228, R231, R232, R234 to R236: a copy whose sides lie in their segments issues: its transfer is under way and pending at its barrier, or its
ring slot is FILLING; a put to a remote address whose zero field is not 0 raises SEGMENT instead, with the address in %tinfo (log entry 75, the
model's choice); `cp.gath` marks repeated indices, and the row of an index
that repeats is read once for all of its lanes; `cpnest.run` answers its stream, `cpnest.stop` asks the nest to end and `cpnest.stat` reads it.
When the bytes move is the model's choice (log entry 27). -/
def Obligations.CopiesIssue : Prop :=
  (∀ (s : State) (sa sb : SReg) (nb : Fin 16) (bx : Box) (xs : Far), copyReady s nb →
    let b := boxAt s.me bx (s.me.rs sa) (s.me.rs sb)
    (b.rows ≠ 0 → b.rowBytes ≠ 0 → boxFits s.me b (farSpace xs) b.rows b.rowBytes →
      ∃ t x, exec (.cpLd sa sb nb bx xs) s = .next t ∧ copyIssued s t s.me x ∧ x.kind = .ld ∧ x.far = xs ∧ x.boxes = [b] ∧ pends s t nb) ∧
    (b.vrows ≠ 0 → b.validBytes ≠ 0 → boxFits s.me b (farSpace xs) b.vrows b.validBytes →
      ∃ t x, exec (.cpSt sa sb nb bx xs) s = .next t ∧ copyIssued s t s.me x ∧ x.kind = .st ∧ x.far = xs ∧ x.boxes = [b] ∧ pends s t nb)) ∧
  (∀ (s : State) (sa sb : SReg) (nb : Fin 16) (bx : Box), copyReady s nb → 3 ≤ s.me.id.eff.toNat →
    let b := boxAt s.me bx (s.me.rs sa) (s.me.rs sb)
    s.me.sr.sig1 ≠ 0 ∨ (b.vrows ≠ 0 ∧ b.validBytes ≠ 0) →
    (∀ i, i < b.vrows → rowOff b.q b.qstr i + b.validBytes ≤ s.me.seg.q.limit.toNat) →
    (zeroField (s.me.rs sb) = 0 → (s.me.sr.sig1 ≠ 0 → zeroField s.me.sr.sig0 = 0) →
      ∃ t x, exec (.cpPut sa sb nb bx) s = .next t ∧ copyIssued s t s.me x ∧ x.kind = .put ∧ x.boxes = [b] ∧ x.sig = s.me.sr.sig0 ∧
        x.dec = s.me.sr.sig1 ∧ pends s t nb) ∧
    (zeroField (s.me.rs sb) ≠ 0 → exec (.cpPut sa sb nb bx) s = s.trap 0x05 (s.me.rs sb)) ∧
    (zeroField (s.me.rs sb) = 0 → s.me.sr.sig1 ≠ 0 → zeroField s.me.sr.sig0 ≠ 0 →
      exec (.cpPut sa sb nb bx) s = s.trap 0x05 s.me.sr.sig0)) ∧
  (∀ (s : State) (sa sb : SReg) (rg : Fin 8) (bx : Box) (xs : Far), lockFree s →
    (∃ i : Fin 16, ((myQuad s).stream i).busy = none) →
    let g := s.gang s.me.id.gang
    let r := g.ring rg
    let slot := (s.me.rs sa).toNat % r.slots
    let b := boxAt s.me bx (BitVec.ofNat 64 (r.base + slot * r.bytes)) (s.me.rs sb)
    rg.val < g.record.rings → r.made = true → r.slot slot = .reserved → ((b.rows : Int) * b.qstr.toInt ≤ r.bytes) →
    b.rows ≠ 0 → b.rowBytes ≠ 0 → boxFits s.me b (farSpace xs) b.rows b.rowBytes →
    ∃ t x, exec (.cpLdr sa sb rg bx xs) s = .next t ∧ copyIssued s t s.me x ∧ x.kind = .ldr rg slot ∧ x.boxes = [b] ∧
      ((t.gang s.me.id.gang).ring rg).slot slot = .filling ∧ ((t.gang s.me.id.gang).ring rg).ldr = r.ldr + 1) ∧
  (∀ (s : State) (kd : KReg) (vb : VReg) (sa sb : SReg) (nb : Fin 16), copyReady s nb → allocated s [vb] →
    let n := s.me.sr.cprow.toNat
    let box (l : Lane) : BoxGeom :=
      { rows := 1, elems := n, es := 2, vrows := 1, velems := n, q := s.me.rs sa + BitVec.ofNat 64 (l.val * n), qstr := 0,
        f := s.me.rs sb + BitVec.ofNat 64 ((s.me.rv vb l).toNat * s.me.sr.cpld.toNat), fstr := 0, also := [], lanes := [l.val] }
    let same (l j : Lane) : Bool := active s.me j && decide (s.me.rv vb j = s.me.rv vb l)
    let first (l : Lane) : Bool := (lanes (same l)).all (fun j => decide (l ≤ j))
    let others (l : Lane) : List Lane := lanes (fun j => same l j && decide (l < j))
    let once (l : Lane) : BoxGeom := { box l with also := (others l).map (fun j => (box j).q), lanes := l.val :: (others l).map (·.val) }
    n ≠ 0 → lanes (active s.me) ≠ [] → (∀ l, active s.me l = true → boxFits s.me (box l) .g 1 n) →
    ∃ t w x, exec (.cpGath kd vb sa sb nb) s = .next t ∧ copyIssued s t w x ∧ x.kind = .gath ∧ x.boxes = (lanes (fun l => active s.me l && first l)).map once ∧
      pends s t nb ∧ w = { s.me with k := w.k, sr := { s.me.sr with vstart := 0 } } ∧ (∀ r, r ≠ kd → w.rk r = s.me.rk r) ∧
      ∀ l : Lane, (w.rk kd).getLsbD l.val = if active s.me l then
        decide (∃ j : Lane, j < l ∧ active s.me j = true ∧ s.me.rv vb j = s.me.rv vb l) else (s.me.rk kd).getLsbD l.val) ∧
  (∀ (s s1 : State) (sd sa : SReg) (nb : Fin 16) (bs : List Byte), copyReady s nb →
    (s.me.rs sa).toNat % 128 = 0 → (s.me.rs sa).toNat + 128 ≤ s.me.seg.c.limit.toNat →
    s.loadAt s.me .c s.me.run.mask 0 (s.me.rs sa).toNat 128 = .ok (s1, bs) → badNest bs = false →
    let load : Bool := field bs 0 1 = 0
    let far : Far := if field bs 1 1 = 0 then .g else .d
    (∃ b ∈ s.me.nestBoxes bs, b.vrows ≠ 0 ∧ b.validBytes ≠ 0) →
    (∀ b ∈ s.me.nestBoxes bs, b.vrows ≤ b.rows ∧ b.velems ≤ b.elems ∧
      boxFits s.me b (farSpace far) (if load then b.rows else b.vrows) (if load then b.rowBytes else b.validBytes)) →
    ∃ t w x, exec (.cpnestRun sd sa nb) s = .next t ∧ copyIssued s1 t w x ∧ w = { s.me.setS sd (BitVec.ofNat 64 x.stream.val) with loads := w.loads } ∧
      x.kind = .nest load ∧ x.boxes = s.me.nestBoxes bs ∧ pends s t nb) ∧
  (∀ (s : State) (sd sa : SReg),
    let x := (myQuad s).stream (Fin.ofNat 16 (s.me.rs sa).toNat)
    let mine : Prop := x.stat ≠ 0 ∧ x.gang = s.me.id.gang
    (mine → exec (.cpnestStat sd sa) s = .next (s.setMe ((s.me.setS sd (BitVec.ofNat 64 (x.boxes.toNat + x.stat.val * 2 ^ 32))).past 1))) ∧
    (¬ mine → exec (.cpnestStat sd sa) s = .next (s.setMe ((s.me.setS sd 0).past 1)) ∧
      exec (.cpnestStop sa) s = .next (s.setMe (s.me.past 1))) ∧
    (mine → x.busy = none → exec (.cpnestStop sa) s = .next (s.setMe (s.me.past 1))) ∧
    (∀ n, mine → x.busy = some n → ∃ t, exec (.cpnestStop sa) s = .next t ∧ (t.xfer n).stop = true ∧ t.me = s.me.past 1 ∧
      SameOthers s t))

namespace Sys2Proof.Claims

/-- Rows of `len` bytes that start at these offsets do not meet. -/
def apart (off : Nat → Nat) (rows len : Nat) : Prop :=
  ∀ i j, i < rows → j < rows → i ≠ j → off i + len ≤ off j ∨ off j + len ≤ off i

/-- Byte `k` of `n` valid bytes, the last of which carries only its low nibble where `half` is set (R230). -/
def validByte (half : Bool) (n k : Nat) (b : Byte) : Byte :=
  if half = true ∧ k + 1 = n then BitVec.ofNat 8 (b.toNat % 16) else b

/-- One arrival at a barrier (R218). -/
def arrived (b : NamedBar) : NamedBar :=
  if b.arr + 1 = b.exp then { b with arr := 0, phase := b.phase + 1 } else { b with arr := b.arr + 1 }

/-- The slot of counter value `c + j`. -/
def slotAt (r : Ring) (c : BitVec 14) (j : Nat) : Nat := (c + BitVec.ofNat 14 j).toNat % r.slots

/-- `r1` is `r` with slot `i` published, after which FILL has advanced over every PUBLISHED slot in order, as far as RES. -/
def publishes (r r1 : Ring) (i : Nat) : Prop :=
  let st (j : Nat) : SlotState := if j = i then .published else r.slot j
  ∃ k, k ≤ r.slots ∧ (∀ j, r1.slot j = st j) ∧ r1 = { r with st := r1.st, fill := r.fill + BitVec.ofNat 14 k } ∧
    (∀ j, j < k → st (slotAt r r.fill j) = .published ∧ r.fill + BitVec.ofNat 14 j ≠ r.res) ∧
    (k < r.slots → st (slotAt r r.fill k) ≠ .published ∨ r.fill + BitVec.ofNat 14 k = r.res)

/-- Transfer `n` has no row moved of its first box, its stream is the only busy one of its quad, and no store of its wave waits to be
committed (R203, R226, R227). -/
def alone (s : State) (n : Nat) (x : Transfer) : Prop :=
  lookOpt s.transfers n = some x ∧ x.stall = none ∧ x.stop = false ∧ x.row = 0 ∧ s.commitsOf x.wave = false ∧
  ((quadOf s x).stream x.stream).busy = some n ∧ ∀ i m, ((quadOf s x).stream i).busy = some m → m = n

/-- The transfer is over: its stream and its interlock entry are free (R225, R227). -/
def ended (t : State) (n : Nat) (x : Transfer) : Prop :=
  lookOpt t.transfers n = none ∧ ((quadOf t x).stream x.stream).busy = none ∧ ∀ i ∈ (t.wave x.wave).locks, i.owner ≠ n

/-- Its barrier has one transfer less pending, with or without an arrival (R218, R226, R228). -/
def signalled (s t : State) (x : Transfer) (arrives : Bool) : Prop :=
  let o := (s.gang x.gang).bar (x.wave / 16 % 4) x.nb
  (t.gang x.gang).bar (x.wave / 16 % 4) x.nb = { (if arrives then arrived o else o) with pend := o.pend - 1 }

/-- Byte `i` of the far row at offset `o`: of die memory, or of the page in which the row starts. -/
def farByte (s : State) (x : Transfer) (o i : Nat) : Byte :=
  match x.far with
  | .d => memRead (s.die x.segDie).mem (x.fbase + o + i)
  | .g => match s.leaf x.agent (x.fbase + o) with
    | some e => pageByte s e.pte (frameOf e.pte + (x.fbase + o - e.va) + i)
    | none => 0

/-- The far row of `n` bytes at offset `o` can be read: die memory without poison, or one page, without REPL and without poison there. -/
def farReads (s : State) (x : Transfer) (o n : Nat) : Prop :=
  match x.far with
  | .d => (s.die x.segDie).poison = []
  | .g => (x.fbase + o) % 2 ^ 16 + n ≤ 2 ^ 16 ∧ ∃ e, s.leaf x.agent (x.fbase + o) = some e ∧ passes s x.part e.pte false ∧
      e.pte.getLsbD 6 = false ∧ (e.pte.getLsbD 7 = false → s.gddrPoisoned (frameOf e.pte + (x.fbase + o - e.va)) n = false)

/-- The places in the scratchpad to which a box's rows go, with the box: one, and for a gathered row one for each lane of its index (R236). -/
def spots (b : BoxGeom) : List (DWord × BoxGeom) := (b.q :: b.also).map (fun q => (q, b))

/-- The address in the scratchpad of row `i` at a place. -/
def spotRow (x : Transfer) (p : DWord × BoxGeom) (i : Nat) : Nat := x.qbase + rowOff p.1 p.2.qstr i

/-- The address in the scratchpad of row `i` of a box that has one place there. -/
def scratchRow (x : Transfer) (b : BoxGeom) (i : Nat) : Nat := spotRow x (b.q, b) i

/-- Every row of the boxes stands in the scratchpad, masked elements as 0, and no other byte of it has changed (R230, R231). -/
def boxesLoaded (s t : State) (x : Transfer) (bs : List BoxGeom) : Prop :=
  let ps := bs.flatMap spots
  (∀ p ∈ ps, ∀ i k, i < p.2.rows → k < p.2.rowBytes → (quadOf t x).byte (spotRow x p i + k) =
    if i < p.2.vrows ∧ k < p.2.validBytes then validByte p.2.nibble p.2.validBytes k (farByte s x (rowOff p.2.f p.2.fstr i) k) else 0) ∧
  ∀ a, (∀ p ∈ ps, ∀ i, i < p.2.rows → a < spotRow x p i ∨ spotRow x p i + p.2.rowBytes ≤ a) → (quadOf t x).byte a = (quadOf s x).byte a

/-- The boxes can be loaded: their rows can be read, and none of them meets another in the scratchpad, which holds no poison. -/
def loadable (s : State) (x : Transfer) (bs : List BoxGeom) : Prop :=
  let ps := bs.flatMap spots
  (quadOf s x).poison = [] ∧ Mem.wf (quadOf s x).scratch = true ∧
  (∀ b ∈ bs, b.velems ≤ b.elems ∧ ∀ i, i < b.rows → i < b.vrows → farReads s x (rowOff b.f b.fstr i) b.validBytes) ∧
  (∀ p ∈ ps, apart (rowOff p.1 p.2.qstr) p.2.rows p.2.rowBytes) ∧
  ps.Pairwise (fun p r => ∀ i j, i < p.2.rows → j < r.2.rows →
    spotRow x p i + p.2.rowBytes ≤ spotRow x r j ∨ spotRow x r j + r.2.rowBytes ≤ spotRow x p i)

/-- A row of a box stored to die memory: the byte that the scratchpad holds; a masked nibble is kept (R230). -/
def storedAt (s : State) (x : Transfer) (b : BoxGeom) (i k : Nat) : Byte :=
  let v := (quadOf s x).byte (scratchRow x b i + k)
  if b.nibble = true ∧ k + 1 = b.validBytes then
    BitVec.ofNat 8 (v.toNat % 16 + (memRead (s.die x.segDie).mem (x.fbase + rowOff b.f b.fstr i + k)).toNat / 16 * 16)
  else v

/-- The valid elements of the box stand in die memory, and nothing else of any memory has changed (R230, R231). -/
def boxStored (s t : State) (x : Transfer) (b : BoxGeom) : Prop :=
  (∀ i k, i < b.vrows → k < b.validBytes →
    memRead (t.die x.segDie).mem (x.fbase + rowOff b.f b.fstr i + k) = storedAt s x b i k) ∧
  (∀ d a, (d = x.segDie → ∀ i, i < b.vrows → a < x.fbase + rowOff b.f b.fstr i ∨ x.fbase + rowOff b.f b.fstr i + b.validBytes ≤ a) →
    memRead (t.die d).mem a = memRead (s.die d).mem a) ∧
  t.gddr = s.gddr ∧ t.host = s.host ∧ ∀ d q a, (t.quad d q).byte a = (s.quad d q).byte a

/-- The box can be stored to die memory: its rows do not meet there, and neither side holds poison. -/
def storable (s : State) (x : Transfer) (b : BoxGeom) : Prop :=
  x.far = .d ∧ (quadOf s x).poison = [] ∧ (s.die x.segDie).poison = [] ∧ Mem.wf (s.die x.segDie).mem = true ∧
  apart (rowOff b.f b.fstr) b.vrows b.validBytes

/-- The remote address of row `i` of a put. -/
def remoteRow (b : BoxGeom) (i : Nat) : Nat := rowOff b.f b.fstr i

/-- The packet carries bytes `j` on of row `i` of a put, inside one 256-byte block of the other module's die memory (R232). It goes to the partition
of the sender's number (log entry 28). -/
def carries (s : State) (x : Transfer) (b : BoxGeom) (p : PutPacket) (i j : Nat) : Prop :=
  let a := remoteRow b i
  let n := p.data.length
  p.srcMod = s.module ∧ p.srcPart = x.part ∧ p.dstPart = x.part ∧ p.dstMod.val = a / 2 ^ 58 ∧ p.die.val = a / 2 ^ 56 % 4 ∧
  p.addr = a % 2 ^ 27 + j ∧ 1 ≤ n ∧ j + n ≤ b.validBytes ∧ p.addr / 256 = (p.addr + n - 1) / 256 ∧
  p.data = (List.range n).map (fun k => ((quadOf s x).byte (scratchRow x b i + j + k), false)) ∧
  (p.half = true ↔ b.nibble = true ∧ j + n = b.validBytes)

/-- The final packet of a put (R232). -/
def finalPacket (s : State) (x : Transfer) (g : PutSig) : Prop :=
  g.srcMod = s.module ∧ g.srcPart = x.part ∧ g.dstPart = x.part ∧ g.dstMod.val = x.sig.toNat / 2 ^ 58 ∧
  g.die.val = x.sig.toNat / 2 ^ 56 % 4 ∧ g.addr = x.sig.toNat % 2 ^ 27 ∧ g.dec = x.dec

/-- A window of the destination partition admits `n` bytes at the address (R353). -/
def windowFor (s : State) (srcMod dstMod : Fin 64) (src dst : Fin 8) (die : Fin 4) (a n : Nat) : Prop :=
  (s.partn dst).made = true ∧ dstMod = s.module ∧
  ∃ x ∈ (s.partn dst).windows, x.srcMod = srcMod ∧ x.srcPart = src ∧ x.die = die ∧ x.base ≤ a ∧ a + n ≤ x.base + x.size

end Sys2Proof.Claims

/-- R218, R226, R230, R231, R234, R236 and R238: where its stream is the only busy one of its quad, COPY_COMPLETION of a load or a gather moves every row of its
boxes from die memory or from a translated page into the scratchpad, masked elements as 0, and of a store every valid element into die
memory; then the transfer is over and its barrier has its arrival, or its ring slot is published. -/
def Sys2Proof.Claims.CopiesMove : Prop :=
  (∀ (s : State) (n : Nat) (x : Transfer) (delivered : Bool), alone s n x → loadable s x x.boxes →
    (x.kind = .ld ∨ x.kind = .gath →
      ∃ t, exec (.copyCompletion n delivered) s = .next t ∧ ended t n x ∧ boxesLoaded s t x x.boxes ∧ t.dies = s.dies ∧ t.gddr = s.gddr ∧
        signalled s t x true) ∧
    (∀ (rg : Fin 8) (slot : Nat), x.kind = .ldr rg slot → s.waiters = [] →
      let r := (s.gang x.gang).ring rg
      r.slots ∈ [1, 2, 4, 8, 16, 32, 64, 128, 256] →
      ∃ t r1, exec (.copyCompletion n delivered) s = .next t ∧ ended t n x ∧ boxesLoaded s t x x.boxes ∧ t.dies = s.dies ∧ t.gddr = s.gddr ∧
        (t.gang x.gang).ring rg = { r1 with ldr := r1.ldr - 1 } ∧
        (r.slot slot = .filling → publishes r r1 slot) ∧ (r.slot slot ≠ .filling → r1 = { r with err := true }))) ∧
  (∀ (s : State) (n : Nat) (x : Transfer) (b : BoxGeom) (delivered : Bool), alone s n x → x.kind = .st → x.boxes = [b] → storable s x b →
    ∃ t, exec (.copyCompletion n delivered) s = .next t ∧ ended t n x ∧ boxStored s t x b ∧ signalled s t x true)

/-- R226, R234 and R235: each service of a nest moves its next box and counts it, the last one also ends the nest in state 2; a nest that has been
told to stop, and has no box begun, ends in state 3 and moves nothing. -/
def Sys2Proof.Claims.NestMoves : Prop :=
  (∀ (s : State) (n : Nat) (x : Transfer) (b : BoxGeom) (bs : List BoxGeom) (load delivered : Bool), alone s n x →
    x.kind = .nest load → x.boxes = b :: bs → (load = true → loadable s x [b]) → (load = false → storable s x b) →
    ∃ t, exec (.copyCompletion n delivered) s = .next t ∧ (load = true → boxesLoaded s t x [b] ∧ t.dies = s.dies ∧ t.gddr = s.gddr) ∧
      (load = false → boxStored s t x b) ∧
      ((quadOf t x).stream x.stream).boxes = ((quadOf s x).stream x.stream).boxes + 1 ∧
      (bs ≠ [] → lookOpt t.transfers n = some { x with boxes := bs, begun := false } ∧ t.waves = s.waves) ∧
      (bs = [] → ended t n x ∧ signalled s t x true ∧ ((quadOf t x).stream x.stream).stat = 2)) ∧
  (∀ (s : State) (n : Nat) (x : Transfer) (load delivered : Bool), lookOpt s.transfers n = some x → x.kind = .nest load → x.stall = none →
    x.stop = true → x.begun = false → x.boxes ≠ [] → s.commitsOf x.wave = false →
    ∃ t, exec (.copyCompletion n delivered) s = .next t ∧ ended t n x ∧ SameMemory s t ∧ signalled s t x true ∧
      ((quadOf t x).stream x.stream).stat = 3 ∧ ((quadOf t x).stream x.stream).boxes = ((quadOf s x).stream x.stream).boxes)

/-- R218, R230 and R232: a put sends every valid byte of its box in packets of one 256-byte block at most, each byte once, and then, once the other module has
taken them, its signal, if it has one, and has its arrival; where the other module has refused a packet there is no signal and no arrival. -/
def Sys2Proof.Claims.PutsSend : Prop :=
  ∀ (s : State) (n : Nat) (x : Transfer) (b : BoxGeom), alone s n x → x.kind = .put → x.boxes = [b] → (quadOf s x).poison = [] →
    (∀ i, i < b.vrows → remoteRow b i / 2 ^ 27 % 2 ^ 29 = 0 ∧ remoteRow b i % 2 ^ 27 + b.validBytes ≤ 2 ^ 27) →
    (x.out = false → (x.dec ≠ 0 → x.sig.toNat % 4 = 0) →
      ∃ (t : State) (ps : List PutPacket) (g : PutSig), exec (.copyCompletion n true) s = .next t ∧ ended t n x ∧ signalled s t x true ∧
        t.outbox = s.outbox ++ ps.map Message.put ++ (if x.dec = 0 then [] else [.signal g]) ∧ finalPacket s x g ∧
        (∀ p ∈ ps, ∃ i j, i < b.vrows ∧ carries s x b p i j) ∧
        (∀ i k, i < b.vrows → k < b.validBytes → ∃ p ∈ ps, ∃ j, carries s x b p i j ∧ j ≤ k ∧ k < j + p.data.length) ∧
        (ps.map (fun p => p.data.length)).sum = b.vrows * b.validBytes) ∧
    ∃ t, exec (.copyCompletion n false) s = .next t ∧ ended t n x ∧ signalled s t x false ∧
      ∀ m ∈ t.outbox.drop s.outbox.length, ∀ g, m ≠ .signal g

/-- R172, R232 and R353: a put's packet lands in die memory if a window admits it, and is refused otherwise; its signal takes SIGDEC from the counter.
That a signal to an address which is no multiple of 4 changes nothing is the model's choice (log entry 91). Said of die memory without poison. -/
def Sys2Proof.Claims.PutsArrive : Prop :=
  (∀ (s : State) (p : PutPacket),
    let d := (s.partn p.dstPart).physDie p.die.val
    let n := p.data.length
    (windowFor s p.srcMod p.dstMod p.srcPart p.dstPart p.die p.addr n → (s.die d).poison = [] → Mem.wf (s.die d).mem = true →
      (∀ e ∈ p.data, e.2 = false) →
      ∃ t, exec (.putPacketArrival p) s = .next t ∧ t.waves = s.waves ∧ t.quads = s.quads ∧
        (∀ k e, p.data[k]? = some e → memRead (t.die d).mem (p.addr + k) =
          if p.half = true ∧ k + 1 = n then
            BitVec.ofNat 8 (e.1.toNat % 16 + (memRead (s.die d).mem (p.addr + k)).toNat / 16 * 16) else e.1) ∧
        ∀ a, ¬ (p.addr ≤ a ∧ a < p.addr + n) → memRead (t.die d).mem a = memRead (s.die d).mem a) ∧
    (¬ windowFor s p.srcMod p.dstMod p.srcPart p.dstPart p.die p.addr n → exec (.putPacketArrival p) s = .next s)) ∧
  (∀ (s : State) (p : PutSig),
    let d := (s.partn p.dstPart).physDie p.die.val
    let word (t : State) : Word := BitVec.ofNat 32 (leNat ((List.range 4).map (fun i => memRead (t.die d).mem (p.addr + i))))
    (windowFor s p.srcMod p.dstMod p.srcPart p.dstPart p.die p.addr 4 → p.addr % 4 = 0 → (s.die d).poison = [] →
      Mem.wf (s.die d).mem = true →
      ∃ t, exec (.putSignal p) s = .next t ∧ t.waves = s.waves ∧ t.quads = s.quads ∧ word t = word s - p.dec ∧
        ∀ a, ¬ (p.addr ≤ a ∧ a < p.addr + 4) → memRead (t.die d).mem a = memRead (s.die d).mem a) ∧
    (¬ windowFor s p.srcMod p.dstMod p.srcPart p.dstPart p.die p.addr 4 ∨ p.addr % 4 ≠ 0 → exec (.putSignal p) s = .next s))

/-- R218, R226, R230 to R236 and R353: what COPY_COMPLETION, PUT_PACKET_ARRIVAL and PUT_SIGNAL do. Stores are said to die memory, and all of memory
without poison; the streams of a quad share its engine row by row (R227), and this is said of one that has it alone. When an engine serves is the
model's choice (log entry 27), and so are the partition that a packet names (log entry 28) and what becomes of a signal to an address that is no
multiple of 4 (log entry 91). -/
def Obligations.CopiesComplete : Prop := CopiesMove ∧ NestMoves ∧ PutsSend ∧ PutsArrive

/-! ## Waiting (R102, R197, R198) -/

namespace Sys2Proof.Claims

/-- The run of the issuing wave blocks: it keeps its word, behind every earlier wait of the package. -/
def blocked (s t : State) (what : Wait) : Prop :=
  t.me = { s.me with run := { s.me.run with wait := some { what, order := s.seq, start := s.time } } } ∧ SameOthers s t ∧
  t = { s with seq := s.seq + 1, waves := t.waves, domains := t.domains }

/-- An acquire at .quad or wider by the issuing wave: the L1 of its core is emptied, and no other core's (R173). -/
def acquired (s t : State) : Prop :=
  ∀ c, t.core c = if c = s.me.id.place then { s.core c with l1 := [] } else s.core c

/-- The word has taken effect: the wave is `w` at its next word, and nothing else has changed but what `t` says of gangs, cores, quads and
partitions, and the model's count of free choices. -/
def passed (s t : State) (w : Wave) : Prop :=
  t.me = w.past 1 ∧ SameOthers s t ∧
  t = { s with waves := t.waves, gangs := t.gangs, cores := t.cores, quads := t.quads, parts := t.parts, fresh := t.fresh }

/-- The word has taken effect, and an object that it changed now serves the runs that wait at it (R102): `t` is the state before that. -/
def passedThenServed (i : Instr) (s t : State) (w : Wave) : Prop := exec i s = .next t.settle ∧ passed s t w

/-- The gang of the issuing wave, and its ring and named barrier tables with one entry replaced. -/
def myGang (s : State) : Gang := s.gang s.me.id.gang
def ringOf (s : State) (rg : Fin 8) : Ring := (myGang s).ring rg
def ringBecomes (s t : State) (rg : Fin 8) (r : Ring) : Prop := t.gangs = put s.gangs s.me.id.gang ((myGang s).setRing rg r)
def barrierBecomes (s t : State) (nb : Fin 16) (b : NamedBar) : Prop :=
  t.gangs = put s.gangs s.me.id.gang ((myGang s).setBar s.me.id.wg.val nb b)

/-- The ring is one of the gang's and has been defined (R237, R238). -/
def hasRing (s : State) (rg : Fin 8) : Prop := rg.val < (myGang s).record.rings ∧ (ringOf s rg).made = true

/-- A number of slots of R237. -/
def slotCounts : List Nat := [1, 2, 4, 8, 16, 32, 64, 128, 256]

/-- No run of the gang waits on the ring in `rres`, or in `rpop`. -/
def noneReserving (s : State) (rg : Fin 8) : Prop :=
  ∀ x ∈ s.waiters, x.wave / 64 = s.cur / 64 → ∀ sd n, x.wait.what ≠ .rres sd rg n
def nonePopping (s : State) (rg : Fin 8) : Prop :=
  ∀ x ∈ s.waiters, x.wave / 64 = s.cur / 64 → ∀ sd, x.wait.what ≠ .rpop sd rg

/-- `r1` is `r` with slot `i` released, after which FREE has advanced over every RELEASED slot in order and made it FREE. -/
def releases (r r1 : Ring) (i : Nat) : Prop :=
  let st (j : Nat) : SlotState := if j = i then .released else r.slot j
  ∃ k, k ≤ r.slots ∧ r1 = { r with st := r1.st, free := r.free + BitVec.ofNat 14 k } ∧
    (∀ x, x < k → st (slotAt r r.free x) = .released ∧ r1.slot (slotAt r r.free x) = .free) ∧
    (∀ j, (∀ x, x < k → slotAt r r.free x ≠ j) → r1.slot j = st j) ∧
    (k < r.slots → st (slotAt r r.free k) ≠ .released)

/-- The fields of a ring descriptor obey R237, and its slots lie in the gang's scratchpad. -/
def ringLegal (bs : List Byte) (scratch : Nat) : Prop :=
  field bs 0 2 ∈ slotCounts ∧ field bs 2 2 = 0 ∧ field bs 4 4 % 4 = 0 ∧ field bs 4 4 ≠ 0 ∧ field bs 8 4 % 4 = 0 ∧
  field bs 8 4 + field bs 0 2 * field bs 4 4 ≤ scratch ∧ field bs 12 4 = 0

end Sys2Proof.Claims

/-- R237 and R238: the six ring instructions. `rdef` of a legal descriptor defines the ring with its counters 0; `rres` takes n slots when they are
free, else blocks; once the wave's stores are performed, `rpub` publishes a RESERVED slot and `rrel` releases a POPPED one, and in any other state each sets ERR; `rpop` takes the next
published slot, or blocks; `rstat` reads the counters; an undefined ring raises BAR_INVALID, one beyond RINGS ILLEGAL_OP. -/
def Obligations.Rings : Prop :=
  (∀ (s s1 : State) (sa : SReg) (rg : Fin 8) (bs : List Byte), rg.val < (myGang s).record.rings →
    (s.me.rs sa).toNat % 16 = 0 → (s.me.rs sa).toNat + 16 ≤ s.me.seg.c.limit.toNat →
    s.loadAt s.me .c s.me.run.mask 0 (s.me.rs sa).toNat 16 = .ok (s1, bs) → ringLegal bs (myGang s).record.scratch →
    (ringOf s rg).made = false ∨ ((ringOf s rg).ldr = 0 ∧ noneReserving s rg ∧ nonePopping s rg) →
    SameWave s s1 ∧ ∃ t, exec (.rdef sa rg) s = .next t ∧ passed s1 t s1.me ∧ t.quads = s1.quads ∧ t.parts = s1.parts ∧ t.cores = s1.cores ∧
      ringBecomes s t rg { Ring.launch with made := true, slots := field bs 0 2, bytes := field bs 4 4, base := field bs 8 4 }) ∧
  (∀ (s : State) (sd sa : SReg) (rg : Fin 8), hasRing s rg →
    let r := ringOf s rg
    let n := (s.me.rs sa).toNat
    1 ≤ n → n ≤ r.slots →
    ((r.res - r.free).toNat + n ≤ r.slots → noneReserving s rg → noneSeen s.me = true →
      ∃ t r1, exec (.rres sd sa rg) s = .next t ∧ passed s t (s.me.setS sd (BitVec.ofNat 64 (r.res.toNat % r.slots))) ∧ acquired s t ∧
        ringBecomes s t rg r1 ∧ r1 = { r with st := r1.st, res := r.res + BitVec.ofNat 14 n } ∧
        ∀ i, r1.slot i = if ∃ j, j < n ∧ (r.res.toNat + j) % r.slots = i then .reserved else r.slot i) ∧
    (r.slots < (r.res - r.free).toNat + n → mayQuiet s → ∃ t, exec (.rres sd sa rg) s = .next t ∧ blocked s t (.rres sd rg n))) ∧
  (∀ (s : State) (sa : SReg) (rg : Fin 8), hasRing s rg → (ringOf s rg).slots ∈ slotCounts → s.storesQuiet s.cur = true →
    let r := ringOf s rg
    let i := (s.me.rs sa).toNat % r.slots
    (∃ t r1, passedThenServed (.rpub sa rg) s t s.me ∧ ringBecomes s t rg r1 ∧
      (r.slot i = .reserved → publishes r r1 i) ∧ (r.slot i ≠ .reserved → r1 = { r with err := true })) ∧
    (∃ t r1, passedThenServed (.rrel sa rg) s t s.me ∧ ringBecomes s t rg r1 ∧
      (r.slot i = .popped → releases r r1 i) ∧ (r.slot i ≠ .popped → r1 = { r with err := true }))) ∧
  (∀ (s : State) (sd : SReg) (rg : Fin 8), hasRing s rg →
    let r := ringOf s rg
    (r.con ≠ r.fill → nonePopping s rg → noneSeen s.me = true →
      ∃ t r1, exec (.rpop sd rg) s = .next t ∧ passed s t (s.me.setS sd (BitVec.ofNat 64 (r.con.toNat % r.slots))) ∧ acquired s t ∧
        ringBecomes s t rg r1 ∧ r1 = { r with st := r1.st, con := r.con + 1 } ∧
        ∀ i, r1.slot i = if i = r.con.toNat % r.slots then .popped else r.slot i) ∧
    (r.con = r.fill → mayQuiet s → ∃ t, exec (.rpop sd rg) s = .next t ∧ blocked s t (.rpop sd rg)) ∧
    exec (.rstat sd rg) s = .next (s.setMe ((s.me.setS sd (BitVec.ofNat 64 (r.res.toNat + r.fill.toNat * 2 ^ 14 + r.con.toNat * 2 ^ 28 +
      r.free.toNat * 2 ^ 42 + (if r.err then 2 ^ 56 else 0) + 2 ^ 57))).past 1))) ∧
  (∀ (s : State) (sd sa : SReg) (rg : Fin 8), rg.val < (myGang s).record.rings → (ringOf s rg).made = false →
    (s.me.rs sa ≠ 0 → exec (.rres sd sa rg) s = trapsWith s 0x0E) ∧
    exec (.rpub sa rg) s = trapsWith s 0x0E ∧ exec (.rpop sd rg) s = trapsWith s 0x0E ∧ exec (.rrel sa rg) s = trapsWith s 0x0E ∧
    exec (.rstat sd rg) s = .next (s.setMe ((s.me.setS sd 0).past 1))) ∧
  (∀ (s : State) (sd sa : SReg) (rg : Fin 8), (myGang s).record.rings ≤ rg.val →
    ∀ i ∈ [Instr.rdef sa rg, .rres sd sa rg, .rpub sa rg, .rpop sd rg, .rrel sa rg, .rstat sd rg], exec i s = trapsWith s 0x01)

/-! ## Named barriers (R216 to R221) -/

namespace Sys2Proof.Claims

/-- A run that waits in `bwait` of wave `n` is the only wait of the package. -/
def onlyWaiter (s : State) (n : Nat) (x : Waiting) : Prop :=
  s.waiters = [⟨n, x⟩] ∧ (s.wave n).run.wait = some x ∧ (s.wave n).rest = []

/-- PHASE − t taken modulo 2^16 is below 32,768 (R219). -/
def phaseReached (b : NamedBar) (t : BitVec 16) : Prop := (b.phase.toNat + 2 ^ 16 - t.toNat) % 2 ^ 16 < 2 ^ 15

/-- No run of the workgroup waits on the barrier. -/
def noneWaiting (s : State) (nb : Fin 16) : Prop :=
  ∀ x ∈ s.waiters, x.wave / 16 = s.cur / 16 → ∀ sd t, x.wait.what ≠ .bwait sd nb t

end Sys2Proof.Claims

/-- R216 to R221: `binit` sets a barrier up that no run waits on; `barr`, once the wave's stores are performed, arrives, and the last arrival moves PHASE on; `bwait` goes on, with an acquire, once PHASE
has reached its value or the barrier is invalid, else blocks; `btest` reads it; `binval`, once no transfer is pending and the wave's stores are
performed, makes it invalid; each then serves the runs that
wait, and with no run waiting that changes nothing. -/
def Obligations.NamedBarriers : Prop :=
  (∀ (s : State) (sa : SReg) (nb : Fin 16), nb.val < (myGang s).record.nbars →
    let b := barrier s nb
    (∀ c, c = (s.me.rs sa).toNat → 1 ≤ c → c ≤ 65535 → waveWide s 1 → noneWaiting s nb → b.pend = 0 →
      ∃ t, exec (.binit sa nb) s = .next t ∧ passed s t s.me ∧
        barrierBecomes s t nb { b with valid := true, exp := BitVec.ofNat 16 c, arr := 0 }) ∧
    (b.valid = true → s.storesQuiet s.cur = true → ∃ t, passedThenServed (.barr nb) s t s.me ∧ barrierBecomes s t nb (arrived b)) ∧
    (b.valid = false → exec (.barr nb) s = trapsWith s 0x0E) ∧
    (b.pend = 0 → s.storesQuiet s.cur = true → ∃ t, passedThenServed (.binval nb) s t s.me ∧ barrierBecomes s t nb { b with valid := false, arr := 0 }) ∧
    (b.pend ≠ 0 ∨ s.storesQuiet s.cur = false → exec (.binval nb) s = .next (s.setMe { s.me with held := true }))) ∧
  (∀ (s : State) (sd sa : SReg) (nb : Fin 16), nb.val < (myGang s).record.nbars →
    let b := barrier s nb
    let t16 : BitVec 16 := (s.me.rs sa).truncate 16
    (b.valid = false ∨ phaseReached b t16 → noneSeen s.me = true →
      ∃ t, exec (.bwait sd sa nb) s = .next t ∧ passed s t (s.me.setS sd (if b.valid then 0 else 1)) ∧ acquired s t ∧ t.gangs = s.gangs) ∧
    (b.valid = true → ¬ phaseReached b t16 → mayQuiet s → ∃ t, exec (.bwait sd sa nb) s = .next t ∧ blocked s t (.bwait sd nb t16)) ∧
    exec (.btest sd nb) s = .next (s.setMe ((s.me.setS sd
      (BitVec.ofNat 64 (b.phase.toNat + b.arr.toNat * 2 ^ 16 + (if b.valid then 0 else 2 ^ 32)))).past 1))) ∧
  (∀ (s : State) (sd sa : SReg) (nb : Fin 16), (myGang s).record.nbars ≤ nb.val →
    ∀ i ∈ [Instr.binit sa nb, .barr nb, .bwait sd sa nb, .btest sd nb, .binval nb], exec i s = trapsWith s 0x01) ∧
  (∀ s : State, s.waiters = [] → s.settle = s) ∧
  (∀ (s : State) (n : Nat) (sd : SReg) (nb : Fin 16) (p : BitVec 16) (o st : Nat), onlyWaiter s n ⟨.bwait sd nb p, o, st⟩ →
    let w := s.wave n
    let b := (s.gang w.id.gang).bar w.id.wg.val nb
    (b.valid = false ∨ phaseReached b p → noneSeen w = true →
      s.settle.wave n = (w.setS sd (if b.valid then 0 else 1)).past 1 ∧ (s.settle.core w.id.place).l1 = [] ∧
      (∀ m, m ≠ n → s.settle.wave m = s.wave m) ∧ s.settle.gangs = s.gangs) ∧
    (b.valid = true → ¬ phaseReached b p → s.settle = s))

/-! ## Stitch markers and die sync registers (R207 to R212) -/

namespace Sys2Proof.Claims

/-- A marker of the issuing wave's quad, and the state with another word in it. -/
def markerOf (s : State) (mk : Fin 64) : Word := look 0 (myQuad s).marks mk.val
def markerBecomes (s t : State) (mk : Fin 64) (x : Word) : Prop :=
  let c := s.me.id.place
  t.quads = put s.quads (quadKey c.die c.quad) { myQuad s with marks := put (myQuad s).marks mk.val x } ∧ t.gangs = s.gangs ∧
  t.parts = s.parts

/-- The partition of the issuing wave, its logical die, and a die sync register at home and as the wave's die sees it (R210, R211). -/
def myPart (s : State) : Partition := s.partn s.me.id.part
def myLogDie (s : State) : Nat := (myPart s).logDie s.me.id.place.die
def dsHomeValue (s : State) (n : Fin 1024) : Word := look 0 (myPart s).ds n.val
def dsSeen (s : State) (n : Fin 1024) : Word :=
  if myLogDie s = n.val / 256 then dsHomeValue s n else look 0 (myPart s).mirror (1024 * myLogDie s + n.val)

/-- What the updates on their way are, without who has seen them. -/
def bareUpdates (us : List Update) : List (Nat × Nat × Word) := us.map (fun u => (u.die, u.reg, u.value))

/-- The updates on their way, of which nothing but the marks of R202 changes: what the dies have seen grows, and one that must arrive before the
step is over stays so. An agent of logical die `a` makes an operation at home `h`: where that is another die, the updates to `h` that its die has
seen go first; where it `reads` register `n`, its die has seen that register's updates, and the one to its own mirror must arrive. -/
def marksGrow (us vs : List Update) (a h n : Nat) (reads : Bool) : Prop :=
  bareUpdates vs = bareUpdates us ∧ ∀ (i : Nat) (u v : Update), us[i]? = some u → vs[i]? = some v →
    v.num = u.num ∧ (∀ d ∈ u.seen, d ∈ v.seen) ∧ (u.force = true → v.force = true) ∧
    (a ≠ h → u.die = h → a ∈ u.seen → v.force = true) ∧ (reads = true → u.reg = n → a ∈ v.seen ∧ (u.die = a → v.force = true))

/-- The home register takes the value; if that changes it, an update is on its way to each mirror, seen at the home and by the writer's die, whose
own mirror follows before the step is over (R191, R202, R212). -/
def dsBecomes (s t : State) (n : Fin 1024) (x : Word) (reads : Bool) : Prop :=
  let a := myLogDie s
  let h := n.val / 256
  let old := (myPart s).updates
  (∃ us vs, myPart t = { myPart s with ds := put (myPart s).ds n.val x, updates := us ++ vs } ∧ marksGrow old us a h n.val reads ∧
    (dsHomeValue s n = x → vs = []) ∧
    (dsHomeValue s n ≠ x → (∀ v, v ∈ bareUpdates vs ↔ v.1 < (myPart s).ndie ∧ v.1 ≠ h ∧ v.2 = (n.val, x)) ∧ (bareUpdates vs).Nodup ∧
      ∀ u ∈ vs, (∀ d, d ∈ u.seen ↔ d = h ∨ d = a) ∧ (u.force = true ↔ u.die = a) ∧ ∀ v ∈ vs, v.num = u.num)) ∧
  (∀ q, q ≠ s.me.id.part → t.partn q = s.partn q) ∧ t.quads = s.quads ∧ t.gangs = s.gangs

/-- Flits may travel between the wave's die and the home of register `n`: the dies are one, or no flit of their edge is being replayed (R351). -/
def reachesHome (s : State) (n : Fin 1024) : Prop :=
  let h := (myPart s).physDie (n.val / 256)
  s.me.id.place.die = h ∨ (s.edge s.me.id.place.die h).failed = 0

/-- An update may travel: the edge to its die is not replaying a flit (R351). -/
def travels (s : State) (q : Partition) (u : Update) : Prop := (s.edge (q.physDie (u.reg / 256)) (q.physDie u.die)).failed = 0

/-- The word of a marker operation that answers `x`. -/
def answers (w : Wave) (sd : SReg) (x : Word) : Wave := w.setS sd (x.zeroExtend 64)

end Sys2Proof.Claims

/-- R202, R208, R210, R211 and R212: the marker instructions on a marker of the wave's own quad; the die sync instructions at the register's home, with the
updates to its mirrors, and at the local copy; a blocking one that cannot go on blocks; a register without a home raises ILLEGAL_OP; the
oldest update for a die whose edge is not replaying arrives in its mirror (R351), and agents of that die may see what its operation sent to the
others; those that the causal order asks for have arrived when the step is over (R191, R202). That `ds.weq` compares with the value read when it blocks (log
entry 72) and that each partition has registers of its own (log entry 70) is the model's choice. -/
def Obligations.MarkersAndDieSync : Prop :=
  (∀ (s : State) (sd sa : SReg) (mk : Fin 64),
    let m := markerOf s mk
    let a : Word := (s.me.rs sa).truncate 32
    (m.getLsbD 0 = false → noneSeen s.me = true → ∃ t, exec (.mkTas sd mk) s = .next t ∧ passed s t (answers s.me sd m) ∧ acquired s t ∧
      markerBecomes s t mk (m ||| 1)) ∧
    (m.getLsbD 0 = true → mayQuiet s → ∃ t, exec (.mkTas sd mk) s = .next t ∧ blocked s t (.mkTas sd mk)) ∧
    (noneSeen s.me = true → ∃ t, exec (.mkTasnb sd mk) s = .next t ∧ passed s t (answers s.me sd m) ∧ acquired s t ∧
      (m.getLsbD 0 = false → markerBecomes s t mk (m ||| 1)) ∧ (m.getLsbD 0 = true → t.quads = s.quads ∧ t.gangs = s.gangs ∧ t.parts = s.parts)) ∧
    (∃ t, passedThenServed (.mkFadd sd sa mk) s t (answers s.me sd m) ∧ markerBecomes s t mk (m + a)) ∧
    exec (.mkRd sd mk) s = .next (s.setMe ((answers s.me sd m).past 1)) ∧
    (∃ t, passedThenServed (.mkWr sa mk) s t s.me ∧ markerBecomes s t mk a) ∧
    (s.storesQuiet s.cur = true → ∃ t, passedThenServed (.mkClr mk) s t s.me ∧ markerBecomes s t mk (BitVec.ofNat 32 (m.toNat / 2 * 2)))) ∧
  (∀ (s : State) (sd sa : SReg) (n : Fin 1024), n.val / 256 < (myPart s).ndie →
    let v := dsHomeValue s n
    let a : Word := (s.me.rs sa).truncate 32
    (s.storesDone s.cur = true → reachesHome s n →
      (∃ t, passedThenServed (.dsTas sd n) s t (answers s.me sd v) ∧ acquired s t ∧ dsBecomes s t n (v ||| 1) true) ∧
      (∃ t, passedThenServed (.dsFadd sd sa n) s t (answers s.me sd v) ∧ acquired s t ∧ dsBecomes s t n (v + a) true) ∧
      (∃ t, passedThenServed (.dsWr sa n) s t s.me ∧ dsBecomes s t n a false)) ∧
    (s.storesDone s.cur = false ∨ ¬ reachesHome s n →
      ∀ i ∈ [Instr.dsTas sd n, .dsFadd sd sa n, .dsWr sa n], exec i s = .next (s.setMe { s.me with held := true })) ∧
    (noneSeen s.me = true →
      ∃ t, exec (.dsRd sd n) s = .next t ∧ passed s t (answers s.me sd (dsSeen s n)) ∧ acquired s t ∧ t = { s with waves := t.waves, cores := t.cores }) ∧
    (dsSeen s n = a → noneSeen s.me = true →
      ∃ t, exec (.dsWeq sa n) s = .next t ∧ passed s t s.me ∧ acquired s t ∧ t = { s with waves := t.waves, cores := t.cores }) ∧
    (dsSeen s n ≠ a → mayQuiet s → ∃ t, exec (.dsWeq sa n) s = .next t ∧ blocked s t (.dsWeq n a))) ∧
  (∀ (s : State) (sd sa : SReg) (n : Fin 1024), (myPart s).ndie ≤ n.val / 256 →
    ∀ i ∈ [Instr.dsTas sd n, .dsFadd sd sa n, .dsRd sd n, .dsWr sa n, .dsWeq sa n], exec i s = trapsWith s 0x01) ∧
  (∀ (s : State) (p : Fin 8) (d : Fin 4) (u : Update) (us vs : List Update),
    let q := s.partn p
    q.updates = us ++ u :: vs → u.die = d.val → travels s q u → (∀ v ∈ us, v.die = d.val → ¬ travels s q v) →
    exec (.mirrorUpdate p d) s =
      .next (s.setPartn p { q with
        mirror := put q.mirror (1024 * d.val + u.reg) u.value
        updates := (us ++ vs).map (fun v => if v.num = u.num ∧ u.die ∉ v.seen then { v with seen := u.die :: v.seen } else v) }).settle) ∧
  (∀ (s : State) (p : Fin 8),
    let t := s.arriveForced p (s.partn p).updates.length
    ∀ u ∈ (t.partn p).updates, u.force = true → ¬ travels t (t.partn p) u)

/-! ## Scope barriers and fences (R196, R213, R214) -/

namespace Sys2Proof.Claims

/-- Wave `b` stands at the barrier `n` of scope `sc` that wave `a` takes part in. -/
def standsAt (sc : BarScope) (n : Fin 32) (a b : Wave) : Prop :=
  b.live = true ∧ (∃ st, b.wait = .bar sc n st) ∧
  match sc with
  | .core => a.id.gang = b.id.gang ∧ a.id.wg = b.id.wg
  | .quad => a.id.gang = b.id.gang
  | .die => a.id.part = b.id.part ∧ a.id.place.die = b.id.place.die
  | .pkg => a.id.part = b.id.part

/-- The expected count of R213. -/
def expected (s : State) (sc : BarScope) (n : Fin 32) : Nat :=
  match sc with
  | .core => (myGang s).record.waves
  | .quad => (myGang s).record.wg * (myGang s).record.waves
  | .die => (look 0 (myPart s).dieBar (32 * myLogDie s + n.val)).toNat
  | .pkg => (look 0 (myPart s).pkgBar n.val).toNat

/-- Nothing of the wave is under way: no transfer, and no store that has still to be performed (R196, R203); for a `wide` release, at .pkg, no
sync register either that has still to reach its mirrors (R202). -/
def nothingPending (s : State) (wide : Bool) : Prop :=
  s.me.locks = [] ∧ (if wide then s.storesDone s.cur else s.storesQuiet s.cur) = true

/-- The issuing wave's own wait is the only change, but for the quiescent point of R297. -/
def arrives (s s1 : State) (sc : BarScope) (n : Fin 32) : Prop :=
  s1 = { s with waves := put s.waves s.cur { s.me with wait := .bar sc n s.time }, domains := s1.domains }

/-- How many waves stand at the barrier. -/
noncomputable def arrivals (s : State) (sc : BarScope) (n : Fin 32) : Nat := by
  classical exact (s.waves.filter (fun e => decide (standsAt sc n s.me e.2))).length

end Sys2Proof.Claims

/-- R213, R214 and R348: `bar` with nothing under way arrives; while arrivals are missing the whole wave waits; the last arrival lets every wave
that stands there go on at its next word, and beyond .core empties the L1 of its core. An expected count of 0 raises ILLEGAL_OP. -/
def Sys2Proof.Claims.ScopeBarriers : Prop :=
  ∀ (s : State) (sc : BarScope) (n : Fin 32),
    (expected s sc n = 0 → exec (.bar sc n) s = trapsWith s 0x01) ∧
    (expected s sc n ≠ 0 → waveWide s 1 → nothingPending s (decide (sc = .pkg)) →
      ∃ s1 t, arrives s s1 sc n ∧ exec (.bar sc n) s = .next t ∧
        (arrivals s1 sc n ≠ expected s sc n → t = s1) ∧
        (arrivals s1 sc n = expected s sc n →
          (∀ k, (standsAt sc n s.me (s1.wave k) → t.wave k = { (s1.wave k).past 1 with wait := .none } ∧
              (sc ≠ .core → (t.core (s1.wave k).id.place).l1 = [])) ∧
            (¬ standsAt sc n s.me (s1.wave k) → t.wave k = s1.wave k)) ∧
          t = { s1 with waves := t.waves, cores := t.cores }))

/-- R110, R173, R196 and R201: a `fence` of kind acq completes, at .lane once the wave's stores are performed; the others do so with nothing under
way; one that acquires at .quad or wider empties the L1, and first performs the wave's late stores up to the last that a load of it has seen. -/
def Sys2Proof.Claims.Fences : Prop :=
  (∀ (s : State) (sc : Scope) (kd : FKind),
    (kd = .acq ∧ (sc = .lane → s.me.late = []) ∧ noneSeen s.me = true) ∨ nothingPending s (decide (sc = .pkg ∨ sc = .pod)) →
    ∃ t, exec (.fence sc kd) s = .next t ∧ passed s t s.me ∧ t.gangs = s.gangs ∧ t.quads = s.quads ∧ t.parts = s.parts ∧
      (kd = .rel ∨ sc = .lane ∨ sc = .core → t.cores = s.cores) ∧ (kd ≠ .rel → sc ≠ .lane → sc ≠ .core → acquired s t)) ∧
  ∀ (s : State) (sc : Scope), sc ≠ .lane → sc ≠ .core →
    ∃ t, exec (.fence sc .acq) s = .next t ∧ SameOthers s t ∧ t.me = { s.me.past 1 with late := t.me.late } ∧ noneSeen t.me = true ∧
      t.me.late <:+ s.me.late ∧ (t.core s.me.id.place).l1 = []

/-- R173, R196, R213 and R214: scope barriers and fences. -/
def Obligations.BarriersAndFences : Prop := ScopeBarriers ∧ Fences

/-! ## The tree-walk engine (R271 to R291) -/

namespace Sys2Proof.Claims

/-- The number that `n` bytes at offset `o` of the wave's .d segment form (R169). -/
def dNum (s : State) (w : Wave) (o n : Nat) : Nat :=
  leNat ((List.range n).map (fun i => memRead (s.die (s.gang w.id.gang).segDie).mem (dieAddr w (o + i))))

/-- The die memory of the wave's .d segment is sound. -/
def dSound (s : State) (w : Wave) : Prop :=
  (s.die (s.gang w.id.gang).segDie).poison = [] ∧ Mem.wf (s.die (s.gang w.id.gang).segDie).mem = true

/-- The size of an object and the offset of its frame `i` (R275, R277). -/
def objSize (cap : Nat) : Nat := 32 + 24 * cap
def frameOff (obj i : Nat) : Nat := obj + 32 + 16 * i

/-- A header (R276). -/
def headerIs (s : State) (w : Wave) (o depth cap state slot flags base join owner : Nat) : Prop :=
  dNum s w o 2 = depth ∧ dNum s w (o + 2) 2 = cap ∧ dNum s w (o + 4) 1 = state ∧ dNum s w (o + 5) 1 = slot ∧
  dNum s w (o + 6) 2 = flags ∧ dNum s w (o + 8) 8 = base ∧ dNum s w (o + 16) 8 = join ∧ dNum s w (o + 24) 8 = owner

/-- A frame (R277). -/
def frameIs (s : State) (w : Wave) (obj i : Nat) (f : Frame) : Prop :=
  let o := frameOff obj i
  dNum s w o 4 = f.node ∧ dNum s w (o + 4) 4 = f.pend ∧ dNum s w (o + 8) 4 = f.user ∧ dNum s w (o + 12) 1 = f.type ∧
  dNum s w (o + 13) 1 = f.flags ∧ dNum s w (o + 14) 1 = f.cidx ∧ dNum s w (o + 15) 1 = f.jidx

def fits32 (x : Nat) : Prop := x = 0xFFFFFFFF ∨ x % 12 = 0

/-- A table header that obeys R272, and a type descriptor that obeys R273. -/
def headLegal (b : List Byte) : Prop :=
  1 ≤ field b 0 1 ∧ field b 0 1 ≤ 8 ∧ field b 1 1 ≤ 3 ∧ field b 4 1 ≤ 1 ∧ field b 5 1 = 0 ∧ 1 ≤ field b 6 2 ∧ field b 6 2 ≤ 256 ∧
  field b 8 8 % 12 = 0 ∧ field b 24 8 = 0

def typeLegal (b : List Byte) : Prop :=
  let size := if field b 12 1 = 1 then 8 else 4
  fits32 (field b 0 4) ∧ fits32 (field b 4 4) ∧ fits32 (field b 8 4) ∧ field b 12 1 ≤ 1 ∧ field b 13 1 ≤ 1 ∧ field b 14 1 ≤ 31 ∧
  field b 15 1 = 0 ∧ (field b 13 1 = 0 → field b 16 2 = 0) ∧ field b 18 2 % size = 0 ∧ field b 20 2 % size = 0 ∧ size ≤ field b 20 2 ∧
  field b 22 2 % 4 = 0 ∧ field b 24 1 ≤ 32 ∧ field b 24 1 % 4 = 0 ∧ field b 25 7 = 0

/-- What `twdef` latches of a type. -/
def typeIs (y : NodeType) (b : List Byte) : Prop :=
  y.enter.toNat = field b 0 4 ∧ y.prune.toNat = field b 4 4 ∧ y.leave.toNat = field b 8 4 ∧ y.wide = decide (field b 12 1 = 1) ∧
  y.counted = decide (field b 13 1 = 1) ∧ y.nchild = field b 14 1 ∧ y.cntOff = field b 16 2 ∧ y.ptrOff = field b 18 2 ∧
  y.pstride = field b 20 2 ∧ y.keyOff = field b 22 2 ∧ y.keyLen = field b 24 1

/-- A word of MAJ 0x38 and 0x39: profile 3, and, for one that is forbidden in a walk, outside it. -/
def walkWord (s : State) (rs : List VReg) : Prop := 3 ≤ s.me.id.eff.toNat ∧ allocated s rs
def outside (s : State) : Prop := s.me.run.kind ≠ .walk

/-- OWNER of R276. -/
def ownerOf (w : Wave) (l : Lane) : Nat := w.id.task.toNat / 2 ^ 16 * 2 ^ 16 + w.id.wave.val * 2 ^ 12 + w.id.wg.val * 2 ^ 10 + l.val

/-- Byte `o` of the space of a layout as the engine reads it: of die memory, or of the page of leaf `e`, past every L1 (R274, R292). -/
def nodeByte (s : State) (w : Wave) (y : TreeSlot) (e : TlbEntry) (o : Nat) : Byte :=
  if y.inD then memRead (s.die (s.gang w.id.gang).segDie).mem (dieAddr w o)
  else pageByte s e.pte (frameOf e.pte + (w.seg.g.base.toNat + o - e.va))

/-- The number that `k` bytes at `o` of that space form. -/
def nodeNum (s : State) (w : Wave) (y : TreeSlot) (e : TlbEntry) (o k : Nat) : Nat :=
  leNat ((List.range k).map (fun i => nodeByte s w y e (o + i)))

/-- `k` bytes at `o` of that space lie in the segment, without poison, and in .g in one page whose leaf `e`, without REPL, the ASID's tables give
and a load passes. -/
def nodeReadable (s : State) (w : Wave) (y : TreeSlot) (e : TlbEntry) (o k : Nat) : Prop :=
  let va := w.seg.g.base.toNat + o
  if y.inD then o + k ≤ w.seg.d.limit.toNat ∧ (s.die (s.gang w.id.gang).segDie).poisoned (dieAddr w o) k = false
  else
    o + k ≤ w.seg.g.limit.toNat ∧ s.walk w.id.asid.toNat va = some e ∧ va % 2 ^ 16 + k ≤ 2 ^ 16 ∧ e.pte.getLsbD 6 = false ∧
    passes s w.id.part e.pte false ∧ (e.pte.getLsbD 7 = false → s.gddrPoisoned (frameOf e.pte + (va - e.va)) k = false)

/-- The walk of lane `l` has ended (R286): STATE and OWNER are written, vd takes the status, and the lane goes on at the word after its
start. -/
def walkEnded (s t : State) (n : Nat) (l : Lane) (x : WalkLane) (state status : Nat) : Prop :=
  let w := s.wave n
  dNum t w (x.obj + 4) 1 = state ∧ dNum t w (x.obj + 24) 8 = 0 ∧ (t.wave n).rv x.vd l = BitVec.ofNat 32 status ∧
  lookOpt (t.wave n).walks l.val = some { x with phase := .idle, stall := none } ∧
  lanesAt (t.wave n) x.kind (fun k => k = l) (fun _ => x.back + 4)

/-- Bit `i` of flags becomes `b i` where that is given. -/
def flagsBecome (g f : Nat) (b : Nat → Option Bool) : Prop := ∀ i, g.testBit i = (b i).getD (f.testBit i)

/-- The address of the cell that a joined frame of the object at `obj` names (R277). -/
def cellAddr (s : State) (w : Wave) (obj cap : Nat) (f : Frame) : Nat :=
  if f.flags.testBit 2 then dNum s w (obj + 16) 8 + 8 * f.jidx else obj + 32 + 16 * cap + 8 * f.jidx

/-- The engine owes lane `l` of wave `n` a step of the walk `x` under the binding `y` (R279, R282). -/
def stepDue (s : State) (n : Nat) (l : Lane) (x : WalkLane) (y : TreeSlot) : Prop :=
  let w := s.wave n
  w.live = true ∧ lookOpt w.walks l.val = some x ∧ lookOpt w.slots x.slot.val = some y ∧ x.phase = .due ∧ x.stall = none ∧
  (s.gang w.id.gang).runs = true ∧ dSound s w ∧ s.waiters = []

/-- The lane is presented with a node (R280): its v21 to v31, its walk, the slot `y` with the counts, and its entry at the routine. -/
def presented (t : State) (n : Nat) (l : Lane) (x : WalkLane) (y : TreeSlot) (kind user depth cidx type node : Nat) (key : List Word)
    (routine : BitVec 32) : Prop :=
  let w := t.wave n
  w.rv 21 l = BitVec.ofNat 32 user ∧ w.rv 22 l = BitVec.ofNat 32 (depth % 512 + cidx % 32 * 2 ^ 16 + type % 8 * 2 ^ 21 + kind * 2 ^ 24) ∧
  w.rv 23 l = BitVec.ofNat 32 node ∧ (∀ (i : Fin 8) (k : Word), key[i.val]? = some k → w.rv (Fin.ofNat 32 (24 + i.val)) l = k) ∧
  lookOpt w.walks l.val = some x ∧ lookOpt w.slots x.slot.val = some y ∧
  lanesAt w .walk (fun k => k = l) (fun _ => y.codeBase + routine.zeroExtend 64)

/-- The child that a frame visits next: its lowest pending one, or its highest under DESC (R282). -/
def visits (f : Frame) (c : Nat) : Prop :=
  f.pend.testBit c = true ∧ ∀ j, f.pend.testBit j = true → if f.flags.testBit 3 then j ≤ c else c ≤ j

/-- Frame `f` with child `c` no longer pending. -/
def withoutChild (f g : Frame) (c : Nat) : Prop :=
  g = { f with pend := g.pend } ∧ ∀ i, g.pend.testBit i = (f.pend.testBit i && decide (i ≠ c))

/-- The cells that a join goes through, in order: every one before the last has COUNT 1 and names the next (R285). -/
def chain (s : State) (w : Wave) : List Nat → Prop
  | [] => False
  | [_] => True
  | a :: b :: cs => dNum s w a 4 = 1 ∧ dNum s w (a + 4) 4 = b ∧ b ≠ 0xFFFFFFFF ∧ chain s w (b :: cs)

/-- Cells that lie apart from each other and from the header and frames of the object. -/
def cellsApart (x : WalkLane) (cs : List Nat) : Prop :=
  cs.Pairwise (fun a b => a + 8 ≤ b ∨ b + 8 ≤ a) ∧ ∀ a ∈ cs, a + 8 ≤ x.obj ∨ x.obj + 32 + 16 * x.cap ≤ a

/-- The key block of the node of frame `f`, where it lies in .d, lies apart from the object and from the cells. -/
def keyApart (x : WalkLane) (y : TreeSlot) (v : NodeType) (f : Frame) (cs : List Nat) : Prop :=
  let k := y.treeBase.toNat + f.node + v.keyOff
  y.inD = false ∨ ∀ r ∈ (x.obj, 32 + 16 * x.cap) :: cs.map (fun a => (a, 8)), k + v.keyLen ≤ r.1 ∨ r.1 + r.2 ≤ k

/-- A join may act: the wave's stores are performed, and every transfer of it is a walk (R285, R292). -/
def mayJoin (s : State) (n : Nat) : Prop :=
  s.storesDone n = true ∧ ∀ i ∈ (s.wave n).locks, ∃ e ∈ (s.wave n).walks, e.2.phase ≠ .idle ∧ e.2.lock = i.owner

/-- The frame at depth `depth - 1` leaves its node in `t`: LEAVING is set and the leave routine is presented; `y` is the slot before that. -/
def leaves (t : State) (n : Nat) (w : Wave) (l : Lane) (x : WalkLane) (y : TreeSlot) (v : NodeType) (depth : Nat) (f : Frame)
    (ks : List Word) : Prop :=
  (∃ g, frameIs t w x.obj (depth - 1) g ∧ g = { f with flags := g.flags } ∧
    flagsBecome g.flags f.flags (fun b => if b = 4 then some true else none)) ∧ dNum t w x.obj 2 = depth ∧
  presented t n l { x with phase := .leave, child := 0 } { y with leaves := y.leaves + 1 } 3 f.user (depth - 1) f.cidx f.type f.node ks v.leave

end Sys2Proof.Claims

/-- R271 to R273 and R289: `twdef` of a legal table that is in its segment and in no walk's slot binds the slot to it with its counts 0; `twstat` reads the counts of
a slot. -/
def Sys2Proof.Claims.TreeTables : Prop :=
  (∀ (s s1 s2 : State) (sa : SReg) (g : Bool) (tw : Fin 4) (hd ts : List Byte),
    let sp : Space := if g then .g else .c
    let o := (s.me.rs sa).toNat
    let n := 32 * field hd 0 1
    waveWide s 3 → (∀ e ∈ s.me.walks, e.2.phase = .idle ∨ e.2.slot ≠ tw) → o % 64 = 0 →
    o + 32 + n ≤ (s.me.segment sp).limit.toNat → s.loadAt s.me sp s.me.run.mask 0 o 32 = .ok (s1, hd) →
    s1.loadAt s.me sp s.me.run.mask 0 (o + 32) n = .ok (s2, ts) →
    headLegal hd → (∀ i, i < field hd 0 1 → typeLegal (ts.drop (32 * i))) →
    ∃ t x, exec (.twdef sa g tw) s = .next t ∧ t.me = { s.me.past 1 with slots := put s.me.slots tw.val x, late := t.me.late, loads := t.me.loads } ∧
      SameOthers s t ∧ SameMemory s t ∧
      x.tagW = field hd 1 1 ∧ x.tagOff = field hd 2 2 ∧ x.inD = decide (field hd 4 1 = 1) ∧ x.cap = field hd 6 2 ∧
      x.codeBase.toNat = field hd 8 8 ∧ x.treeBase.toNat = field hd 16 8 ∧ x.types.length = field hd 0 1 ∧
      (∀ i y, x.types[i]? = some y → typeIs y (ts.drop (32 * i))) ∧ x.enters = 0 ∧ x.prunes = 0 ∧ x.leaves = 0 ∧ x.skipped = 0) ∧
  (∀ (s : State) (sd : SReg) (tw : Fin 4), walkWord s [] →
    exec (.twstat sd tw) s = .next (s.setMe ((s.me.setS sd (match lookOpt s.me.slots tw.val with
      | none => 0
      | some x => BitVec.ofNat 64 (x.enters.toNat + x.prunes.toNat * 2 ^ 16 + x.leaves.toNat * 2 ^ 32 + x.skipped.toNat * 2 ^ 48))).past 1)))

/-- R274, R280 and R292: what the engine reads of a node. A child pointer is null when all its bits are 1; else one of 32 bits is the node offset itself,
and one of 64 bits gives its distance from TREEBASE, which must lie in 0 to 2^32 − 2. The key block is the words at KEYOFF, and 0 beyond KEYLEN.
The tag, under TAGW, gives the type, and the count its children, of which those with a pointer that is not null are present; the fields are read
in that order. A type that the table does not have is FAULT reason 1, a count above NCHILD reason 2, a field outside the segment or misaligned
and a pointer out of reach reason 3, and a poisoned granule reason 4. -/
def Sys2Proof.Claims.NodeReads : Prop :=
  ∀ (s : State) (n : Nat) (w : Wave) (y : TreeSlot) (e : TlbEntry),
    let num := nodeNum s w y e
    let limit := if y.inD then w.seg.d.limit.toNat else w.seg.g.limit.toNat
    (∀ (v : NodeType) (o c : Nat),
      let k := if v.wide then 8 else 4
      let a := o + v.ptrOff + v.pstride * c
      let p := num a k
      let r := s.childPtr n w y v o c
      (a % k ≠ 0 ∨ limit < a + k → r = .fault 3) ∧
      (a % k = 0 → nodeReadable s w y e a k →
        (p = 2 ^ (8 * k) - 1 → r = .ok none) ∧
        (p ≠ 2 ^ (8 * k) - 1 → v.wide = false → r = .ok (some p)) ∧
        (p ≠ 2 ^ (8 * k) - 1 → v.wide = true → y.treeBase.toNat ≤ p → p - y.treeBase.toNat ≤ 2 ^ 32 - 2 →
          r = .ok (some (p - y.treeBase.toNat))) ∧
        (p ≠ 2 ^ (8 * k) - 1 → v.wide = true → (p < y.treeBase.toNat ∨ 2 ^ 32 - 2 < p - y.treeBase.toNat) → r = .fault 3))) ∧
    (∀ (v : NodeType) (o : Nat),
      let a (i : Nat) : Nat := o + v.keyOff + 4 * i
      let r := s.keyBlock n w y v o 0 8
      ((∀ i, i < 8 → 4 * i < v.keyLen → a i % 4 = 0 ∧ nodeReadable s w y e (a i) 4) →
        r = .ok ((List.range 8).map (fun i => if 4 * i < v.keyLen then BitVec.ofNat 32 (num (a i) 4) else 0))) ∧
      (0 < v.keyLen → a 0 % 4 ≠ 0 ∨ limit < a 0 + 4 → r = .fault 3)) ∧
    ∀ node : Nat,
      let o := y.treeBase.toNat + node
      let tag := if y.tagW = 0 then 0 else num (o + y.tagOff) 1 % 2 ^ y.tagW
      let r := s.readNode n w y node
      (y.tagW ≠ 0 → limit ≤ o + y.tagOff → r = .fault 3) ∧
      (y.tagW ≠ 0 → o + y.tagOff < limit → y.inD = true → (s.die (s.gang w.id.gang).segDie).poisoned (dieAddr w (o + y.tagOff)) 1 = true →
        r = .fault 4) ∧
      (y.tagW = 0 ∨ nodeReadable s w y e (o + y.tagOff) 1 →
        (y.types[tag]? = none → r = .fault 1) ∧
        ∀ v, y.types[tag]? = some v →
          let count := if v.counted then num (o + v.cntOff) 1 else v.nchild
          (v.counted = true → limit ≤ o + v.cntOff → r = .fault 3) ∧
          (v.counted = false ∨ nodeReadable s w y e (o + v.cntOff) 1 →
            (v.nchild < count → r = .fault 2) ∧
            (count ≤ v.nchild → ∀ (p : Nat → Option Nat),
              (∀ c x, c < count → (∀ j, j < c → s.childPtr n w y v o j = .ok (p j)) → s.childPtr n w y v o c = .fault x → r = .fault x) ∧
              ((∀ c, c < count → s.childPtr n w y v o c = .ok (p c)) →
                (∀ ks, s.keyBlock n w y v o 0 8 = .ok ks →
                  ∃ m, r = .ok { type := tag, info := v, present := m, key := ks } ∧
                    ∀ i, m.testBit i = (decide (i < count) && (p i).isSome)) ∧
                (∀ x, s.keyBlock n w y v o 0 8 = .fault x → r = .fault x)))))

/-- R275 to R277 and R279 to R286: `twstart` writes a header and a first frame for each lane of Act and parks the lanes, and where no handler entry is left
the wave is in normal mode (R105); the engine presents a node to a lane whose step is due, or ends its walk; `twret` ends a presentation with
its result in the frame; `twstop` ends the walk; outside a walk both raise STACK. That the TYPE of the first frame is 0 until the engine enters
its node, and the kind of entry to which a lane returns whose walk a handler started, are the model's choices (log entries 98 and 88). -/
def Sys2Proof.Claims.TreeSteps : Prop :=
  (∀ (s : State) (vd va : VReg) (sb : SReg) (tw : Fin 4) (x : TreeSlot), walkWord s [vd, va, 31] → outside s →
    lookOpt s.me.slots tw.val = some x → 1 ≤ x.cap → x.cap ≤ 256 →
    let w := s.me
    let obj (l : Lane) : Nat := (w.rs sb).toNat + l.val * objSize x.cap
    lanes (active w) ≠ [] → (w.rs sb).toNat % 8 = 0 → (∀ l, active w l = true → obj l + objSize x.cap ≤ w.seg.d.limit.toNat) → lockFree s →
    dSound s w →
    ∃ t, exec (.twstart vd va sb tw) s = .next t ∧ SameOthers s t ∧ t.quads = s.quads ∧
      (∀ l, active w l = true →
        headerIs t w (obj l) (if w.rv va l = 0xFFFFFFFF then 0 else 1) x.cap 1 tw.val 0 x.treeBase.toNat (2 ^ 64 - 1) (ownerOf w l) ∧
        frameIs t w (obj l) 0 { node := (w.rv va l).toNat, pend := 0, user := (w.rv 21 l).toNat, type := 0, flags := 0, cidx := 31, jidx := 0 } ∧
        lookOpt t.me.walks l.val = some { obj := obj l, cap := x.cap, vd, slot := tw, lock := s.seq, back := w.run.pc, kind := w.run.kind,
                                          phase := .due, child := 0, stall := none }) ∧
      (∀ l, active w l = false → lookOpt t.me.walks l.val = lookOpt w.walks l.val) ∧
      lanesAt t.me .walk (fun l => w.run.mask.getLsbD l.val && active w l) (fun _ => w.run.pc) ∧
      t.me = { w with run := t.me.run, rest := t.me.rest, walks := t.me.walks, locks := t.me.locks, mode := t.me.mode } ∧
      t.me.mode = if (t.me.run :: t.me.rest).any (fun e => e.kind = .handler) then w.mode else .normal) ∧
  (∀ (s : State) (n : Nat) (l : Lane) (x : WalkLane) (y : TreeSlot), stepDue s n l x y →
    let w := s.wave n
    let depth := dNum s w x.obj 2
    (depth = 0 → ∃ t, exec (.nodePresentation n l) s = .next t ∧ walkEnded s t n l x 2 0) ∧
    (∀ f, depth ≠ 0 → frameIs s w x.obj (depth - 1) f → f.flags.testBit 0 = false → f.flags.testBit 4 = false →
      (∀ d, s.readNode n w y f.node = .ok d → d.info.enter ≠ 0xFFFFFFFF →
        ∃ t, exec (.nodePresentation n l) s = .next t ∧
          presented t n l { x with phase := .enter, child := d.present } { y with enters := y.enters + 1 } 1 f.user (depth - 1) f.cidx d.type
            f.node d.key d.info.enter) ∧
      (∀ d, s.readNode n w y f.node = .ok d → d.info.enter = 0xFFFFFFFF →
        ∃ t g, exec (.nodePresentation n l) s = .next t ∧ t.waves = s.waves ∧ dNum t w x.obj 2 = depth ∧ frameIs t w x.obj (depth - 1) g ∧
          g = { f with type := d.type, pend := d.present, flags := g.flags } ∧
          flagsBecome g.flags f.flags (fun b => if b = 0 then some true else if b = 3 then some false else none)) ∧
      (∀ r, s.readNode n w y f.node = .fault r → r < 8 →
        ∃ t, exec (.nodePresentation n l) s = .next t ∧ walkEnded s t n l x 4 2 ∧ dNum t w (x.obj + 6) 1 % 8 = r))) ∧
  (∀ (s : State) (va : VReg) (l : Lane) (x : WalkLane) (f : Frame), walkWord s [va] → s.me.run.kind = .walk →
    let w := s.me
    let d := dNum s w x.obj 2
    let r := (w.rv va l).toNat
    w.run.mask = (1 : BitVec 64) <<< l.val → lookOpt w.walks l.val = some x → 1 ≤ d → d ≤ x.cap → x.cap ≤ 256 → dSound s w →
    frameIs s w x.obj (d - 1) f →
    (x.phase = .enter ∨ x.phase = .leave ∨ (∃ c, x.phase = .prune c) →
      ∃ t g, exec (.twret va) s = .next t ∧ SameOthers s t ∧ lookOpt t.me.walks l.val = some { x with phase := .due } ∧
        lanesAt t.me .walk (fun k => k = l) (fun _ => x.back) ∧ frameIs t w x.obj (d - 1) g ∧
        (x.phase = .enter → dNum t w x.obj 2 = d ∧
          g = { f with user := (w.rv 21 l).toNat, pend := (r % 2 ^ 31) &&& x.child, flags := g.flags } ∧
          ∀ i, g.flags.testBit i = if i = 0 then true else if i = 3 then r.testBit 31 else f.flags.testBit i) ∧
        (x.phase = .leave → dNum t w x.obj 2 = d - 1 ∧ g = f) ∧
        (∀ c, x.phase = .prune c → x.child < 2 ^ 35 → (r = 0 → d < x.cap) →
          g = { f with user := (w.rv 21 l).toNat, pend := g.pend } ∧
          (∀ i, g.pend.testBit i = (f.pend.testBit i && decide (i ≠ c.val))) ∧
          (r ≠ 0 → dNum t w x.obj 2 = d) ∧
          (r = 0 → dNum t w x.obj 2 = d + 1 ∧ frameIs t w x.obj d
            { node := x.child % 2 ^ 32, pend := 0, user := (w.rv 21 l).toNat, type := x.child / 2 ^ 32, flags := 0, cidx := c.val,
              jidx := 0 }))) ∧
    (x.phase ≠ .idle → s.waiters = [] →
      ∃ t, exec .twstop s = .next t ∧ walkEnded s t s.cur l x 3 1 ∧
        (x.phase = .enter ∨ (∃ c, x.phase = .prune c) → dNum t w (frameOff x.obj (d - 1) + 8) 4 = (w.rv 21 l).toNat))) ∧
  (∀ (s : State) (va : VReg), walkWord s [va] → outside s →
    exec (.twret va) s = .next (s.trapAt s.cur 0x12 1 s.me.run.pc) ∧ exec .twstop s = .next (s.trapAt s.cur 0x12 1 s.me.run.pc))

/-- R274, R280 and R282: the step of an entered frame with a pending child. A child whose pointer is null by now is dropped; one without a prune routine
is pushed; one with such a routine is presented; a full stack, and a child that cannot be read, end the walk in FAULT. What a node's fields are is said by the claim NodeReads. -/
def Sys2Proof.Claims.TreeChildren : Prop :=
  ∀ (s : State) (n : Nat) (l : Lane) (x : WalkLane) (y : TreeSlot) (v : NodeType) (f : Frame) (c : Nat), stepDue s n l x y →
    let w := s.wave n
    let depth := dNum s w x.obj 2
    depth ≠ 0 → depth ≤ x.cap → x.cap ≤ 256 → frameIs s w x.obj (depth - 1) f → f.flags.testBit 0 = true → f.flags.testBit 4 = false →
    y.types[f.type]? = some v → visits f c →
    (depth = x.cap → ∃ t, exec (.nodePresentation n l) s = .next t ∧ walkEnded s t n l x 4 2 ∧ dNum t w (x.obj + 6) 1 % 8 = 5) ∧
    (depth < x.cap → s.childPtr n w y v (y.treeBase.toNat + f.node) c = .ok none →
      ∃ t g, exec (.nodePresentation n l) s = .next t ∧ t.waves = s.waves ∧ dNum t w x.obj 2 = depth ∧ frameIs t w x.obj (depth - 1) g ∧
        withoutChild f g c) ∧
    (∀ child, depth < x.cap → s.childPtr n w y v (y.treeBase.toNat + f.node) c = .ok (some child) → child < 2 ^ 32 - 1 →
      (∀ d, s.readNode n w y child = .ok d → d.info.prune = 0xFFFFFFFF →
        ∃ t g, exec (.nodePresentation n l) s = .next t ∧ t.waves = s.waves ∧ dNum t w x.obj 2 = depth + 1 ∧
          frameIs t w x.obj (depth - 1) g ∧ withoutChild f g c ∧
          frameIs t w x.obj depth { node := child, pend := 0, user := f.user, type := d.type, flags := 0, cidx := c, jidx := 0 }) ∧
      (∀ d, s.readNode n w y child = .ok d → d.info.prune ≠ 0xFFFFFFFF →
        ∃ t, exec (.nodePresentation n l) s = .next t ∧ t.dies = s.dies ∧
          presented t n l { x with phase := .prune (Fin.ofNat 32 c), child := child + d.type * 2 ^ 32 } { y with prunes := y.prunes + 1 } 2 f.user
            depth c d.type child d.key d.info.prune) ∧
      (∀ r, s.readNode n w y child = .fault r → r < 8 →
        ∃ t, exec (.nodePresentation n l) s = .next t ∧ walkEnded s t n l x 4 2 ∧ dNum t w (x.obj + 6) 1 % 8 = r))

/-- R280, R282 and R285: the step of an entered frame without a pending child. Without a join, and after a join that brings its chain to the end, the
leave routine is presented, or the frame is popped where its type has none; a join that finds another part outstanding pops it and counts
that, for a node without a leave routine too (R289 as log entry 49 reads it: the model's choice); a LEAVING frame whose type has no leave routine
is presented all the same (log entry 96: the model's choice); one that meets a COUNT of 0 ends the walk in FAULT; a join waits until it may act, and empties the L1. -/
def Sys2Proof.Claims.TreeLeaves : Prop :=
  ∀ (s : State) (n : Nat) (l : Lane) (x : WalkLane) (y : TreeSlot) (v : NodeType) (f : Frame), stepDue s n l x y →
    let w := s.wave n
    let depth := dNum s w x.obj 2
    depth ≠ 0 → depth ≤ x.cap → x.cap ≤ 256 → frameIs s w x.obj (depth - 1) f → y.types[f.type]? = some v →
    (f.flags.testBit 4 = true → ∀ ks, s.keyBlock n w y v (y.treeBase.toNat + f.node) 0 8 = .ok ks →
      ∃ t, exec (.nodePresentation n l) s = .next t ∧ leaves t n w l x y v depth f ks) ∧
    (f.flags.testBit 0 = true → f.flags.testBit 4 = false → f.pend = 0 →
      (f.flags.testBit 1 = false →
        (v.leave = 0xFFFFFFFF → ∃ t, exec (.nodePresentation n l) s = .next t ∧ t.waves = s.waves ∧ dNum t w x.obj 2 = depth - 1) ∧
        (v.leave ≠ 0xFFFFFFFF → keyApart x y v f [] → ∀ ks, s.keyBlock n w y v (y.treeBase.toNat + f.node) 0 8 = .ok ks →
          ∃ t, exec (.nodePresentation n l) s = .next t ∧ leaves t n w l x y v depth f ks)) ∧
      (f.flags.testBit 1 = true → ¬ mayJoin s n → ∃ t, exec (.nodePresentation n l) s = .next t ∧ t = { s with relief := t.relief }) ∧
      (∀ (cs : List Nat) (z : Nat), f.flags.testBit 1 = true → mayJoin s n → chain s w cs → cs.head? = some (cellAddr s w x.obj x.cap f) →
        cs.getLast? = some z → cellsApart x cs →
        let joined (t : State) : Prop := (t.core w.id.place).l1 = [] ∧ ∀ a ∈ cs, a ≠ z → dNum t w a 4 = 0
        (dNum s w z 4 = 0 → ∃ t, exec (.nodePresentation n l) s = .next t ∧ joined t ∧ walkEnded s t n l x 4 2 ∧
          dNum t w (x.obj + 6) 1 % 8 = 6) ∧
        (2 ≤ dNum s w z 4 → ∃ t, exec (.nodePresentation n l) s = .next t ∧ joined t ∧ dNum t w z 4 = dNum s w z 4 - 1 ∧
          dNum t w x.obj 2 = depth - 1 ∧ t.wave n = { w with slots := put w.slots x.slot.val { y with skipped := y.skipped + 1 } }) ∧
        (dNum s w z 4 = 1 → dNum s w (z + 4) 4 = 0xFFFFFFFF →
          (v.leave = 0xFFFFFFFF → ∃ t, exec (.nodePresentation n l) s = .next t ∧ joined t ∧ dNum t w z 4 = 0 ∧ t.waves = s.waves ∧
            dNum t w x.obj 2 = depth - 1) ∧
          (v.leave ≠ 0xFFFFFFFF → keyApart x y v f cs → ∀ ks, s.keyBlock n w y v (y.treeBase.toNat + f.node) 0 8 = .ok ks →
            ∃ t, exec (.nodePresentation n l) s = .next t ∧ joined t ∧ dNum t w z 4 = 0 ∧ leaves t n w l x y v depth f ks))))

/-- R271 to R286 and R289: the tree-walk engine's tables, its reading of nodes, and its walks. The skipped count of R289 (log entry 49), the TYPE of
the first frame (log entry 98), the entry to which a lane returns whose walk a handler started (log entry 88) and the presentation of a LEAVING
frame whose type has no leave routine (log entry 96) are the model's choices. -/
def Obligations.TreeWalks : Prop := TreeTables ∧ NodeReads ∧ TreeSteps ∧ TreeChildren ∧ TreeLeaves

/-- R225, R287 and R288: `twcut`, with nothing of the wave under way that could write a bound object, answers all ones where no lane of Act has a bound object
that is not ACTIVE; for one lane that has, it cuts the frames up to the highest
one below the asked depth with a pending child into the new object, joined through cells, or makes that object empty and DONE. `twadopt` for one
lane answers 3 for an ACTIVE object, 4 for one that does not fit its slot, and else claims it and parks the lane. -/
def Obligations.TreeCuts : Prop :=
  (∀ (s : State) (vd va : VReg) (sb : SReg), walkWord s [vd, va] → outside s →
    lockFree s ∨ (∀ l, active s.me l = true → lookOpt s.me.walks l.val = none) →
    (∀ l x, active s.me l = true → lookOpt s.me.walks l.val = some x → dNum s s.me (x.obj + 4) 1 = 1) →
    ∃ t : Wave, exec (.twcut vd va sb) s = .next (s.setMe (t.past 1)) ∧
      t = { s.me with v := t.v, dirty := t.dirty, hw := t.hw, sr := { s.me.sr with vstart := 0 } } ∧
      ∀ r l, t.rv r l = if r = vd ∧ active s.me l = true then 0xFFFFFFFF else s.me.rv r l) ∧
  (∀ (s : State) (vd va : VReg) (sb : SReg) (l : Lane) (x : WalkLane) (f : Nat → Frame), walkWord s [vd, va] → outside s →
    let w := s.me
    let y := (w.rs sb).toNat + l.val * objSize x.cap
    let depth := dNum s w x.obj 2
    let m := min (w.rv va l).toNat depth
    let slot := dNum s w (x.obj + 5) 1
    let base := dNum s w (x.obj + 8) 8
    lanes (active w) = [l] → lookOpt w.walks l.val = some x → dNum s w (x.obj + 4) 1 ≠ 1 → 1 ≤ x.cap → x.cap ≤ 256 → depth ≤ x.cap →
    (w.rs sb).toNat % 8 = 0 → y + objSize x.cap ≤ w.seg.d.limit.toNat → y + objSize x.cap ≤ x.obj ∨ x.obj + objSize x.cap ≤ y → lockFree s →
    dSound s w → (∀ i, i < depth → frameIs s w x.obj i (f i)) →
    ((∀ i, i < m → (f i).pend = 0) →
      ∃ t, exec (.twcut vd va sb) s = .next t ∧ t.me.rv vd l = 0 ∧ headerIs t w y 0 x.cap 2 slot 8 base (2 ^ 64 - 1) 0) ∧
    (∀ j, j < m → (f j).pend ≠ 0 → (∀ i, j < i → i < m → (f i).pend = 0) →
      ∃ t, exec (.twcut vd va sb) s = .next t ∧ t.me.rv vd l = BitVec.ofNat 32 (j + 1) ∧
        headerIs t w y (j + 1) x.cap 0 slot 8 base (2 ^ 64 - 1) 0 ∧ dNum t w (x.obj + 16) 8 = y + 32 + 16 * x.cap ∧
        ∀ i, i ≤ j →
          let c := y + 32 + 16 * x.cap + 8 * i
          (∃ g, frameIs t w y i g ∧ g = { f i with flags := g.flags, jidx := i } ∧
            flagsBecome g.flags (f i).flags (fun b => if b = 1 then some true else if b = 2 ∨ b = 4 then some false else none)) ∧
          (∃ g, frameIs t w x.obj i g ∧ g = { f i with flags := g.flags, pend := 0, jidx := i } ∧
            flagsBecome g.flags (f i).flags (fun b => if b = 1 ∨ b = 2 then some true else none)) ∧
          dNum t w c 4 = 2 ∧
          dNum t w (c + 4) 4 = if (f i).flags.testBit 1 then cellAddr s w x.obj x.cap (f i) % 2 ^ 32 else 0xFFFFFFFF)) ∧
  (∀ (s : State) (vd : VReg) (sb : SReg) (l : Lane) (y : TreeSlot), walkWord s [vd, 31] → outside s →
    let w := s.me
    let b := (w.rs sb).toNat
    let slot := dNum s w (b + 5) 1
    let o := b + l.val * objSize y.cap
    let depth := dNum s w o 2
    let state := dNum s w (o + 4) 1
    lanes (active w) = [l] → b % 8 = 0 → b + 32 ≤ w.seg.d.limit.toNat → slot ≤ 3 → lookOpt w.slots slot = some y →
    o + objSize y.cap ≤ w.seg.d.limit.toNat → lockFree s → dSound s w →
    let bad : Prop := 4 < state ∨ dNum s w (o + 5) 1 ≠ slot ∨ dNum s w (o + 2) 2 ≠ y.cap ∨ y.cap < depth
    (state = 1 → ∃ t : Wave, exec (.twadopt vd sb) s = .next (s.setMe (t.past 1)) ∧ t = { w with v := t.v, dirty := t.dirty, hw := t.hw } ∧
      ∀ r k, t.rv r k = if r = vd ∧ k = l then 3 else w.rv r k) ∧
    (state ≠ 1 → bad → ∃ t : Wave, exec (.twadopt vd sb) s = .next (s.setMe (t.past 1)) ∧ t = { w with v := t.v, dirty := t.dirty, hw := t.hw } ∧
      ∀ r k, t.rv r k = if r = vd ∧ k = l then 4 else w.rv r k) ∧
    (state ≠ 1 → ¬ bad → ∃ t, exec (.twadopt vd sb) s = .next t ∧ dNum t w (o + 4) 1 = 1 ∧ dNum t w (o + 24) 8 = ownerOf w l ∧
      dNum t w o 2 = depth ∧ (∀ i f, frameIs s w o i f → frameIs t w o i f) ∧
      lookOpt t.me.walks l.val = some { obj := o, cap := y.cap, vd, slot := Fin.ofNat 4 slot, lock := s.seq, back := w.run.pc,
                                        kind := w.run.kind, phase := .due, child := 0, stall := none } ∧
      lanesAt t.me .walk (fun k => k = l) (fun _ => w.run.pc)))

/-! ## Grace periods (R296 to R305) -/

namespace Sys2Proof.Claims

/-- The grace domain that a wave names (R298): the .pkg domain of its ASID, or the .die domain of the logical die of its .d segment. -/
def domainNum (s : State) (w : Wave) (sc : GScope) : Nat :=
  w.id.asid.toNat * 8 + match sc with
    | .pkg => 0
    | .die => (s.partn w.id.part).logDie (s.gang w.id.gang).segDie % 4 + 1

/-- The wave leaves the waves that graces hold: a quiescent point (R297). -/
def quiescent (s t : State) : Prop :=
  t.domains = s.domains.map (fun e => (e.1, { e.2 with now := e.2.now.map (fun g => { g with held := g.held.filter (· ≠ s.cur) }) }))

/-- The die of the scope of domain `k`; none where the scope is the package. -/
def graceDie (s : State) (k : Nat) : Option (Fin 4) :=
  if k % 8 = 0 then none else some ((s.partn (s.asid (k / 8)).part).physDie (k % 8 - 1))

/-- A grace of domain `k` starts now: it holds the waves of the ASID that are registered there and in a read section, and the L1 of every core
of its scope that holds a resident wave of the ASID is emptied (R300). -/
def graceStarts (s t : State) (k : Nat) (d : Domain) : Prop :=
  ∃ g : Grace, t.domain k = { d with now := some g } ∧ g.start = s.time ∧ g.told = false ∧
    (∀ n, n ∈ g.held ↔ ∃ w, (n, w) ∈ s.waves ∧ w.live = true ∧ w.id.asid.toNat = k / 8 ∧ w.sr.rdep ≠ 0 ∧
      (k % 8 = 0 ∨ (s.gang w.id.gang).record.flags.getLsbD 2 = true ∨ domainNum s w .die = k)) ∧
    ∀ e ∈ s.waves, e.2.live = true → e.2.id.asid.toNat = k / 8 → (s.gang e.2.id.gang).place.isSome = true →
      (∀ d, graceDie s k = some d → e.2.id.place.die = d) → (t.core e.2.id.place).l1 = []

/-- A grace of domain `k` is requested (R299): `x` is its number; with none in progress it starts, else it is pending. -/
def graceAsked (s t : State) (k : Nat) (x : Word) (fs : List Frog) : Prop :=
  let d := s.domain k
  (d.now = none → x = d.c + 1 ∧ graceStarts s t k { d with frogs := fs }) ∧
  (d.now.isSome = true → x = d.c + 2 ∧ t.domain k = { d with pending := true, frogs := fs })

/-- A word of MAJ 0x3A may run: profile 3 (R310). -/
def graceWord (s : State) : Prop := 3 ≤ s.me.id.eff.toNat

/-- C − t taken modulo 2^32 is below 2^31 (R301). -/
def graceReached (c t : Word) : Prop := (c.toNat + 2 ^ 32 - t.toNat) % 2 ^ 32 < 2 ^ 31

/-- The wave is `w` at its next word; no memory, gang or other wave differs. -/
def graceDone (s t : State) (w : Wave) : Prop :=
  t.me = w.past 1 ∧ SameOthers s t ∧ t = { s with waves := t.waves, domains := t.domains, cores := t.cores }

/-- The number that `n` bytes of device physical memory form, read without a key. -/
def devNum (s : State) (a n : Nat) : Nat := leNat ((List.range n).map (fun i => s.physByte [] (a + i)))

/-- Where the reliability record that comes `j` records from now goes on a die (R330). -/
def recordAddr (s : State) (d : Fin 4) (j : Nat) : Nat :=
  (s.die d).relBase.toNat * 64 + 64 * (((s.die d).relHead.toNat + j) % 2 ^ (s.die d).relSize.toNat)

/-- The ring of the die has room for `n` records, lies in GDDR-7 without poison, and no selvedge region is set up. -/
def ringRoom (s : State) (d : Fin 4) (n : Nat) : Prop :=
  let x := s.die d
  x.relSize ≠ 0 ∧ (x.relHead - x.relTail).toNat + n ≤ 2 ^ x.relSize.toNat ∧ x.selvBase = 0 ∧ (∀ j, j < n → recordAddr s d j + 64 ≤ 2 ^ 38) ∧
  s.gddrPoison = [] ∧ Mem.wf s.gddr = true

/-- The ring has room for a record, and no corrected error waits that would come before it. -/
def ringSound (s : State) (d : Fin 4) : Prop := ringRoom s d 1 ∧ (s.die d).held = []

/-- A record with this type, severity and time stands at place `j` from the ring's HEAD in `s` (R331). -/
def recordedAt (s t : State) (d : Fin 4) (j type sev time : Nat) : Prop :=
  let a := recordAddr s d j
  devNum t a 2 = type ∧ devNum t (a + 2) 1 = sev ∧ devNum t (a + 8) 8 = time % 2 ^ 64

/-- Such a record stands in the die's ring, and HEAD has advanced (R330). -/
def recorded (s t : State) (d : Fin 4) (type sev time : Nat) : Prop :=
  (t.die d).relHead = (s.die d).relHead + 1 ∧ recordedAt s t d 0 type sev time

/-- The wave is swapped out: its gang holds no quad. -/
def swapped (s : State) (m : Nat) : Bool := (s.gang (s.wave m).id.gang).place.isNone

/-- The first of the held waves in the order of R305: resident ones by die, quad, core and slot, then the others in the order of their saves. -/
def firstHeld (s : State) (held : List Nat) (m : Nat) : Prop :=
  let at_ (n : Nat) : Nat :=
    let w := s.wave n
    ((w.id.place.die.val * 36 + w.id.place.quad.val) * 4 + w.id.place.core.val) * 16 + w.id.slot.val
  m ∈ held ∧ (∀ n ∈ held, swapped s n = false → swapped s m = false ∧ at_ m ≤ at_ n) ∧
  (swapped s m = true → ∀ n ∈ held, (s.gang (s.wave m).id.gang).seq ≤ (s.gang (s.wave n).id.gang).seq)

/-- The bytes that a freed ring takes for an entry (R304). -/
def freedEntry (k : Nat) (f : Frog) : List Byte :=
  bytesOfNat 8 f.addr.toNat ++ bytesOfNat 1 f.cls.toNat ++ bytesOfNat 1 (if k % 8 = 0 then 4 else 3) ++ [0, 0] ++ bytesOfNat 4 f.grace.toNat

end Sys2Proof.Claims

/-- R296 to R303: `rdenter` and `rdexit` count the depth of the read section, and leaving the last one is a quiescent point, as `qsp` is outside one, for a wave that a
grace holds once its events are performed (R302);
`gstart` releases and requests a grace; `wgrace` goes on with an acquire once the grace has completed, else blocks, and traps in a read
section; `gpoll` reads C; `defer` requests a grace for an address, or answers 1 when the frog queue is full. -/
def Obligations.GraceInstructions : Prop :=
  (∀ s : State, graceWord s →
    (s.me.sr.rdep ≠ 255 →
      exec .rdenter s = .next (s.setMe ({ s.me with sr := { s.me.sr with rdep := s.me.sr.rdep + 1 } }.past 1))) ∧
    (s.me.sr.rdep = 255 → exec .rdenter s = .next (s.trapAt s.cur 0x0F 1 s.me.run.pc)) ∧
    (let d := s.me.sr.rdep - (if s.me.sr.rdep = 0 then 0 else 1)
     (d = 0 → s.graceHolds s.cur = true → nothingPending s true) →
     ∃ t, exec .rdexit s = .next t ∧ graceDone s t { s.me with sr := { s.me.sr with rdep := d } } ∧
      (d = 0 → quiescent s t) ∧ (d ≠ 0 → t.domains = s.domains)) ∧
    (mayQuiet s → ∃ t, exec .qsp s = .next t ∧ graceDone s t s.me ∧ (s.me.sr.rdep = 0 → quiescent s t) ∧ (s.me.sr.rdep ≠ 0 → t.domains = s.domains))) ∧
  (∀ (s : State) (sd sa : SReg) (sc : GScope) (cls : BitVec 7), graceWord s → nothingPending s (decide (sc = .pkg)) →
    let k := domainNum s s.me sc
    let d := s.domain k
    (∃ t x, exec (.gstart sd sc) s = .next t ∧ graceDone s t (answers s.me sd x) ∧ graceAsked s t k x d.frogs) ∧
    (d.frogs.length < 4096 → ∃ t x, exec (.defer sd sa sc cls) s = .next t ∧ graceDone s t (s.me.setS sd 0) ∧
      graceAsked s t k x (d.frogs ++ [{ addr := s.me.rs sa, cls, grace := x }])) ∧
    (4096 ≤ d.frogs.length → exec (.defer sd sa sc cls) s = .next (s.setMe ((s.me.setS sd 1).past 1)))) ∧
  (∀ (s : State) (sd sa : SReg) (sc : GScope), graceWord s →
    let d := s.domain (domainNum s s.me sc)
    let x : Word := (s.me.rs sa).truncate 32
    exec (.gpoll sd sc) s = .next (s.setMe ((answers s.me sd d.c).past 1)) ∧
    (s.me.sr.rdep ≠ 0 → exec (.wgrace sa sc) s = .next (s.trapAt s.cur 0x0F 0 s.me.run.pc)) ∧
    (s.me.sr.rdep = 0 → graceReached d.c x → noneSeen s.me = true → ∃ t, exec (.wgrace sa sc) s = .next t ∧ graceDone s t s.me ∧ acquired s t ∧ t.domains = s.domains) ∧
    (s.me.sr.rdep = 0 → ¬ graceReached d.c x → mayQuiet s → ∃ t, exec (.wgrace sa sc) s = .next t ∧ blocked s t (.wgrace sc x)))

/-- R299, R300, R304, R305 and R203: a grace whose held waves are gone completes, and a pending one starts; an entry whose grace has completed is posted to
a freed ring that has room; a grace in progress for longer than %gwarn is reported once, by a record of type 0x0021 that names its number, the
waves still held and the first of them, said of a ring that has room; and a commit to a REPL page first locks its lines, once what stalled at the
last one (waves, rows of a stream, lanes of a walk) has tried again, and then reaches every replica. -/
def Obligations.GraceActs : Prop :=
  (∀ (s : State) (dom : DomainKey) (g : Grace),
    let k := dom.asid * 8 + (match dom.die with
      | none => 0
      | some d => d.val + 1)
    let d := s.domain k
    let die := (graceDie s k).getD ((s.partn (s.asid (k / 8)).part).physDie 0)
    (s.asid dom.asid).retiring = [] →
    (d.now = some g → g.held = [] → d.frogs = [] → ∃ t, exec (.graceCompletion dom) s = .next t.settle ∧ t.waves = s.waves ∧
      (d.pending = false → t.domain k = { d with c := d.c + 1, now := none } ∧ t.cores = s.cores) ∧
      (d.pending = true → graceStarts s t k { d with c := d.c + 1, pending := false })) ∧
    (d.now = none ∨ (d.now = some g ∧ g.held ≠ []) → exec (.graceCompletion dom) s = .next s) ∧
    (∀ (f : Frog) (base n : Nat) (bs : List Byte) (s1 : State) (ps : List Piece),
      let q := s.qtr k
      let put_ := field bs 0 4
      d.frogs = [f] → d.ring = some (base, n) → d.stuck = false → d.stall = none → graceReached d.c f.grace → s.repl = [] →
      s.got q .load base 8 = .ok bs →
      ((put_ + 2 ^ 32 - field bs 4 4) % 2 ^ 32 < 2 ^ n →
        s.reach q .store false (splitPages 3 (base + 0x40 + 16 * (put_ % 2 ^ n)) 16 ++ splitPages 3 base 4) = .ok (s1, ps) →
        exec (.freedRingRecheck dom) s =
          .next ((s.putPieces q ps (freedEntry k f ++ bytesOfNat 4 ((put_ + 1) % 2 ^ 32))).setDomain k { d with frogs := [] })) ∧
      (2 ^ n ≤ (put_ + 2 ^ 32 - field bs 4 4) % 2 ^ 32 → exec (.freedRingRecheck dom) s = .next s)) ∧
    (let limit := (s.partn (s.asid (k / 8)).part).gwarn.toNat
     (d.now = some g → g.told = false → limit ≠ 0 → limit < s.time - g.start →
      ∃ t, exec (.slowGrace dom) s = .next t ∧ t.domain k = { d with now := some { g with told := true } } ∧ t.waves = s.waves ∧
        (ringSound s die → g.held ≠ [] → recorded s t die 0x0021 0 s.time ∧ ∃ m, firstHeld s g.held m ∧
          let a := recordAddr s die 0
          devNum t (a + 20) 2 = dom.asid % 2 ^ 16 ∧ devNum t (a + 22) 1 = (s.asid (k / 8)).part.val ∧
          devNum t (a + 24) 8 = (s.wave m).id.task.toNat ∧ devNum t (a + 32) 4 = (s.wave m).id.wave.val + 16 * (s.wave m).id.wg.val ∧
          devNum t (a + 48) 8 = (d.c + 1).toNat ∧
          devNum t (a + 56) 8 = g.held.length % 2 ^ 32 + (if swapped s m then 2 ^ 32 else 0) + (if k % 8 = 0 then 4 else 3) * 2 ^ 33)) ∧
     (d.now = none ∨ (d.now = some g ∧ (g.told = true ∨ limit = 0 ∨ s.time - g.start ≤ limit)) → exec (.slowGrace dom) s = .next s))) ∧
  (∀ (s : State) (c : ReplCommit) (rest : List ReplCommit), s.repl = c :: rest →
    (c.locked = true → c.bad = false → c.bytes ≠ [] → c.addr % 32 + c.bytes.length ≤ 32 → c.addr < 2 ^ 38 → s.gddrPoison = [] →
      Mem.wf s.gddr = true →
      ∃ t : State, exec .replCommit s = .next t.settle ∧ t.repl = rest ∧ t.waves = s.waves ∧
        ∀ (d : Fin 4) (i : Nat) (b : Byte), c.bytes[i]? = some b → t.physByte c.key (d.val * 2 ^ 36 + c.addr % 2 ^ 36 + i) = b) ∧
    (c.locked = false → (∀ x ∈ s.relief, s.canRetry x = false) →
      exec .replCommit s = .next { s with repl := { c with locked := true } :: rest }) ∧
    (c.locked = false → (∃ x ∈ s.relief, s.canRetry x = true) → exec .replCommit s = .next s)) ∧
  (∀ s : State, s.repl = [] → exec .replCommit s = .next s)

/-! ## `spawn`, `join`, the block pools and MAJ 0x3C (R161 to R163, R312 to R314) -/

namespace Sys2Proof.Claims

/-- Registers v(8 × lo) to v(8 × hi − 1) are 0 and clean, the others as they were (R163, R323). -/
def blocksZeroed (w t : Wave) (lo hi : Nat) : Prop :=
  (∀ r l, t.rv r l = if 8 * lo ≤ r.val ∧ r.val < 8 * hi then 0 else w.rv r l) ∧
  ∀ r : VReg, t.dirty.getLsbD r.val = (w.dirty.getLsbD r.val && !(decide (8 * lo ≤ r.val) && decide (r.val < 8 * hi)))

/-- The free blocks of the issuing wave's workgroup. -/
def poolSize (s : State) : Nat := look 0 (myGang s).pool s.me.id.wg.val

/-- The pool of the workgroup takes the size `n`. -/
def poolBecomes (s t : State) (n : Nat) : Prop :=
  t.gangs = put s.gangs s.me.id.gang { myGang s with pool := put (myGang s).pool s.me.id.wg.val n }

/-- The bounds of R165 for a space. -/
def segmentLegal (s : State) (sp : Space) (b lim : Nat) : Prop :=
  let r := (myGang s).record
  match sp with
  | .g => b + lim ≤ 2 ^ 48
  | .d => b % 4 = 0 ∧ b + lim ≤ 0x6000000
  | .q => b % 256 = 0 ∧ b + lim ≤ 0x300000
  | .c => b % 4 = 0 ∧ b + lim ≤ 2 ^ 48
  | .l => b % 256 = 0 ∧ lim % 4 = 0 ∧ lim ≤ 0x100000 ∧ b + r.wg * r.waves * 64 * lim ≤ 2 ^ 48

/-- The task that `spawn` inserts (R161). -/
def spawned (s : State) (o : Nat) (bs : List Byte) (b : Task) : Prop :=
  b.record = taskRecordOf bs ∧ b.task = s.me.seg.g.base + BitVec.ofNat 64 o ∧ b.asid = s.me.id.asid.toNat ∧ b.part = s.me.id.part ∧
  b.depth = s.me.id.depth.toNat + 1 ∧ b.priv = s.me.id.priv ∧ b.parent = some s.cur ∧ b.insert = s.time ∧ b.gang = none ∧ b.resident = false

/-- The message that tells the host of a frozen gang (R354): SERVICE 0x8002, and a payload of 12 bytes. -/
def frozenMessage (task : DWord) (p : Fin 8) (cause : BitVec 16) : Message :=
  .mailbox (bytesOfNat 2 0x8002 ++ bytesOfNat 2 0 ++ bytesOfNat 2 12 ++ bytesOfNat 2 0 ++
    bytesOfNat 8 task.toNat ++ bytesOfNat 1 p.val ++ [0] ++ bytesOfNat 2 cause.toNat ++ List.replicate 44 0)

/-- Memory as a wave's core sees it past its L1. -/
def pastL1 (s : State) : Agent := { s.me.agent with core := none }

end Sys2Proof.Claims

/-- R161 to R163: `spawn` of a legal record, with nothing of the wave under way, inserts the child and counts it, or answers 1 when the Stash or the count is full; `join` goes on, with an acquire,
when no child is outstanding, else blocks; `rgive` passes blocks to the pool and `rclaim` takes them, zeroed, when the pool has them. -/
def Obligations.TasksAndBlocks : Prop :=
  (∀ (s s1 : State) (sd sa : SReg) (ps : List Piece), waveWide s 1 →
    let o := (s.me.rs sa).toNat
    let p := s.partn s.me.id.part
    let full : Prop := p.cfg.share ≤ (s.stash.filter (fun t => t.part = s.me.id.part)).length ∨ (∃ t ∈ s.heirs, t.part = s.me.id.part) ∨
      s.me.kids = 65535
    let bs := ps.flatMap (s.pieceBytes (pastL1 s))
    (s.me.id.depth = 8 → exec (.spawn sd sa) s = trapsWith s 0x13) ∧
    (s.me.id.depth ≠ 8 → o % 64 ≠ 0 → exec (.spawn sd sa) s = .next (s.trapAt s.cur 0x04 (spaceInfo .g o) s.me.run.pc)) ∧
    (s.me.id.depth ≠ 8 → o % 64 = 0 → s.me.seg.g.limit.toNat < o + 256 →
      exec (.spawn sd sa) s = .next (s.trapAt s.cur 0x05 (spaceInfo .g o) s.me.run.pc)) ∧
    (s.me.id.depth ≠ 8 → o % 64 = 0 → o + 256 ≤ s.me.seg.g.limit.toNat → s.repl = [] → nothingPending s true →
      s.reach (pastL1 s) .load false (splitPages 3 (s.me.seg.g.base.toNat + o) 256) = .ok (s1, ps) →
      (∀ x ∈ ps, s.piecePoisoned (pastL1 s) x = false) →
      (full → exec (.spawn sd sa) s = .next (s.setMe ((s.me.setS sd 1).past 1))) ∧
      (¬ full → s.badRecord (taskRecordOf bs) s.me.id.asid.toNat s.me.id.part = none →
        ∃ t b, exec (.spawn sd sa) s = .next t ∧ t.me = { (s.me.setS sd 0).past 1 with kids := s.me.kids + 1 } ∧ SameOthers s t ∧
          spawned s o bs b ∧ (∀ x, x ∈ t.stash ↔ x = b ∨ x ∈ s.stash) ∧
          t = { s with seq := s.seq + 1, waves := t.waves, stash := t.stash }))) ∧
  (∀ s : State,
    (s.me.kids = 0 → noneSeen s.me = true → ∃ t, exec .join s = .next t ∧ passed s t s.me ∧ acquired s t ∧ t.gangs = s.gangs) ∧
    (s.me.kids ≠ 0 → mayQuiet s → ∃ t, exec .join s = .next t ∧ blocked s t .join)) ∧
  (∀ (s : State) (n : Fin 4),
    let b := s.me.blocks.val
    (b ≤ n.val → exec (.rgive n) s = trapsWith s 0x11) ∧
    (n.val < b → (∀ e ∈ s.me.walks, e.2.phase = .idle) → ∃ t w, passedThenServed (.rgive n) s t w ∧ poolBecomes s t (poolSize s + n.val) ∧
      w = { s.me with v := w.v, dirty := w.dirty, hw := w.hw, blocks := w.blocks } ∧ w.blocks.val = b - n.val ∧
      blocksZeroed s.me w (b - n.val) b) ∧
    (4 < b + n.val → exec (.rclaim n) s = trapsWith s 0x11) ∧
    (b + n.val ≤ 4 → n.val ≤ poolSize s → (∀ x ∈ s.waiters, x.wave / 16 = s.cur / 16 → ∀ m, x.wait.what ≠ .rclaim m) →
      ∃ t w, exec (.rclaim n) s = .next t ∧ passed s t w ∧ poolBecomes s t (poolSize s - n.val) ∧
        w = { s.me with v := w.v, dirty := w.dirty, hw := w.hw, blocks := w.blocks } ∧ w.blocks.val = b + n.val ∧
        blocksZeroed s.me w b (b + n.val)) ∧
    (b + n.val ≤ 4 → poolSize s < n.val → mayQuiet s → ∃ t, exec (.rclaim n) s = .next t ∧ blocked s t (.rclaim n.val)))

/-- R312 to R314: outside a privileged context `segld`, `tlbinv` and `halt` raise PRIVILEGED. In one, `segld` of a base and a limit that keep R165 replaces the
segment, and of others raises SEGMENT; `tlbinv` removes the ASID's translations, of the page that s[sa] lies in or all of them, and the loads made so
far stand as they are (log entry 89); `halt` begins to
freeze the gang for the host, with cause 0 unless it has begun to freeze already, so that none of its waves issues; once it is quiet (R318, steps 1 to 4) the gang is frozen, and the
host is told (R354). What the payload of that message holds is the model's choice (log entry 81). -/
def Obligations.PrivilegedInstructions : Prop :=
  (∀ (s : State) (sd sa : SReg) (sp : Space) (n : BitVec 10), s.me.id.priv = false →
    exec (.segld sd sa sp) s = trapsWith s 0x03 ∧ exec (.tlbinv sa n) s = trapsWith s 0x03 ∧ exec .halt s = trapsWith s 0x03) ∧
  (∀ (s : State) (sd sa : SReg) (sp : Space), s.me.id.priv = true →
    let b := s.me.rs sa
    let lim := s.me.rs sd
    (segmentLegal s sp b.toNat lim.toNat → nothingPending s true →
      ∃ g, exec (.segld sd sa sp) s = .next (s.setMe ({ s.me with seg := g }.past 1)) ∧
        (∀ x, ({ s.me with seg := g } : Wave).segment x = if x = sp then ⟨b, lim⟩ else s.me.segment x)) ∧
    (¬ segmentLegal s sp b.toNat lim.toNat →
      exec (.segld sd sa sp) s = .next (s.trapAt s.cur 0x05 (b ||| BitVec.ofNat 64 (spaceCode sp * 2 ^ 61)) s.me.run.pc))) ∧
  (∀ (s : State) (sa : SReg) (n : BitVec 10), s.me.id.priv = true → s.repl = [] → (∀ e ∈ s.waves, e.2.late = []) →
    let a := s.me.rs sa
    ∃ t, exec (.tlbinv sa n) s = .next t ∧ t.me = { s.me.past 1 with loads := [] } ∧ t.cur = s.cur ∧
      (∀ m, m ≠ s.cur → t.wave m = { s.wave m with loads := [] }) ∧
      (∀ c e, e ∈ (t.core c).tlb ↔ e ∈ (s.core c).tlb ∧
        ¬ (e.asid = n.toNat ∧ (a = BitVec.allOnes 64 ∨ (e.va ≤ a.toNat ∧ a.toNat < e.va + e.size)))) ∧
      t = { s with waves := t.waves, cores := t.cores }) ∧
  (∀ s : State, s.me.id.priv = true →
    let n := s.me.id.gang
    ∃ t, exec .halt s = .next t ∧ (t.gang n).halt = some ((s.gang n).halt.getD 0) ∧ (t.gang n).runs = false ∧ t.me.run.pc = (s.me.past 1).run.pc ∧
      t.outbox = s.outbox ∧ ∀ m, (t.wave m).s = (s.wave m).s ∧ (t.wave m).k = (s.wave m).k ∧ (t.wave m).v = (s.wave m).v) ∧
  (∀ (s : State) (n : Nat) (cause : BitVec 16), (s.gang n).halt = some cause → (s.gang n).kill = none → s.quiet n = true →
    (∀ m ∈ s.gangWaves n, (s.wave m).tiles = []) →
    let g := s.gang n
    ((s.endHalt n).gang n).frozen = true ∧ ((s.endHalt n).gang n).halt = none ∧
    (∃ d, (s.endHalt n).outbox = s.outbox ++ [frozenMessage g.task g.part cause, .interrupt d 2]) ∧
    ∀ m, ((s.endHalt n).wave m).s = (s.wave m).s ∧ ((s.endHalt n).wave m).k = (s.wave m).k ∧ ((s.endHalt n).wave m).v = (s.wave m).v)

/-! ## User queues (R149 to R153) -/

namespace Sys2Proof.Claims

/-- A descriptor that obeys R149. -/
def descriptorLegal (d : List Byte) : Prop :=
  1 ≤ field d 8 1 ∧ field d 8 1 ≤ 16 ∧ field d 0xC 4 = 0 ∧ field d 0x20 32 = 0

/-- RIDX and WIDX, and the address of the ring entry that RIDX names. -/
def ridx (d : List Byte) : Nat := field d 0x14 4
def widx (d : List Byte) : Nat := field d 0x10 4
def ringEntry (d : List Byte) : Nat := field d 0 8 + 8 * (ridx d % 2 ^ field d 8 1)

/-- The slot of queue `q` reads the bytes `bs` at a virtual address of the queue's ASID. -/
def slotReads (s : State) (x : Queue) (va n : Nat) (bs : List Byte) : Prop :=
  s.got ⟨x.asid, x.part, (s.partn x.part).physDie 0, none⟩ .load va n = .ok bs

/-- The slot of queue `q` may write `n` bytes at offset `o` of the descriptor. -/
def slotWrites (s : State) (x : Queue) (o n : Nat) : Prop :=
  ∃ r, s.reach ⟨x.asid, x.part, (s.partn x.part).physDie 0, none⟩ .store false (splitPages 2 (x.desc + o) n) = .ok r

/-- A write of `n` bytes by an agent goes through, and reaches no notify page and no poison. -/
def plainWrites (s : State) (a : Agent) (va n : Nat) : Prop :=
  s.gddrPoison = [] ∧ ∃ r, s.reach a .store false (splitPages 2 va n) = .ok r ∧ ∀ x ∈ r.2, x.1.notifies = none

/-- The partition has room in its share of the Stash for a task from a queue slot (R153). -/
def queueRoom (s : State) (p : Fin 8) : Prop :=
  (∀ t ∈ s.heirs, t.part ≠ p) ∧
  (s.stash.filter (fun t => t.part = p)).length < (s.partn p).cfg.share - (s.partn p).cfg.share / 8

end Sys2Proof.Claims

/-- R149 to R153, where the share that queue slots leave free is its last eighth, rounded down, and a queue whose NOTIFYW cannot be written keeps its
pending bit (the model's choices: log entries 79 and 9): a notification of a mapped queue sets its pending bit, of an unmapped one NOTIFYW, at once or when the key command on the slot of its page is over
(R357), and of an unregistered one has no effect; a queue with work takes a free slot,
or is left unmapped and dead where NOTIFYW cannot be written; the queue that R152 names gives its slot up; a slot whose bit is pending inserts the entry that RIDX names, or finds the ring empty. -/
def Obligations.QueueActs : Prop :=
  (∀ (s : State) (q : Nat) (x : Queue), lookOpt s.queues q = some x →
    (x.mapped = true → exec (.notification q) s = .next (s.setQueue q { x with pending := true })) ∧
    let noted := s.reach ⟨x.asid, x.part, 0, none⟩ .store true (splitPages 2 (x.desc + 0x18) 8)
    (∀ r ps, x.mapped = false → noted = .ok (r, ps) →
      exec (.notification q) s = .next (s.placeStores none (Agent.note ⟨x.asid, x.part, 0, none⟩) ps (bytesOfNat 8 1))) ∧
    (x.mapped = false → noted = .hold →
      exec (.notification q) s = .next { s with owed := s.owed ++ [⟨x.asid, x.part, 0, x.desc + 0x18, bytesOfNat 8 1⟩] })) ∧
  (∀ (s : State) (q : Nat), lookOpt s.queues q = none → exec (.notification q) s = .next s ∧ exec (.queueMap q) s = .next s) ∧
  (∀ (s : State) (q : Nat) (x : Queue) (d : List Byte), lookOpt s.queues q = some x → x.mapped = false → x.dead = false →
    (s.partn x.part).made = true → (s.partn x.part).ending = [] → s.mappedQueues.length < 256 → slotReads s x x.desc 64 d → descriptorLegal d →
    let due : Bool := x.pending || decide (field d 0x18 8 ≠ 0) || decide (ridx d ≠ widx d)
    (due = true → slotWrites s x 0x18 8 → ∃ t, exec (.queueMap q) s = .next t ∧ t.waves = s.waves ∧ t.gangs = s.gangs ∧ t.stash = s.stash ∧
      t.queue q = { x with mapped := true, joining := false, mapTime := s.time, emptyAt := s.time, expired := false, pending := true }) ∧
    (∀ c i, due = true →
      s.reach ⟨x.asid, x.part, (s.partn x.part).physDie 0, none⟩ .store false (splitPages 2 (x.desc + 0x18) 8) = .trap c i →
      ∃ t, exec (.queueMap q) s = .next t ∧ (t.queue q).mapped = false ∧ (t.queue q).dead = true ∧ (t.queue q).pending = true) ∧
    (due = false → exec (.queueMap q) s = .next s)) ∧
  (∀ (s : State) (q : Nat), s.slotsShort = true → (s.queue q).pending = false →
    let gone : State := s.setQueue q { s.queue q with mapped := false, joining := false, pending := false, upto := none, expired := false }
    (s.emptiest = some q → exec (.queueUnmap q) s = .next gone) ∧
    (s.emptiest = none → s.oldestMapped = some q → (s.queue q).stall = none → exec (.queueTimeShareExpiry q) s = .next gone)) ∧
  (∀ (s : State) (q : Nat), s.slotsShort = true → s.emptiest = none → s.oldestMapped = some q → (s.queue q).stall ≠ none →
    exec (.queueTimeShareExpiry q) s = .next (s.setQueue q { s.queue q with expired := true })) ∧
  (∀ (s : State) (q : Nat) (d es bs : List Byte),
    let x := s.queue q
    x.mapped = true → x.joining = false → x.stall = none → x.upto = none → slotReads s x x.desc 64 d → descriptorLegal d →
    (x.pending = false → exec (.pendingBitService q) s = .next s) ∧
    (x.pending = true → x.expired = false → ridx d = widx d →
      exec (.pendingBitService q) s = .next (s.setQueue q { x with pending := false, upto := none })) ∧
    (x.pending = true → ridx d ≠ widx d → queueRoom s x.part → slotWrites s x 0x14 4 → slotReads s x (ringEntry d) 8 es → leNat es ≠ 0 → leNat es % 64 = 0 →
      slotReads s x (leNat es) 256 bs → s.badRecord (taskRecordOf bs) x.asid x.part = none →
      ∃ t b, exec (.pendingBitService q) s = .next t ∧ b ∈ t.stash ∧ b.record = taskRecordOf bs ∧ b.task = BitVec.ofNat 64 (leNat es) ∧
        b.asid = x.asid ∧ b.part = x.part ∧ b.depth = 0 ∧ b.priv = x.priv ∧ b.parent = none ∧ b.insert = s.time))

/-! ## Gangs: placing, pre-empting, ending (R13, R145, R154 to R160, R166, R318, R319, R334) -/

namespace Sys2Proof.Claims

/-- Wave `w` as a launch leaves it (R13, R99, R145): its registers, its one run at ENTRY and its segments. -/
def launched (s : State) (t : Task) (x : Spot) (g i : Nat) (w : Wave) : Prop :=
  let r := t.record
  let vl := min r.vlreq (16 * laneGroups (s.core ⟨x.die, x.quad, x.cores.getD g 0⟩))
  w.live = true ∧ w.run.pc = r.entry ∧ w.run.kind = .normal ∧ w.run.wait = none ∧ w.rest = [] ∧ w.mode = .normal ∧ w.wait = .none ∧
  (∀ l : Lane, w.run.mask.getLsbD l.val = decide (l.val < vl)) ∧ w.sr.vl.toNat = vl ∧
  (∀ a : SReg, w.rs a = if a = 2 then r.llim else if a = 4 then r.args else if a = 5 then r.arglen.zeroExtend 64 else 0) ∧
  (∀ (v : VReg) (l : Lane), w.rv v l = 0) ∧ (∀ k : KReg, w.rk k = 0) ∧
  w.sr.thb = r.thb ∧ w.sr.twd = r.twd ∧ w.sr.slip = 2 ∧ w.sr.rdep = 0 ∧ w.sr.vstart = 0 ∧
  w.seg.g = ⟨r.gbase, r.glim⟩ ∧ w.seg.d = ⟨r.dbase, r.dlim⟩ ∧ w.seg.c = ⟨r.cbase, r.clim⟩ ∧ w.seg.l = ⟨r.lbase, r.llim⟩ ∧
  w.seg.q = ⟨BitVec.ofNat 64 x.base, BitVec.ofNat 64 r.scratch⟩ ∧
  w.id.wave.val = i ∧ w.id.wg.val = g ∧ w.id.role.val = r.rolemap.toNat / 2 ^ (4 * i) % 16 ∧ w.id.task = t.task ∧
  w.id.part = t.part ∧ w.id.priv = t.priv ∧ w.id.gang = s.seq ∧ w.id.place = ⟨x.die, x.quad, x.cores.getD g 0⟩

/-- The registers of a wave that a save and a restore keep. -/
def sameRegisters (a b : Wave) : Prop := a.s = b.s ∧ a.k = b.k ∧ a.v = b.v

/-- One child less for the wave `p` that spawned the task, while it lives (R154, R161). -/
def childCounted (s t : State) (p : Option Nat) : Prop :=
  ∀ n, p = some n → (s.wave n).live = true → (t.wave n).kids = (s.wave n).kids - 1

/-- What agents of the gang's die have made or seen of the die sync registers has reached every mirror (R198, R202). -/
def mirrorsDone (s : State) (g : Gang) : Prop :=
  let q := s.partn g.part
  ∀ d p cs, g.place = some (d, p, cs) → ∀ u ∈ q.updates, q.logDie d ∉ u.seen

end Sys2Proof.Claims

/-- R13, R145, R153, R156, R159, R166, R318 and R319: the placer launches the task it has chosen, each wave as R13 and R145 lay down, with its scratchpad reading 0, or restores
a saved gang; a successor enters the Stash when an entry is free and its partition is not being reset (R346); a task that has waited for 20 µs pre-empts the weakest gang; a gang that is
pre-empted is saved, once its waves have stopped between tie groups and everything of it is performed, and its task waits again. That the patch
table is read at the launch (log entry 53), that a saved task returns to the Stash beyond the share (log entry 56) and that each die has a
placer of its own (log entry 57) are the model's choices, as are those of log entries 15, 31 and 33. -/
def Obligations.PlacementActs : Prop :=
  (∀ (s : State) (d : Fin 4) (t : Task) (x : Spot) (ps : List Patch), s.chosen d = some (t, x) → t.gang = none → s.taskPatches t none = .ok ps →
    t.record.wg ≤ 4 → t.record.waves ≤ 16 → x.base % 256 = 0 →
    ∃ u, exec (.placement d) s = .next u ∧ (u.gang s.seq).live = true ∧ (u.gang s.seq).record = t.record ∧
      (u.gang s.seq).place = some (x.die, x.quad, x.cores) ∧ (u.gang s.seq).patches = ps ∧
      (∀ g i, g < t.record.wg → i < t.record.waves → launched s t x g i (u.wave (s.seq * 64 + g * 16 + i))) ∧
      (∀ n, n / 64 ≠ s.seq → u.wave n = s.wave n) ∧
      (∀ a, x.base ≤ a → a < x.base + t.record.scratch → (u.quad x.die x.quad).byte a = 0) ∧
      (t.record.policy ≠ 2 → ∀ b, b ∈ u.stash ↔ b ∈ s.stash ∧ b.num ≠ t.num)) ∧
  (∀ (s : State) (d : Fin 4), s.chosen d = none → exec (.placement d) s = .next s) ∧
  (∀ (s : State) (d : Fin 4) (t : Task) (x : Spot) (n : Nat), s.chosen d = some (t, x) → t.gang = some n → t.resident = false →
    (s.gang n).live = true → (∀ e, e ≠ d → ∀ b y, s.chosen e = some (b, y) → b.gang ≠ some n) →
    ∃ u, exec (.contextRestore n) s = .next u ∧ exec (.placement d) s = .next u ∧
      (u.gang n).place = some (x.die, x.quad, x.cores) ∧ (u.gang n).image = none ∧ (u.gang n).qbase = x.base ∧
      ∀ k, k / 64 = n → (s.wave k).live = true → sameRegisters (u.wave k) (s.wave k) ∧ (u.wave k).run.buf = none ∧
        ((s.wave k).run.wait.all (fun w => w.what = .withdrawn) = true → (u.wave k).run.wait = none)) ∧
  (∀ (s : State) (p : Fin 8) (t : Task), s.heirs.find? (fun b => b.part = p) = some t →
    ((s.partn p).ending ≠ [] → exec (.successorInsertion p) s = .next s) ∧
    ((s.partn p).ending = [] → (s.stash.filter (fun b => b.part = p)).length < (s.partn p).cfg.share →
      ∃ u b, exec (.successorInsertion p) s = .next u ∧ b = { t with insert := s.time, unplaced := s.time } ∧
        (∀ c, c ∈ u.stash ↔ c = b ∨ c ∈ s.stash) ∧ (∀ c, c ∈ u.heirs ↔ c ∈ s.heirs ∧ c.num ≠ t.num)) ∧
    ((s.partn p).cfg.share ≤ (s.stash.filter (fun b => b.part = p)).length → exec (.successorInsertion p) s = .next s)) ∧
  (∀ (s : State) (t : Task) (n : Nat) (g : Gang), s.stash.find? (fun b => b.num = t.num && b.ready) = some t → s.spotFor t = none →
    20000 ≤ s.time - t.unplaced → s.preempting t.num = false → s.victim t = some (n, g) →
    (∃ u, exec (.preemptionTimeout t.num) s = .next u ∧ u.gang n = { g with stopping := some t.num } ∧ ∀ k, sameRegisters (u.wave k) (s.wave k)) ∧
    (s.gang n).eprio.val < t.eprio s.time ∧
    ∀ m y, (m, y) ∈ (s.victimQuads t).flatMap (fun e => s.residents (fun k => !(s.gang k).lower (t.eprio s.time)) e.1 e.2) →
      g.eprio ≤ y.eprio ∧ (g.eprio = y.eprio → y.seq ≤ g.seq)) ∧
  (∀ (s : State) (n : Nat) (d : Fin 4) (q : Fin 36) (cs : List (Fin 4)),
    let g := s.gang n
    g.place = some (d, q, cs) → g.live = true → g.stopping ≠ none → g.frozen = false → g.kill = none → g.halt = none → s.quiet n = true →
    s.stash.find? (fun b => b.num = g.stash) = none →
    ∃ u b, exec (.contextSave n) s = .next u ∧ (u.gang n).live = true ∧ (u.gang n).place = none ∧ (u.gang n).image.isSome = true ∧
      (u.gang n).stopping = none ∧ b ∈ u.stash ∧ b.gang = some n ∧ b.resident = false ∧ b.insert = g.insert ∧ b.record = g.record ∧
      ∀ k, k / 64 = n → sameRegisters (u.wave k) (s.wave k) ∧ (u.wave k).live = (s.wave k).live)

/-- R148, R154, R198, R202 and R334: a gang whose waves have all exited, with nothing under way, completes: its completion record is written, its Stash entry
and its resources are free, and, unless the reset of its partition ends with it and ends other children too, its parent's count goes down; a gang that is killed ends too, once it has stopped and everything of it is performed (R306), but under policy 2 its task waits to be
launched again. R160 and R22: a wave that has waited joins the age queue; a packet is fetched. -/
def Obligations.GangEnds : Prop :=
  (∀ (s : State) (n : Nat),
    let g := s.gang n
    g.live = true → g.place.isSome = true → g.frozen = false → g.kill = none → (∀ e ∈ s.waves, e.2.live = true → e.1 / 64 ≠ n) →
    s.drains n = false → s.repl = [] → mirrorsDone s g → s.complBusy g.asid g.part g.record = false → g.record.nsucc = 0 →
    ∃ u, exec (.gangCompletion n) s = .next u ∧ (u.gang n).live = false ∧ (u.gang n).release = none ∧ (∀ b ∈ u.stash, b.num ≠ g.stash) ∧
      ((s.partn g.part).ending = [] → childCounted s u g.parent) ∧
      (∀ pa, (s.partn g.part).ending = [] → g.record.compl ≠ 0 →
        (∃ r, s.reach ⟨g.asid, g.part, (s.partn g.part).physDie 0, none⟩ .store false (splitPages 2 g.record.compl.toNat 32) =
          .ok (r, [(.host pa, 32)])) →
        Mem.wf s.host = true →
        let word (o k : Nat) : Nat := leNat ((List.range k).map (fun i => memRead u.host (pa + o + i)))
        word 0 1 = 0 ∧ word 2 2 = 0 ∧ word 4 4 = g.exitCode.toNat ∧ word 8 8 = (g.start.map (fun t => g.last - t)).getD 0 % 2 ^ 64 ∧
        word 16 8 = (g.exits.foldl (fun m (e : Exited) => m ||| e.lfm) (0 : BitVec 64)).toNat ∧ word 28 4 = 1)) ∧
  (∀ (s : State) (n : Nat) (cause : BitVec 16) (pol : BitVec 8),
    let g := s.gang n
    g.kill = some (cause, pol) → s.killReady n = true →
    (pol ≠ 2 → ∃ u, exec (.gangKill n cause) s = .next u ∧ (u.gang n).live = false ∧ (∀ b ∈ u.stash, b.num ≠ g.stash) ∧
      ((s.partn g.part).ending = [] → ∀ m, g.parent = some m → m / 64 ≠ n → childCounted s u g.parent)) ∧
    (pol = 2 → (s.partn g.part).ending = [] → ∀ t, s.stash.find? (fun b => b.num = g.stash) = some t → ∃ u, exec (.gangKill n cause) s = .next u ∧ (u.gang n).live = false ∧
      { t with gang := some n, resident := false, relaunched := true, unplaced := s.time, target := none, stall := none } ∈ u.stash)) ∧
  (∀ (s : State) (n : Nat), (s.gang n).kill = none → ∀ cause, exec (.gangKill n cause) s = .next s) ∧
  (∀ (s : State) (n : Nat), s.canIssue n = true →
    let c := (s.wave n).id.place
    (4096 ≤ (s.wave n).ready → n ∉ (s.core c).ageq →
      ∃ t, exec (.ageQueueJoin n) s = .next t ∧ (t.core c).ageq = (s.core c).ageq ++ [n] ∧ t = { s with cores := t.cores }) ∧
    ((s.wave n).ready < 4096 → exec (.ageQueueJoin n) s = .next s) ∧
    (∀ w s1 p, (s.wave n).pick = some w → w.run.buf = none → ({ s.setWave n w with cur := n } : State).fetch = .ok (s1, p) →
      ∃ t, exec (.instructionFetch n) s = .next t ∧ t.cur = s.cur ∧ (t.wave n).run.buf = some p ∧ (t.wave n).run.pc = w.run.pc ∧ p.legal = true))

/-! ## Reliability (R325 to R338, R351) -/

namespace Sys2Proof.Claims

/-- The die of an error's place (R329). -/
def siteDie (s : State) : ErrSite → Fin 4
  | .dieMem d _ => d
  | .scratch d _ _ => d
  | .cache d _ => d
  | .gddr a => Fin.ofNat 4 (a / 2 ^ 36)
  | .l1 c _ => c.die
  | .register w _ _ => (s.wave w).id.place.die
  | .control g u _ =>
    if u = 16 then (s.partn (s.gang g).part).physDie 0
    else match (s.gang g).place with
      | some (d, _, _) => d
      | none => (s.wave (64 * g)).id.place.die

/-- A containment event has decided for gang `n` (R333). -/
def contained (s t : State) (n : Nat) (cause : BitVec 16) : Prop :=
  let pol := s.policyOf (s.gang n)
  (t.gang n).contain = some cause ∧ (pol = 0 → (t.gang n).halt = some ((s.gang n).halt.getD cause) ∧ (t.gang n).kill = none) ∧
  (pol ≠ 0 → (t.gang n).kill = some (cause, BitVec.ofNat 8 pol))

/-- The gang lives, and no event has decided for it. -/
def undecided (s : State) (n : Nat) : Prop := (s.gang n).live = true ∧ (s.gang n).contain = none ∧ (s.gang n).kill = none

/-- The link's replays (R325, R351). -/
def edgeOf (s : State) (k : Nat) : Edge := look ⟨0, false⟩ s.edges k
def linkNum : Link → Nat
  | .edge a b => min a.val b.val * 4 + max a.val b.val
  | .host d => 16 + d.val
  | .soltor p => 32 + p.val

end Sys2Proof.Claims

/-- R325, R326, R328, R330 and R333: a corrected error is held and merged, and its record is made with the time of the first; an uncorrectable one that a
retry clears leaves a record only, a lasting one poisons its granule or contains its gang; a lasting divergence of shadows poisons the
accumulator and discards its command, or makes SHADOW due, after those that are due already: for a vector lane at the word that diverged; where
no checked result diverges nothing happens. Said of a ring that has room. -/
def Obligations.ErrorActs : Prop :=
  (∀ (s : State) (site : ErrSite) (data synd : BitVec 64), ∃ t h, exec (.correctedError site data synd) s = .next t ∧ t.waves = s.waves ∧
    h.loc.die = siteDie s site ∧ h.time = s.time ∧ h.count = 1 ∧ h.data = data ∧ h.synd = synd ∧
    (let l := (s.die (siteDie s site)).held
     ((∀ x ∈ l, ¬ (x.loc = h.loc ∧ x.addr = h.addr)) → (t.die (siteDie s site)).held = l ++ [h]) ∧
     (∀ x us vs, l = us ++ x :: vs → x.loc = h.loc → x.addr = h.addr → (∀ y ∈ us ++ vs, ¬ (y.loc = h.loc ∧ y.addr = h.addr)) →
      (t.die (siteDie s site)).held = us ++ { x with count := x.count + 1 } :: vs))) ∧
  (∀ (s : State) (d : Fin 4) (i : Nat) (h : HeldError), (s.die d).held[i]? = some h →
    let l := (s.die d).held.filter (fun x => x.loc = h.loc)
    ringRoom s d l.length →
    ∃ t, exec (.correctedErrorHoldExpiry d i) s = .next t ∧ (t.die d).held = (s.die d).held.filter (fun x => x.loc ≠ h.loc) ∧
      (t.die d).relHead = (s.die d).relHead + BitVec.ofNat 32 l.length ∧
      ∀ j x, l[j]? = some x → recordedAt s t d j 1 1 x.time ∧
        (let a := recordAddr s d j
         devNum t (a + 4) 4 = x.count.toNat ∧ devNum t (a + 40) 8 = x.addr % 2 ^ 64 ∧ devNum t (a + 48) 8 = x.data.toNat ∧
         devNum t (a + 56) 8 = x.synd.toNat)) ∧
  (∀ (s : State) (d : Fin 4) (i : Nat), (s.die d).held[i]? = none → exec (.correctedErrorHoldExpiry d i) s = .next s) ∧
  (∀ (s : State) (site : ErrSite) (data synd : BitVec 64), ringSound s (siteDie s site) → (∀ c a, site ≠ .l1 c a) →
    ((∀ w u a, site = .register w u a → (s.wave w).live = true) → (∀ g u a, site = .control g u a → (s.gang g).live = true) →
      ∃ t, exec (.uncorrectableRetry site false data synd) s = .next t ∧ recorded s t (siteDie s site) 2 1 s.time ∧ t.waves = s.waves ∧
      t.gangs = s.gangs ∧ t.quads = s.quads ∧ t.gddrPoison = []) ∧
    (∀ d a, site = .dieMem d a → ∃ t, exec (.uncorrectableRetry site true data synd) s = .next t ∧ recorded s t d 3 2 s.time ∧
      look false (t.die d).poison (a / 4) = true) ∧
    (∀ d q a, site = .scratch d q a → ∃ t, exec (.uncorrectableRetry site true data synd) s = .next t ∧ recorded s t d 3 2 s.time ∧
      look false (t.quad d q).poison (a / 4) = true) ∧
    (∀ a, site = .gddr a ∨ (∃ d, site = .cache d a) → a / 32 * 32 + 32 ≤ recordAddr s (siteDie s site) 0 ∨ recordAddr s (siteDie s site) 0 + 64 ≤ a / 32 * 32 →
      ∃ t, exec (.uncorrectableRetry site true data synd) s = .next t ∧ recorded s t (siteDie s site) 3 2 s.time ∧
        look false t.gddrPoison (a / 32) = true) ∧
    (∀ w u a, site = .register w u a → (s.wave w).live = true → undecided s (s.wave w).id.gang → ∃ t, exec (.uncorrectableRetry site true data synd) s = .next t ∧
      recorded s t (siteDie s site) 3 2 s.time ∧ contained s t (s.wave w).id.gang 0x201) ∧
    (∀ g u a, site = .control g u a → undecided s g → ∃ t, exec (.uncorrectableRetry site true data synd) s = .next t ∧
      recorded s t (siteDie s site) 3 2 s.time ∧ contained s t g 0x201)) ∧
  (∀ (s : State) (a n u : Nat) (b : Bool) (x y : BitVec 64),
    (∀ c, exec (.uncorrectableRetry (.l1 c a) b x y) s = .next s) ∧
    ((s.wave n).live = false → exec (.uncorrectableRetry (.register n u a) b x y) s = .next s) ∧
    ((s.gang n).live = false → exec (.uncorrectableRetry (.control n u a) b x y) s = .next s)) ∧
  (∀ (s : State) (n : Nat) (e : BitVec 16) (data : BitVec 64), ringSound s (s.wave n).id.place.die → (s.wave n).live = true →
    let c := (s.wave n).id.place
    let due := (s.wave n).shadow
    (s.shadowed n e.toNat data = true →
      (∃ t, exec (.shadowDivergence n none false e data) s = .next t ∧ recorded s t c.die 0x10 1 s.time ∧ t.waves = s.waves ∧
        devNum t (recordAddr s c.die 0 + 16) 2 = ((workingGroups (s.core c))[e.toNat / 16 % laneGroups (s.core c)]?).getD 0) ∧
      (∃ t, exec (.shadowDivergence n none true e data) s = .next t ∧ recorded s t c.die 0x11 3 s.time ∧
        t.wave n = { s.wave n with shadow := due ++ [⟨e.zeroExtend 64, some ((s.wave n).pick.getD (s.wave n)).run.pc⟩] })) ∧
    (s.shadowed n e.toNat data = false → ∀ b, exec (.shadowDivergence n none b e data) s = .next s) ∧
    (∀ x : AReg, s.arrayShadowed n x e.toNat data = none → ∀ b, exec (.shadowDivergence n (some x) b e data) s = .next s) ∧
    (∀ (x : AReg) (cmd : TileCmd), s.arrayShadowed n x e.toNat data = some cmd →
      (∃ t, exec (.shadowDivergence n (some x) false e data) s = .next t ∧ recorded s t c.die 0x10 1 s.time ∧ t.waves = s.waves ∧ t.cores = s.cores) ∧
      (∃ t, exec (.shadowDivergence n (some x) true e data) s = .next t ∧ recorded s t c.die 0x11 3 s.time ∧ ((t.core c).acc[x]).pois = true ∧
        (∀ y ∈ (t.wave n).tiles, y.num ≠ cmd.num) ∧ (t.wave n).shadow = due ++ [⟨BitVec.ofNat 64 (e.toNat + 2 ^ 16 + x.val * 2 ^ 17), none⟩])))

/-- R335, R340, R325, R346, R351, R336 and R337: the barrier watchdog records a wait that has outlasted %twd and contains the gang; replays of a link are counted, the sixteenth
failure of an edge takes it down and begins the kills of the partitions that span it; an in-field test waits for its quad, and its end sets
TPASS or makes a record. -/
def Obligations.ReliabilityActs : Prop :=
  (∀ (s : State) (n : Nat) (sc : BarScope) (b : Fin 32) (st : Nat),
    let w := s.wave n
    w.live = true → (s.gang w.id.gang).runs = true → w.wait = .bar sc b st → w.sr.twd ≠ 0 → undecided s w.id.gang →
    (w.sr.twd.toNat < s.time - st → ringSound s w.id.place.die →
      ∃ t, exec (.barrierWatchdogExpiry n) s = .next t ∧ recorded s t w.id.place.die 0x20 3 s.time ∧ contained s t w.id.gang 0x200) ∧
    (s.time - st ≤ w.sr.twd.toNat → (∀ e ∈ w.run :: w.rest, e.wait = none) → exec (.barrierWatchdogExpiry n) s = .next s)) ∧
  (∀ (s : State) (l : Link), (edgeOf s (linkNum l)).down = false →
    let e := edgeOf s (linkNum l)
    (e.failed < 16 → exec (.flitReplay l false) s = .next { s with edges := put s.edges (linkNum l) { e with failed := 0 } }) ∧
    (16 ≤ e.failed → exec (.flitReplay l false) s = .next s) ∧
    ((∃ a b, l = .edge a b) ∨ e.failed < 15 →
      exec (.flitReplay l true) s = .next { s with edges := put s.edges (linkNum l) { e with failed := e.failed + 1 } }) ∧
    (∀ d, (∃ x, l = .host x ∧ d = x) ∨ (∃ x, l = .soltor x ∧ d = 0) → 15 ≤ e.failed → ringSound s d →
      ∃ t, exec (.flitReplay l true) s = .next t ∧ recorded s t d 0x50 2 s.time ∧ (edgeOf t (linkNum l)).down = true ∧ t.waves = s.waves)) ∧
  (∀ (s : State) (a b : Fin 4), a < b → (edgeOf s (linkNum (.edge a b))).down = false → 16 ≤ (edgeOf s (linkNum (.edge a b))).failed →
    ∃ t, exec (.edgeDown a b) s = .next t ∧ (edgeOf t (linkNum (.edge a b))).down = true ∧
      (∀ n, (s.gang n).live = true → (s.gang n).kill = none ∨ (∃ c, (s.gang n).kill = some (c, 2)) → (s.partn (s.gang n).part).made = true → a ∈ (s.partn (s.gang n).part).dieList →
        b ∈ (s.partn (s.gang n).part).dieList → (t.gang n).kill = some (0x203, 0xFF)) ∧
      ((∀ p : Fin 8, (s.partn p).made = false) → ringSound s a → recorded s t a 0x50 2 s.time)) ∧
  (∀ (s : State) (a b : Fin 4), (edgeOf s (linkNum (.edge a b))).failed < 16 → exec (.edgeDown a b) s = .next s) ∧
  (∀ (s : State) (d : Fin 4) (q : Fin 36),
    ((s.die d).iftBusy = false → (s.die d).iftQuad.toNat = q.val →
      ∃ t, exec (.iftStart d) s = .next t ∧ (t.die d).iftBusy = true ∧ t.quad d q = { s.quad d q with testReq := true } ∧ t.waves = s.waves) ∧
    ((s.die d).iftBusy = true → exec (.iftStart d) s = .next s) ∧
    ((s.quad d q).testReq = true → (∀ p, p < q → (s.quad d p).testReq = false) →
      ((∀ e ∈ s.gangs, e.2.live = true → ∀ cs, e.2.place ≠ some (d, q, cs)) → ∃ t, exec (.iftTestBegin d) s = .next t ∧
        t.quad d q = { s.quad d q with testReq := false, testing := true } ∧ (t.die d).iftLast.toNat = q.val) ∧
      (∀ e ∈ s.gangs, e.2.live = true → (∃ cs, e.2.place = some (d, q, cs)) → exec (.iftTestBegin d) s = .next s)) ∧
    ((s.quad d q).testing = true → (∀ p, p < q → (s.quad d p).testing = false) →
      (∃ t, exec (.iftTestEnd d true) s = .next t ∧ (t.die d).iftBusy = false ∧ (t.die d).iftPass = true ∧ (t.die d).iftFail = false ∧
        t.quad d q = { s.quad d q with testing := false, tpass := BitVec.ofNat 64 s.time, placed := 0 }) ∧
      (ringSound s d → ∃ t, exec (.iftTestEnd d false) s = .next t ∧ (t.die d).iftBusy = false ∧ (t.die d).iftPass = false ∧ (t.die d).iftFail = true ∧
        t.quad d q = { s.quad d q with testing := false } ∧ recorded s t d 0x40 2 s.time)))

/-! ## The host: memory, registers, keys (R329, R334, R336, R338, R355 to R357) -/

namespace Sys2Proof.Claims

/-- The fields that a write of a register of the management aperture stores, by offset: their mask and, with bit 0 of the offset's register, what
reads back (R329, R338, R355). -/
def plainRegisters : List (Nat × Nat) :=
  [(0x0100, 2 ^ 48 - 2 ^ 6), (0x0118, 2 ^ 32 - 1), (0x0200, 2 ^ 48 - 2 ^ 15)]

/-- Every offset at which a write has an effect. -/
def writtenOffsets : List Nat :=
  [0x0100, 0x0108, 0x0118, 0x0120, 0x0200, 0x0300, 0x0400, 0x0800, 0x0840, 0x0848, 0x0850, 0x0858, 0x0860, 0x0868, 0x0870, 0x0878]

/-- The register's number `x` has these fields, each given by its lowest bit and its value, and the next begins where it ends. -/
def registerIs (x : Nat) : List (Nat × Nat) → Prop
  | [] => True
  | [(lo, v)] => x / 2 ^ lo = v
  | (lo, v) :: (hi, u) :: fs => x / 2 ^ lo % 2 ^ (hi - lo) = v ∧ registerIs x ((hi, u) :: fs)

/-- A key command of the die is under way. -/
def keyBusyOn (s : State) (d : Fin 4) : Prop := (s.die d).kbusy = true

/-- The end of a key command: BUSY is 0 and RESULT is `r`. -/
def keyEnded (t : State) (d : Fin 4) (r : Nat) : Prop := (t.die d).kbusy = false ∧ (t.die d).kresult.toNat = r

end Sys2Proof.Claims

/-- R356, R329, R334, R338, R355 and R357: a host read answers GDDR-7, the registers or 0; a host write is in memory, or notifies a queue; a register write
stores its writable fields and has the effects that its row gives, and the read-only registers read what their rows give; key commands start, are refused or end as R357 lays down. Host memory
stands at 2^48 and above, and a write of IFT_CTL that names no quad keeps QUAD, by the model's choice (log entries 44 and 62). -/
def Obligations.HostActs : Prop :=
  (∀ (s : State) (d : Fin 4) (a n : Nat), ∃ bs, exec (.hostMemoryRead d a n) s = .next (s.send (.readReply d bs)) ∧ bs.length = n ∧
    (a + n ≤ 2 ^ 38 → ∀ i, i < n → bs[i]? = some (s.physByte [] (a + i))) ∧
    (∀ i, 0x4000000000 ≤ a + i → a + i < 0x4100000000 → i < n → bs[i]? = some 0) ∧
    (∀ (e : Fin 4) (o : Nat), o % 8 = 0 → o < 2 ^ 16 → a = 0x4100000000 + 0x10000 * e.val + o → n = 8 → leNat bs = s.regRead e o % 2 ^ 64)) ∧
  (∀ (s : State) (d : Fin 4) (a : Nat) (bs : List Byte),
    (a + bs.length ≤ 2 ^ 38 → s.gddrPoison = [] → Mem.wf s.gddr = true →
      ∃ t, exec (.hostMemoryWrite d a bs) s = .next t ∧ t.waves = s.waves ∧ (∀ i b, bs[i]? = some b → t.physByte [] (a + i) = b) ∧
        ∀ x, ¬ (a ≤ x ∧ x < a + bs.length) → t.physByte [] x = s.physByte [] x) ∧
    (∀ q x, q < 65536 → lookOpt s.queues q = some x → x.mapped = true → a = 0x4000000000 + 0x1000 * q → bs.length = 8 →
      exec (.hostMemoryWrite d a bs) s = .next (s.setQueue q { x with pending := true })) ∧
    (2 ^ 48 ≤ a → exec (.hostMemoryWrite d a bs) s = .next { s with host := memWrites s.host (a - 2 ^ 48) bs }) ∧
    (∀ (e : Fin 4) (o : Nat), o % 8 = 0 → o < 2 ^ 16 → a = 0x4100000000 + 0x10000 * e.val + o → bs.length = 8 →
      exec (.hostMemoryWrite d a bs) s = exec (.registerWrite e o (BitVec.ofNat 64 (leNat bs))) s)) ∧
  (∀ (s : State) (d : Fin 4) (v : BitVec 64),
    (∀ e ∈ plainRegisters, ∃ x, exec (.registerWrite d e.1 v) s = .next (s.setDie d x) ∧
      (s.setDie d x).regRead d e.1 = v.toNat &&& e.2 ∧ ∀ o, o ≠ e.1 → (s.setDie d x).regRead d o = s.regRead d o) ∧
    (∀ o, o ∉ writtenOffsets → exec (.registerWrite d o v) s = .next s) ∧
    (let n := v.toNat % 32
     (n = 0 ∨ (6 ≤ n ∧ n ≤ 16) → exec (.relSizeWrite d v) s = .next (s.setDie d { s.die d with relSize := BitVec.ofNat 5 n, relHead := 0 })) ∧
     (¬ (n = 0 ∨ (6 ≤ n ∧ n ≤ 16)) → exec (.relSizeWrite d v) s = .next (s.setDie d (s.die d)))) ∧
    exec (.relStatOvfClear d) s = .next (s.setDie d { s.die d with ovf := false, dropped := 0 }) ∧
    exec (.policyDefaultWrite d v) s = .next (s.setDie d { s.die d with policy := if v.toNat % 4 = 0 then 0 else 1 }) ∧
    exec (.registerWrite d 0x0108 v) s = exec (.relSizeWrite d v) s ∧ exec (.registerWrite d 0x0300 v) s = exec (.policyDefaultWrite d v) s ∧
    (v.getLsbD 0 = true → exec (.registerWrite d 0x0120 v) s = exec (.relStatOvfClear d) s) ∧
    (v.getLsbD 0 = false → exec (.registerWrite d 0x0120 v) s = .next s) ∧
    (∀ i : Fin 8, exec (.registerWrite d (0x0840 + 8 * i.val) v) s =
      .next (s.setDie d { s.die d with kdata := (s.die d).kdata.set i v })) ∧
    (∀ i : Fin 8, (s.regRead d (0x0840 + 8 * i.val)) = 0)) ∧
  (∀ (s : State) (d : Fin 4) (v : BitVec 64),
    let x := s.die d
    let quad := v.toNat % 64
    let op := v.toNat / 2 ^ 17 % 4
    let named := s.setDie d { x with kslot := BitVec.ofNat 14 v.toNat, kpart := BitVec.ofNat 3 (v.toNat / 2 ^ 14) }
    (∃ s1, (quad < 36 → s1 = s.setDie d { x with iftQuad := BitVec.ofNat 6 quad }) ∧ (36 ≤ quad → s1 = s) ∧
      exec (.registerWrite d 0x0400 v) s = if v.getLsbD 8 then exec (.iftStart d) s1 else .next s1) ∧
    (keyBusyOn s d → exec (.registerWrite d 0x0800 v) s = .next s) ∧
    (¬ keyBusyOn s d →
      (op = 0 → exec (.registerWrite d 0x0800 v) s = .next (named.setDie d { named.die d with kop := 0 })) ∧
      (op = 1 → exec (.registerWrite d 0x0800 v) s = exec (.keyLoad d) named) ∧
      (op = 2 → exec (.registerWrite d 0x0800 v) s = exec (.keyClear d) named) ∧
      (op = 3 → exec (.registerWrite d 0x0800 v) s = exec (.keyBadCommand d) named))) ∧
  (∀ (s : State) (d : Fin 4),
    let x := s.die d
    let r := s.regRead d
    registerIs (r 0x0000) [(0, x.state.toNat), (8, 0), (18, d.val), (20, 3), (24, x.rev.toNat), (32, 0xF451), (48, 0)] ∧
    r 0x0010 < 2 ^ 64 ∧ r 0x0018 < 2 ^ 64 ∧ r 0x0010 + r 0x0018 * 2 ^ 64 + r 0x0020 * 2 ^ 128 = x.dropMap.toNat ∧
    registerIs (r 0x0040) [(0, 0), (14, x.topo.toNat)] ∧ r 0x0110 = x.relHead.toNat ∧
    registerIs (r 0x0120) [(0, x.ovf.toNat), (1, 0), (32, x.dropped.toNat)] ∧
    registerIs (r 0x0400) [(0, x.iftQuad.toNat), (6, 0)] ∧
    registerIs (r 0x0408) [(0, x.iftBusy.toNat), (1, x.iftPass.toNat), (2, x.iftFail.toNat), (3, 0), (8, x.iftLast.toNat), (14, 0)] ∧
    registerIs (r 0x0800) [(0, x.kslot.toNat), (14, x.kpart.toNat), (17, x.kop.toNat), (19, 0)] ∧
    registerIs (r 0x0808) [(0, x.kbusy.toNat), (1, x.kresult.toNat), (4, 0)]) ∧
  (∀ (s : State) (d : Fin 4),
    (keyBusyOn s d → exec (.keyLoad d) s = .next s ∧ exec (.keyClear d) s = .next s ∧ exec (.keyBadCommand d) s = .next s) ∧
    (¬ keyBusyOn s d → ∀ e ∈ [(Instr.keyLoad d, 1), (Instr.keyClear d, 2)],
      ∃ t, exec e.1 s = .next t ∧ keyBusyOn t d ∧
        t.keyCmds = s.keyCmds ++ [{ die := d, op := BitVec.ofNat 2 e.2, part := Fin.ofNat 8 (s.die d).kpart.toNat, slot := (s.die d).kslot.toNat }]) ∧
    (¬ keyBusyOn s d → ∃ t, exec (.keyBadCommand d) s = .next t ∧ keyEnded t d 3 ∧ t.keyCmds = s.keyCmds)) ∧
  (∀ (s : State) (c : KeyCmd) (cs : List KeyCmd), s.keyCmds = c :: cs →
    let k := (s.die c.die).kdata
    let halves : Prop := k[0] = k[4] ∧ k[1] = k[5] ∧ k[2] = k[6] ∧ k[3] = k[7]
    ∃ t, exec .keyCommandCompletion s = .next t ∧ t.keyCmds = cs ∧
      (∀ x, lookOpt s.keys c.slot = some x →
        (c.op = 1 → t.keys = s.keys ∧ keyEnded t c.die (if x.owner = c.part then 2 else 1)) ∧
        (c.op = 2 → x.owner = c.part → t.keys = drop s.keys c.slot ∧ keyEnded t c.die 0) ∧
        (c.op = 2 → x.owner ≠ c.part → t.keys = s.keys ∧ keyEnded t c.die 1)) ∧
      (lookOpt s.keys c.slot = none →
        (c.op = 1 → halves → t.keys = s.keys ∧ keyEnded t c.die 4) ∧
        (c.op = 1 → ¬ halves → t.keys = put s.keys c.slot { owner := c.part, key := k.toList } ∧ keyEnded t c.die 0 ∧
          (t.die c.die).kdata = Vector.replicate 8 0) ∧
        (c.op = 2 → t.keys = s.keys ∧ keyEnded t c.die 0))) ∧
  (∀ s : State, s.keyCmds = [] → exec .keyCommandCompletion s = .next s)

/-! ## Start-up (R4, R358, R359) -/

/-- R4, R358 and R359: power-on leaves what reset leaves, but for the fuses; without power nothing is kept; the ROM starts an image that it accepts, and a die
is then in early service; a die that passes its test is in full service; once the test is over on die 0 and some die serves, full service begins: partition 0
is configured, at 1.5 GHz, by the configuration given or, where that breaks a rule, by its own; a die that comes later joins it; a die
that fails is in STATE 4 and in no partition; the attestation report carries the partition and the nonce. The clock's rates, when full service
begins and how a later die joins it, what becomes of a configuration that breaks a rule and of the partitions of a die that fails are the
model's choices (log entries 47 and 82). -/
def Obligations.StartUp : Prop :=
  (∀ s : State, ∃ t u, exec .powerOn s = .next t ∧ exec .powerRemoval s = .next u ∧ t.power = true ∧ u = { t with power := false } ∧
    t.waves = [] ∧ t.gangs = [] ∧ t.gddr = [] ∧ t.queues = [] ∧ t.stash = [] ∧ t.keys = [] ∧ t.time = 0 ∧ t.parts = [] ∧ t.asids = [] ∧
    (∀ d, t.die d = { Die.reset with rev := (s.die d).rev, fused := (s.die d).fused }) ∧ ∀ d q, t.quad d q = .reset) ∧
  (∀ (s : State) (d : Fin 4) (img : FirmwareImage),
    ((s.die d).state ≠ 0 → exec (.firmwareAuthentication d img) s = .next s) ∧
    ((s.die d).state = 0 → ∃ t, exec (.firmwareAuthentication d img) s = .next t ∧ t.waves = s.waves ∧
      (t.die d).state = (if acceptsImage d img then 2 else 0) ∧
      (acceptsImage d img = true → (t.die d).fwMeas = sha384 img.bytes) ∧
      (acceptsImage d img = false → ∃ e, (t.die d).selv = (e :: (s.die d).selv).take 256 ∧ e.kind = 4))) ∧
  (∀ (s : State) (d : Fin 4) (cfg : PartConfig),
    ((s.die d).state ≠ 2 → ∀ b, exec (.earlyServiceCompletion d b cfg) s = .next s) ∧
    ((s.die d).state = 2 → ∃ u, exec (.earlyServiceCompletion d true cfg) s = .next (u.serve5 cfg) ∧ u = s.setState d 3 ∧ (u.die d).state = 3) ∧
    ((s.die d).state = 2 → ∃ u, exec (.earlyServiceCompletion d false cfg) s = .next (if s.full then u else u.serve5 cfg) ∧
      (u.die d).state = 4 ∧ u.waves = s.waves ∧ u.full = s.full ∧ (∀ e, e ≠ d → (u.die e).state = (s.die e).state) ∧
      ∀ p : Fin 8, (s.partn p).made = true → (∀ e ∈ (u.partn p).cfg.quads, e.1 ≠ d) ∧
        ((∃ e ∈ (s.partn p).cfg.quads, e.1 = d) → (∀ e ∈ (s.partn p).cfg.quads, e.1 = d) → (u.partn p).made = false) ∧
        ((∃ e ∈ (s.partn p).cfg.quads, e.1 ≠ d) → (u.partn p).made = true))) ∧
  (∀ (s : State) (cfg : PartConfig),
    let t := s.serve5 cfg
    let serving (e : Fin 4 × Fin 36) : Prop := (s.die e.1).state = 3
    let q := s.partn 0
    t.waves = s.waves ∧ (∀ d, (t.die d).state = (s.die d).state) ∧
    (s.full = false → (s.die 0).state.toNat < 3 ∨ (∀ d, (s.die d).state ≠ 3) → t = s) ∧
    (s.full = true → t.clock = s.clock ∧ (q.made = false → t.partn 0 = q) ∧
      (q.made = true → ∀ new, new = { q.cfg with quads := q.cfg.quads ++ (s.servingQuads cfg.quads).filter (fun e => !(e ∈ q.cfg.quads)) } →
        s.cfgOk new = true → (t.partn 0).made = true ∧ (t.partn 0).cfg.fmtMask = q.cfg.fmtMask ∧
          ∀ e, e ∈ (t.partn 0).cfg.quads ↔ e ∈ q.cfg.quads ∨ (e ∈ cfg.quads ∧ serving e))) ∧
    (s.full = false → 3 ≤ (s.die 0).state.toNat → (∃ d, (s.die d).state = 3) →
      let ok : Prop := s.cfgOk (s.fullConfig cfg) = true ∧ s.keepsGangs (s.fullConfig cfg) = true
      t.clock = 1500 ∧ t.full = true ∧
      (ok → (t.partn 0).made = true ∧ (t.partn 0).early = false ∧ (t.partn 0).cfg.fmtMask = 0x07FF ∧
        ∀ e, e ∈ (t.partn 0).cfg.quads ↔ e ∈ cfg.quads ∧ serving e) ∧
      (¬ ok → q.made = true → (t.partn 0).made = true ∧ (t.partn 0).early = false ∧ (t.partn 0).cfg.fmtMask = 0x07FF ∧
        ∀ e, e ∈ (t.partn 0).cfg.quads ↔ e ∈ q.cfg.quads ∧ serving e))) ∧
  (∀ (s : State) (tag : BitVec 16) (nonce : List Byte) (p : Fin 8), s.firmware = true → nonce.length = 48 →
    (∀ d, (s.die d).fwMeas.length ≤ 48) →
    ∃ bs, exec (.attestationReport tag nonce p) s = .next (({ s with fresh := s.fresh + 16 } : State).reply 11 tag 0 bs) ∧ bs.length = 0x1B8 ∧
      leNat (bs.take 4) = 0x52540001 ∧ bs[4]? = some (BitVec.ofNat 8 p.val) ∧ (bs.drop 8).take 48 = nonce) ∧
  (∀ (s : State) (tag : BitVec 16) (nonce : List Byte) (p : Fin 8), s.firmware = false → exec (.attestationReport tag nonce p) s = .next s)

/-! ## The mailbox (R354) -/

namespace Sys2Proof.Claims

/-- A reply to the request `tag` of a service, as one message of R354: the status stands first in its payload (log entry 81). -/
def replyMessage (service tag status : BitVec 16) (payload : List Byte) : Message :=
  .mailbox (bytesOfNat 2 service.toNat ++ bytesOfNat 2 tag.toNat ++ bytesOfNat 2 (2 + payload.length) ++ bytesOfNat 2 0 ++
    bytesOfNat 2 status.toNat ++ payload ++ List.replicate (54 - payload.length) 0)

/-- The reply is sent, with the interrupt of a message (R354). -/
def replies (t : State) (service tag status : BitVec 16) (payload : List Byte) : State :=
  (t.send (replyMessage service tag status payload)).send (.interrupt 0 2)

/-- The reply of status 0 stands last in what the device has sent. -/
def answered (s t : State) (service tag : BitVec 16) : Prop := t.outbox = s.outbox ++ [replyMessage service tag 0 [], .interrupt 0 2]

/-- No gang of the partition is resident. -/
def noResidents (s : State) (p : Fin 8) : Prop := ∀ e ∈ s.gangs, e.2.live = true → e.2.part = p → e.2.place = none

/-- A partition that has no gang. -/
def noGangs (s : State) (p : Fin 8) : Prop := ∀ e ∈ s.gangs, e.2.live = true → e.2.part ≠ p

/-- The ASIDs that are assigned fit the range of a configuration: those of its partition lie in it, and no other has one there (R345). -/
def liveInRange (s : State) (c : PartConfig) : Prop :=
  ∀ e ∈ s.asids, e.2.live = true → (e.2.part = c.part ↔ c.asidLo ≤ e.1 ∧ e.1 < c.asidLo + c.asidN)

/-- The bit of a core in the drop map of its die (R343). -/
def dropped (t : State) (c : CoreId) : Bool := (t.die c.die).dropMap.getLsbD (4 * c.quad.val + c.core.val)

end Sys2Proof.Claims

/-- R354 with R149, R306, R343 to R346, R348, R352, R353 and R315: queues, partitions, ASIDs, cores, barrier counts, windows and the module number, each as its
service sets it, with its reply; a service that is none of the 21 answers 0xFFFF. That a queue takes the lowest free number (log entry 15), that the
TLB entries of a retired ASID are removed (log entry 18), what a refused request is answered (log entry 45), the layout of a reply's payload
(log entry 81) and the selvedge entry of a clock step (log entry 46) are the model's choices. -/
def Obligations.MailboxServices : Prop :=
  (∀ (s : State) (tag : BitVec 16) (p : Fin 8), s.firmware = true →
    (∀ (desc asid q : Nat) (d : List Byte), (s.partn p).made = true → (s.asid asid).live = true → (s.asid asid).part = p → q < 65536 →
      lookOpt s.queues q = none → (∀ r, r < q → (lookOpt s.queues r).isSome = true) →
      s.got ⟨asid, p, (s.partn p).physDie 0, none⟩ .load desc 64 = .ok d → descriptorLegal d →
      plainWrites s ⟨asid, p, (s.partn p).physDie 0, none⟩ (desc + 9) 3 →
      ∀ e ∈ [(Instr.registerUserQueue tag desc asid p, 1, false), (Instr.registerPrivilegedQueue tag desc asid p, 2, true)],
        ∃ t, exec e.1 s = .next t ∧
          t.outbox = s.outbox ++ [replyMessage (BitVec.ofNat 16 e.2.1) tag 0 (bytesOfNat 2 q), .interrupt 0 2] ∧
          t.queue q = { Queue.none with desc, asid, part := p, priv := e.2.2, dead := false, mapTime := s.time, emptyAt := s.time }) ∧
    (∀ q x, lookOpt s.queues q = some x → x.mapped = false →
      exec (.unregisterQueue tag q) s = .next (replies { s with queues := drop s.queues q } 3 tag 0 [])) ∧
    (∀ q, lookOpt s.queues q = none → exec (.unregisterQueue tag q) s = .next (replies s 3 tag 1 [])) ∧
    (∀ asid root save, (s.partn p).made = true → (s.partn p).cfg.asidLo ≤ asid → asid < (s.partn p).cfg.asidLo + (s.partn p).cfg.asidN →
      (s.asid asid).live = false →
      ((s.asids.filter (fun e => e.2.live)).length < 1024 →
        ∃ t, exec (.assignAsid tag asid root p save) s = .next t ∧ answered s t 7 tag ∧
          t.asid asid = { live := true, root, part := p, save, retiring := [] } ∧ ∀ d : Option (Fin 4), t.domain (domKey asid d) = .reset) ∧
      (1024 ≤ (s.asids.filter (fun e => e.2.live)).length → exec (.assignAsid tag asid root p save) s = .next (replies s 7 tag 1 []))) ∧
    (∀ asid, (s.asid asid).live = true → (∀ e ∈ s.domains, e.1 / 8 = asid → e.2.now = none ∧ e.2.frogs = []) →
      ∃ t, exec (.retireAsid tag asid) s = .next t ∧ answered s t 8 tag ∧ (t.asid asid).live = false ∧
        ∀ c, ∀ e ∈ (t.core c).tlb, e.asid ≠ asid) ∧
    (∀ w : PutWindow, (s.partn p).made = true →
      ((s.partn p).windows.length < 16 → w.die.val < (s.partn p).ndie → w.base % 64 = 0 → w.size % 64 = 0 → w.base + w.size ≤ 0x6000000 →
        exec (.openPutWindow tag p w) s = .next (replies (s.setPartn p { s.partn p with windows := (s.partn p).windows ++ [w] }) 14 tag 0 [])) ∧
      (16 ≤ (s.partn p).windows.length → exec (.openPutWindow tag p w) s = .next (replies s 14 tag 1 []))) ∧
    (∀ n, (n < (s.partn p).windows.length → exec (.closePutWindow tag p n) s =
        .next (replies (s.setPartn p { s.partn p with windows := (s.partn p).windows.eraseIdx n }) 15 tag 0 [])) ∧
      ((s.partn p).windows.length ≤ n → exec (.closePutWindow tag p n) s = .next (replies s 15 tag 1 []))) ∧
    (∀ m : Fin 64, exec (.setMod tag m) s = .next (replies { s with module := m } 16 tag 0 [])) ∧
    (∀ v : BitVec 16, v = 0 ∨ 22 ≤ v.toNat → exec (.unknownMailboxService tag v) s = .next (replies s v tag 0xFFFF []))) ∧
  (∀ (s : State) (tag : BitVec 16), s.firmware = true →
    (∀ n, ∃ t, exec (.clockStep tag n) s = .next t ∧ answered s t 12 tag ∧ t.clock = n ∧ ∃ e, (t.die 0).selv = (e :: (s.die 0).selv).take 256 ∧ e.kind = 6) ∧
    (∀ c : CoreId,
      (∃ t, exec (.retireCore tag c) s = .next t ∧ answered s t 9 tag ∧ dropped t c = true ∧ t.waves = s.waves) ∧
      ((s.die c.die).fused.getLsbD (4 * c.quad.val + c.core.val) = false →
        ∃ t, exec (.restoreCore tag c) s = .next t ∧ answered s t 10 tag ∧ dropped t c = false) ∧
      ((s.die c.die).fused.getLsbD (4 * c.quad.val + c.core.val) = true → exec (.restoreCore tag c) s = .next (replies s 10 tag 1 []))) ∧
    (∀ (p : Fin 8) (sc : GScope) (d : Fin 4) (n : Fin 32) (x : BitVec 16), (s.partn p).made = true → (sc = .die → d.val < (s.partn p).ndie) →
      ∃ t, exec (.setBarrierCounts tag p sc d n x) s = .next t ∧ answered s t 13 tag ∧
        (sc = .pkg → look 0 (t.partn p).pkgBar n.val = x) ∧ (sc = .die → look 0 (t.partn p).dieBar (32 * d.val + n.val) = x)) ∧
    (∀ cfg : PartConfig, noResidents s cfg.part → s.full = true → cfg.quads ≠ [] → (∀ e ∈ cfg.quads, (s.die e.1).state = 3) →
      s.disjointCfg cfg = true → liveInRange s cfg → s.shareFits cfg = true → cfg.asidLo + cfg.asidN ≤ 65536 → cfg.asidN ≤ 65535 →
      (∀ n ∈ [cfg.capM, cfg.capN, cfg.capK], n ∈ [8, 16, 32, 64, 128, 256]) →
      ∃ t va, exec (.configurePartition tag cfg) s = .next t ∧ answered s t 4 tag ∧ (t.partn cfg.part).made = true ∧
        (t.partn cfg.part).cfg = { cfg with topoVa := va } ∧ va % 2 ^ 16 = s.topoAt cfg.part % 2 ^ 16 ∧ va / 2 ^ 16 = cfg.topoVa % 2 ^ 48 / 2 ^ 16 ∧
        (t.partn cfg.part).gwarn = 10000000) ∧
    (∀ cfg : PartConfig, (∃ e ∈ cfg.quads, (s.die e.1).state ≠ 3) ∨ s.full = false ∨ ¬ liveInRange s cfg ∨ 65536 < cfg.asidLo + cfg.asidN ∨
        65536 ≤ cfg.asidN →
      exec (.configurePartition tag cfg) s = .next (replies s 4 tag 1 [])) ∧
    (∀ (asid : Nat) (va : DWord), s.repl = [] → (∀ e ∈ s.waves, e.2.late = []) →
      ∃ t, exec (.invalidateTranslations tag asid va) s = .next t ∧ answered s t 18 tag ∧
        ∀ c e, e ∈ (t.core c).tlb ↔ e ∈ (s.core c).tlb ∧
          ¬ (e.asid = asid ∧ (va = BitVec.allOnes 64 ∨ (e.va ≤ va.toNat ∧ va.toNat < e.va + e.size)))))

/-- R346, R354, R316, R304, R312, R333 and R334: a reset and a teardown kill the partition's gangs with cause 0x203, empty its Stash and its markers, and are answered when no gang
is left; a freed ring is registered, its header written, and one with a die at or beyond NDIE is refused; an answered fault lets its wave replay, or take its trap, on restoration where its gang
is swapped out; frozen gangs resume, or are killed with cause
0x202. -/
def Obligations.MailboxControl : Prop :=
  (∀ (s : State) (tag : BitVec 16) (p : Fin 8), s.firmware = true → (s.partn p).made = true →
    (∀ e ∈ [Instr.partitionReset tag p, .partitionTeardown tag p],
      ∃ t, exec e s = .next t ∧ (t.partn p).ds = [] ∧
        (∀ n, (s.gang n).live = true → (s.gang n).part = p → (s.gang n).kill = none ∨ (∃ c, (s.gang n).kill = some (c, 2)) →
          (t.gang n).kill = some (0x203, 0xFF)) ∧
        (s.waiters = [] → ∀ d q, (d, q) ∈ (s.partn p).cfg.quads → (t.quad d q).marks = []) ∧
        (∀ b ∈ t.stash, b.part = p → b ∈ s.stash ∧ (b.resident = true ∨ ∃ n, b.gang = some n ∧ (s.gang n).live = true))) ∧
    (noGangs s p → s.stash = [] → s.queues = [] → s.waiters = [] →
      (∃ t, exec (.partitionReset tag p) s = .next t ∧ answered s t 5 tag ∧ (t.partn p).made = true ∧ (t.partn p).ending = []) ∧
      (∃ t, exec (.partitionTeardown tag p) s = .next t ∧ answered s t 6 tag ∧ (t.partn p).made = false ∧ (t.partn p).windows = [] ∧
        ∀ e ∈ t.keys, e.2.owner ≠ p))) ∧
  (∀ (s : State) (tag : BitVec 16) (p : Fin 8) (asid base log2n : Nat), s.firmware = true → (s.asid asid).live = true → (s.asid asid).part = p →
    (s.asid asid).retiring = [] → base % 64 = 0 → 4 ≤ log2n → log2n ≤ 12 →
    (∀ scope die : Nat, (s.partn p).ndie ≤ die → exec (.registerFreedRing tag p asid scope die base log2n) s = .next (replies s 17 tag 1 [])) ∧
    (∀ (scope die : Nat) (k : Nat), (scope = 4 ∧ die < (s.partn p).ndie ∧ k = asid * 8) ∨ (scope = 3 ∧ die < (s.partn p).ndie ∧ k = asid * 8 + die % 4 + 1) →
      (s.domain k).frogs = [] → plainWrites s (s.qtr k) (base + 8) 56 →
      ∃ t, exec (.registerFreedRing tag p asid scope die base log2n) s = .next t ∧ answered s t 17 tag ∧
        t.domain k = { s.domain k with ring := some (base, log2n), stuck := false } ∧
        (∀ pa, (∃ r, s.reach (s.qtr k) .store false (splitPages 2 (base + 8) 56) = .ok (r, [(.host pa, 56)])) → Mem.wf s.host = true →
          memRead t.host pa = BitVec.ofNat 8 log2n ∧ ∀ i, 1 ≤ i → i < 56 → memRead t.host (pa + i) = 0))) ∧
  (∀ (s : State) (tag : BitVec 16) (r : Request) (n : Nat), s.firmware = true → s.requests.find? (fun x => x.tag = r.tag) = some r →
    r.who = .wave n → (s.wave n).live = true → (s.wave n).wait = .service r.tag →
    (∃ t, exec (.answerFaultService tag r.tag false) s = .next t ∧ answered s t 19 tag ∧ t.wave n = { s.wave n with wait := .none } ∧
      (∀ x ∈ t.requests, x.tag ≠ r.tag) ∧ ∀ c, ∀ e ∈ (t.core c).tlb, ¬ (e.asid = r.asid ∧ e.va ≤ r.va ∧ r.va < e.va + e.size)) ∧
    ((s.gang (s.wave n).id.gang).place = none →
      ∃ t, exec (.answerFaultService tag r.tag true) s = .next t ∧ answered s t 19 tag ∧
        t.wave n = { s.wave n with wait := .declined r.cause r.va false }) ∧
    ((s.gang (s.wave n).id.gang).place ≠ none → (s.wave n).mode = .normal → (s.wave n).sr.thb ≠ 0 →
      ∃ t, exec (.answerFaultService tag r.tag true) s = .next t ∧ answered s t 19 tag ∧ (t.wave n).mode = .handler ∧ (t.wave n).wait = .none ∧
        (t.wave n).sr.tcause = r.cause ∧ (t.wave n).sr.tinfo = BitVec.ofNat 64 r.va ∧ (t.wave n).sr.tpc = (s.wave n).run.pc ∧
        (t.wave n).run.pc = (s.wave n).sr.thb)) ∧
  (∀ (s : State) (tag x : BitVec 16) (d : Bool), s.firmware = true → (∀ r ∈ s.requests, r.tag ≠ x) →
    exec (.answerFaultService tag x d) s = .next (replies s 19 tag 1 [])) ∧
  (∀ (s : State) (tag : BitVec 16) (p : BitVec 8) (task : DWord), s.firmware = true →
    ((∀ e ∈ s.gangs, ¬ (e.2.live = true ∧ e.2.part.val = p.toNat ∧ e.2.task = task)) →
      exec (.resumeGangs tag p task) s = .next (replies s 20 tag 1 []) ∧ exec (.killGangs tag p task) s = .next (replies s 21 tag 1 [])) ∧
    ((∃ e ∈ s.gangs, e.2.live = true ∧ e.2.part.val = p.toNat ∧ e.2.task = task) → (∀ e ∈ s.gangs, e.2.part.val = p.toNat → e.2.task = task → e.2.frozen = false) →
      exec (.resumeGangs tag p task) s = .next (replies s 20 tag 2 [])) ∧
    (∀ n, (s.gang n).live = true → (s.gang n).part.val = p.toNat → (s.gang n).task = task →
      ((s.gang n).frozen = true → ∃ t, exec (.resumeGangs tag p task) s = .next t ∧ answered s t 20 tag ∧ (t.gang n).frozen = false ∧
        (t.gang n).contain = none ∧ ∀ k, k / 64 = n → sameRegisters (t.wave k) (s.wave k) ∧ ((s.wave k).live = true → (t.wave k).wait ≠ .stopped)) ∧
      ((s.gang n).kill = none ∨ (∃ c, (s.gang n).kill = some (c, 2)) → ∃ t, exec (.killGangs tag p task) s = .next t ∧ answered s t 21 tag ∧ (t.gang n).kill = some (0x202, 0xFF))))
end

