-- ==== Sys2Proof/Laws/State.lean ====
section
/-! SUPPORT. The tables of State read back what is written; one lemma for each field and each named update of State and of Wave. -/

namespace Sys2Proof

/-! ## Tables -/

@[simp] theorem look_put_same {α : Type} (d : α) (t : List (Nat × α)) (k : Nat) (v : α) : look d (put t k v) k = v := by
  induction t with
  | nil => simp [put, look]
  | cons e t ih =>
    obtain ⟨j, x⟩ := e
    by_cases h : j = k
    · simp [put, look, h]
    · by_cases l : k < j
      · simp [put, look, h, l]
      · simp [put, look, h, l, ih]

theorem look_put_other {α : Type} (d : α) (t : List (Nat × α)) (k m : Nat) (v : α) (hm : m ≠ k) :
    look d (put t k v) m = look d t m := by
  induction t with
  | nil => simp [put, look, hm.symm]
  | cons e t ih =>
    obtain ⟨j, x⟩ := e
    by_cases h : j = k
    · subst h; simp [put, look, hm.symm]
    · by_cases l : k < j
      · simp [put, look, h, l, hm.symm]
      · simp [put, look, h, l, ih]

/-- A table reads back the value that was written, and no other key changes. -/
theorem look_put {α : Type} (d : α) (t : List (Nat × α)) (k m : Nat) (v : α) :
    look d (put t k v) m = if m = k then v else look d t m := by
  by_cases h : m = k
  · subst h; simp
  · rw [look_put_other d t k m v h, if_neg h]

theorem mem_put {α : Type} (t : List (Nat × α)) (k : Nat) (v : α) (e : Nat × α) (he : e ∈ put t k v) : e = (k, v) ∨ e ∈ t := by
  induction t with
  | nil => simpa [put] using he
  | cons x t ih =>
    obtain ⟨j, y⟩ := x
    unfold put at he
    split at he
    · rcases List.mem_cons.1 he with h | h
      · exact .inl h
      · exact .inr (List.mem_cons_of_mem _ h)
    · split at he
      · rcases List.mem_cons.1 he with h | h
        · exact .inl h
        · exact .inr h
      · rcases List.mem_cons.1 he with h | h
        · exact .inr (h ▸ List.mem_cons_self)
        · exact (ih h).imp id (List.mem_cons_of_mem _)

/-- What a table holds at a key is listed, or is the default. -/
theorem look_mem {α : Type} (d : α) (t : List (Nat × α)) (k : Nat) : look d t k = d ∨ (k, look d t k) ∈ t := by
  induction t with
  | nil => exact .inl rfl
  | cons e t ih =>
    obtain ⟨j, x⟩ := e
    by_cases h : j = k
    · simp [look, h]
    · simp only [look, h, if_false]; exact ih.imp id (List.mem_cons_of_mem _)

theorem quadKey_inj {d e : Fin 4} {q r : Fin 36} (h : Machine.quadKey d q = Machine.quadKey e r) : d = e ∧ q = r := by
  simp only [Machine.quadKey] at h; omega

theorem CoreId_key_inj {a b : CoreId} (h : Machine.CoreId.key a = Machine.CoreId.key b) : a = b := by
  obtain ⟨d, q, c⟩ := a; obtain ⟨e, r, f⟩ := b
  simp only [Machine.CoreId.key] at h
  have h1 : d = e := by omega
  have h2 : q = r := by omega
  have h3 : c = f := by omega
  rw [h1, h2, h3]

end Sys2Proof

namespace Sys2Proof.Machine

/-! ## The tables of State -/

theorem State.wave_setWave (s : State) (n m : Nat) (w : Wave) : (s.setWave n w).wave m = if m = n then w else s.wave m :=
  look_put ..

@[simp] theorem State.wave_setWave_same (s : State) (n : Nat) (w : Wave) : (s.setWave n w).wave n = w := look_put_same ..

theorem State.wave_setMe_other (s : State) (w : Wave) (n : Nat) (h : n ≠ s.cur) : (s.setMe w).wave n = s.wave n :=
  look_put_other _ _ _ _ _ h

@[simp] theorem State.me_setMe (s : State) (w : Wave) : (s.setMe w).me = w := look_put_same ..

theorem State.gang_setGang (s : State) (n m : Nat) (g : Gang) : (s.setGang n g).gang m = if m = n then g else s.gang m :=
  look_put ..

@[simp] theorem State.gang_setGang_same (s : State) (n : Nat) (g : Gang) : (s.setGang n g).gang n = g := look_put_same ..

theorem State.core_setCore (s : State) (c d : CoreId) (x : Core) : (s.setCore c x).core d = if d = c then x else s.core d := by
  by_cases h : d = c
  · subst h; rw [if_pos rfl]; exact look_put_same ..
  · rw [if_neg h]; exact look_put_other _ _ _ _ _ (fun e => h (CoreId_key_inj e))

@[simp] theorem State.core_setCore_same (s : State) (c : CoreId) (x : Core) : (s.setCore c x).core c = x := look_put_same ..

theorem State.quad_setQuad (s : State) (d e : Fin 4) (q r : Fin 36) (x : Quad) :
    (s.setQuad d q x).quad e r = if e = d ∧ r = q then x else s.quad e r := by
  by_cases h : e = d ∧ r = q
  · obtain ⟨rfl, rfl⟩ := h; rw [if_pos ⟨rfl, rfl⟩]; exact look_put_same ..
  · rw [if_neg h]; exact look_put_other _ _ _ _ _ (fun k => h (quadKey_inj k))

@[simp] theorem State.quad_setQuad_same (s : State) (d : Fin 4) (q : Fin 36) (x : Quad) : (s.setQuad d q x).quad d q = x := look_put_same ..

theorem State.die_setDie (s : State) (d e : Fin 4) (x : Die) : (s.setDie d x).die e = if e = d then x else s.die e := by
  by_cases h : e = d
  · subst h; rw [if_pos rfl]; exact look_put_same ..
  · rw [if_neg h]; exact look_put_other _ _ _ _ _ (fun k => h (Fin.ext k))

@[simp] theorem State.die_setDie_same (s : State) (d : Fin 4) (x : Die) : (s.setDie d x).die d = x := look_put_same ..

theorem State.partn_setPartn (s : State) (p q : Fin 8) (x : Partition) : (s.setPartn p x).partn q = if q = p then x else s.partn q := by
  by_cases h : q = p
  · subst h; rw [if_pos rfl]; exact look_put_same ..
  · rw [if_neg h]; exact look_put_other _ _ _ _ _ (fun k => h (Fin.ext k))

@[simp] theorem State.partn_setPartn_same (s : State) (p : Fin 8) (x : Partition) : (s.setPartn p x).partn p = x := look_put_same ..

@[simp] theorem State.queue_setQueue_same (s : State) (n : Nat) (x : Queue) : (s.setQueue n x).queue n = x := look_put_same ..

@[simp] theorem State.domain_setDomain_same (s : State) (n : Nat) (x : Domain) : (s.setDomain n x).domain n = x := look_put_same ..

/-! ## The scalar registers (R12) -/

@[simp] theorem Wave.rs_zero (w : Wave) : w.rs 0 = 0 := rfl

@[simp] theorem Wave.setS_zero (w : Wave) (x : DWord) : w.setS 0 x = w := rfl

@[simp] theorem Wave.setS_rs_same (w : Wave) (r : SReg) (x : DWord) (h : r ≠ 0) : (w.setS r x).rs r = x := by
  simp [Wave.rs, Wave.setS, h]

theorem Wave.setS_rs_other (w : Wave) (r q : SReg) (x : DWord) (h : q ≠ r) : (w.setS r x).rs q = w.rs q := by
  by_cases hr : r = 0
  · subst hr; rfl
  · have e : (r : Nat) ≠ q := fun k => h (Fin.ext k.symm)
    simp [Wave.rs, Wave.setS, hr, e]

/-! ## One lemma for each field and each update of State -/

@[simp] theorem State.setWave_cur (s : State) (n : Nat) (x : Wave) : (s.setWave n x).cur = s.cur := rfl
@[simp] theorem State.setWave_ir (s : State) (n : Nat) (x : Wave) : (s.setWave n x).ir = s.ir := rfl
@[simp] theorem State.setWave_inbox (s : State) (n : Nat) (x : Wave) : (s.setWave n x).inbox = s.inbox := rfl
@[simp] theorem State.setWave_schedule (s : State) (n : Nat) (x : Wave) : (s.setWave n x).schedule = s.schedule := rfl
@[simp] theorem State.setWave_fresh (s : State) (n : Nat) (x : Wave) : (s.setWave n x).fresh = s.fresh := rfl
@[simp] theorem State.setWave_seq (s : State) (n : Nat) (x : Wave) : (s.setWave n x).seq = s.seq := rfl
@[simp] theorem State.setWave_outbox (s : State) (n : Nat) (x : Wave) : (s.setWave n x).outbox = s.outbox := rfl
@[simp] theorem State.setWave_power (s : State) (n : Nat) (x : Wave) : (s.setWave n x).power = s.power := rfl
@[simp] theorem State.setWave_time (s : State) (n : Nat) (x : Wave) : (s.setWave n x).time = s.time := rfl
@[simp] theorem State.setWave_gangs (s : State) (n : Nat) (x : Wave) : (s.setWave n x).gangs = s.gangs := rfl
@[simp] theorem State.setWave_cores (s : State) (n : Nat) (x : Wave) : (s.setWave n x).cores = s.cores := rfl
@[simp] theorem State.setWave_quads (s : State) (n : Nat) (x : Wave) : (s.setWave n x).quads = s.quads := rfl
@[simp] theorem State.setWave_dies (s : State) (n : Nat) (x : Wave) : (s.setWave n x).dies = s.dies := rfl
@[simp] theorem State.setWave_parts (s : State) (n : Nat) (x : Wave) : (s.setWave n x).parts = s.parts := rfl
@[simp] theorem State.setWave_queues (s : State) (n : Nat) (x : Wave) : (s.setWave n x).queues = s.queues := rfl
@[simp] theorem State.setWave_stash (s : State) (n : Nat) (x : Wave) : (s.setWave n x).stash = s.stash := rfl
@[simp] theorem State.setWave_heirs (s : State) (n : Nat) (x : Wave) : (s.setWave n x).heirs = s.heirs := rfl
@[simp] theorem State.setWave_turns (s : State) (n : Nat) (x : Wave) : (s.setWave n x).turns = s.turns := rfl
@[simp] theorem State.setWave_asids (s : State) (n : Nat) (x : Wave) : (s.setWave n x).asids = s.asids := rfl
@[simp] theorem State.setWave_domains (s : State) (n : Nat) (x : Wave) : (s.setWave n x).domains = s.domains := rfl
@[simp] theorem State.setWave_requests (s : State) (n : Nat) (x : Wave) : (s.setWave n x).requests = s.requests := rfl
@[simp] theorem State.setWave_transfers (s : State) (n : Nat) (x : Wave) : (s.setWave n x).transfers = s.transfers := rfl
@[simp] theorem State.setWave_keys (s : State) (n : Nat) (x : Wave) : (s.setWave n x).keys = s.keys := rfl
@[simp] theorem State.setWave_keyCmds (s : State) (n : Nat) (x : Wave) : (s.setWave n x).keyCmds = s.keyCmds := rfl
@[simp] theorem State.setWave_gddr (s : State) (n : Nat) (x : Wave) : (s.setWave n x).gddr = s.gddr := rfl
@[simp] theorem State.setWave_host (s : State) (n : Nat) (x : Wave) : (s.setWave n x).host = s.host := rfl
@[simp] theorem State.setWave_gddrPoison (s : State) (n : Nat) (x : Wave) : (s.setWave n x).gddrPoison = s.gddrPoison := rfl
@[simp] theorem State.setWave_unitKey (s : State) (n : Nat) (x : Wave) : (s.setWave n x).unitKey = s.unitKey := rfl
@[simp] theorem State.setWave_repl (s : State) (n : Nat) (x : Wave) : (s.setWave n x).repl = s.repl := rfl
@[simp] theorem State.setWave_relief (s : State) (n : Nat) (x : Wave) : (s.setWave n x).relief = s.relief := rfl
@[simp] theorem State.setWave_owed (s : State) (n : Nat) (x : Wave) : (s.setWave n x).owed = s.owed := rfl
@[simp] theorem State.setWave_deferred (s : State) (n : Nat) (x : Wave) : (s.setWave n x).deferred = s.deferred := rfl
@[simp] theorem State.setWave_full (s : State) (n : Nat) (x : Wave) : (s.setWave n x).full = s.full := rfl
@[simp] theorem State.setWave_edges (s : State) (n : Nat) (x : Wave) : (s.setWave n x).edges = s.edges := rfl
@[simp] theorem State.setWave_module (s : State) (n : Nat) (x : Wave) : (s.setWave n x).module = s.module := rfl
@[simp] theorem State.setWave_clock (s : State) (n : Nat) (x : Wave) : (s.setWave n x).clock = s.clock := rfl

@[simp] theorem State.setMe_cur (s : State) (x : Wave) : (s.setMe x).cur = s.cur := rfl
@[simp] theorem State.setMe_ir (s : State) (x : Wave) : (s.setMe x).ir = s.ir := rfl
@[simp] theorem State.setMe_inbox (s : State) (x : Wave) : (s.setMe x).inbox = s.inbox := rfl
@[simp] theorem State.setMe_schedule (s : State) (x : Wave) : (s.setMe x).schedule = s.schedule := rfl
@[simp] theorem State.setMe_fresh (s : State) (x : Wave) : (s.setMe x).fresh = s.fresh := rfl
@[simp] theorem State.setMe_seq (s : State) (x : Wave) : (s.setMe x).seq = s.seq := rfl
@[simp] theorem State.setMe_outbox (s : State) (x : Wave) : (s.setMe x).outbox = s.outbox := rfl
@[simp] theorem State.setMe_power (s : State) (x : Wave) : (s.setMe x).power = s.power := rfl
@[simp] theorem State.setMe_time (s : State) (x : Wave) : (s.setMe x).time = s.time := rfl
@[simp] theorem State.setMe_gangs (s : State) (x : Wave) : (s.setMe x).gangs = s.gangs := rfl
@[simp] theorem State.setMe_cores (s : State) (x : Wave) : (s.setMe x).cores = s.cores := rfl
@[simp] theorem State.setMe_quads (s : State) (x : Wave) : (s.setMe x).quads = s.quads := rfl
@[simp] theorem State.setMe_dies (s : State) (x : Wave) : (s.setMe x).dies = s.dies := rfl
@[simp] theorem State.setMe_parts (s : State) (x : Wave) : (s.setMe x).parts = s.parts := rfl
@[simp] theorem State.setMe_queues (s : State) (x : Wave) : (s.setMe x).queues = s.queues := rfl
@[simp] theorem State.setMe_stash (s : State) (x : Wave) : (s.setMe x).stash = s.stash := rfl
@[simp] theorem State.setMe_heirs (s : State) (x : Wave) : (s.setMe x).heirs = s.heirs := rfl
@[simp] theorem State.setMe_turns (s : State) (x : Wave) : (s.setMe x).turns = s.turns := rfl
@[simp] theorem State.setMe_asids (s : State) (x : Wave) : (s.setMe x).asids = s.asids := rfl
@[simp] theorem State.setMe_domains (s : State) (x : Wave) : (s.setMe x).domains = s.domains := rfl
@[simp] theorem State.setMe_requests (s : State) (x : Wave) : (s.setMe x).requests = s.requests := rfl
@[simp] theorem State.setMe_transfers (s : State) (x : Wave) : (s.setMe x).transfers = s.transfers := rfl
@[simp] theorem State.setMe_keys (s : State) (x : Wave) : (s.setMe x).keys = s.keys := rfl
@[simp] theorem State.setMe_keyCmds (s : State) (x : Wave) : (s.setMe x).keyCmds = s.keyCmds := rfl
@[simp] theorem State.setMe_gddr (s : State) (x : Wave) : (s.setMe x).gddr = s.gddr := rfl
@[simp] theorem State.setMe_host (s : State) (x : Wave) : (s.setMe x).host = s.host := rfl
@[simp] theorem State.setMe_gddrPoison (s : State) (x : Wave) : (s.setMe x).gddrPoison = s.gddrPoison := rfl
@[simp] theorem State.setMe_unitKey (s : State) (x : Wave) : (s.setMe x).unitKey = s.unitKey := rfl
@[simp] theorem State.setMe_repl (s : State) (x : Wave) : (s.setMe x).repl = s.repl := rfl
@[simp] theorem State.setMe_relief (s : State) (x : Wave) : (s.setMe x).relief = s.relief := rfl
@[simp] theorem State.setMe_owed (s : State) (x : Wave) : (s.setMe x).owed = s.owed := rfl
@[simp] theorem State.setMe_deferred (s : State) (x : Wave) : (s.setMe x).deferred = s.deferred := rfl
@[simp] theorem State.setMe_full (s : State) (x : Wave) : (s.setMe x).full = s.full := rfl
@[simp] theorem State.setMe_edges (s : State) (x : Wave) : (s.setMe x).edges = s.edges := rfl
@[simp] theorem State.setMe_module (s : State) (x : Wave) : (s.setMe x).module = s.module := rfl
@[simp] theorem State.setMe_clock (s : State) (x : Wave) : (s.setMe x).clock = s.clock := rfl

@[simp] theorem State.setGang_cur (s : State) (n : Nat) (x : Gang) : (s.setGang n x).cur = s.cur := rfl
@[simp] theorem State.setGang_ir (s : State) (n : Nat) (x : Gang) : (s.setGang n x).ir = s.ir := rfl
@[simp] theorem State.setGang_inbox (s : State) (n : Nat) (x : Gang) : (s.setGang n x).inbox = s.inbox := rfl
@[simp] theorem State.setGang_schedule (s : State) (n : Nat) (x : Gang) : (s.setGang n x).schedule = s.schedule := rfl
@[simp] theorem State.setGang_fresh (s : State) (n : Nat) (x : Gang) : (s.setGang n x).fresh = s.fresh := rfl
@[simp] theorem State.setGang_seq (s : State) (n : Nat) (x : Gang) : (s.setGang n x).seq = s.seq := rfl
@[simp] theorem State.setGang_outbox (s : State) (n : Nat) (x : Gang) : (s.setGang n x).outbox = s.outbox := rfl
@[simp] theorem State.setGang_power (s : State) (n : Nat) (x : Gang) : (s.setGang n x).power = s.power := rfl
@[simp] theorem State.setGang_time (s : State) (n : Nat) (x : Gang) : (s.setGang n x).time = s.time := rfl
@[simp] theorem State.setGang_waves (s : State) (n : Nat) (x : Gang) : (s.setGang n x).waves = s.waves := rfl
@[simp] theorem State.setGang_cores (s : State) (n : Nat) (x : Gang) : (s.setGang n x).cores = s.cores := rfl
@[simp] theorem State.setGang_quads (s : State) (n : Nat) (x : Gang) : (s.setGang n x).quads = s.quads := rfl
@[simp] theorem State.setGang_dies (s : State) (n : Nat) (x : Gang) : (s.setGang n x).dies = s.dies := rfl
@[simp] theorem State.setGang_parts (s : State) (n : Nat) (x : Gang) : (s.setGang n x).parts = s.parts := rfl
@[simp] theorem State.setGang_queues (s : State) (n : Nat) (x : Gang) : (s.setGang n x).queues = s.queues := rfl
@[simp] theorem State.setGang_stash (s : State) (n : Nat) (x : Gang) : (s.setGang n x).stash = s.stash := rfl
@[simp] theorem State.setGang_heirs (s : State) (n : Nat) (x : Gang) : (s.setGang n x).heirs = s.heirs := rfl
@[simp] theorem State.setGang_turns (s : State) (n : Nat) (x : Gang) : (s.setGang n x).turns = s.turns := rfl
@[simp] theorem State.setGang_asids (s : State) (n : Nat) (x : Gang) : (s.setGang n x).asids = s.asids := rfl
@[simp] theorem State.setGang_domains (s : State) (n : Nat) (x : Gang) : (s.setGang n x).domains = s.domains := rfl
@[simp] theorem State.setGang_requests (s : State) (n : Nat) (x : Gang) : (s.setGang n x).requests = s.requests := rfl
@[simp] theorem State.setGang_transfers (s : State) (n : Nat) (x : Gang) : (s.setGang n x).transfers = s.transfers := rfl
@[simp] theorem State.setGang_keys (s : State) (n : Nat) (x : Gang) : (s.setGang n x).keys = s.keys := rfl
@[simp] theorem State.setGang_keyCmds (s : State) (n : Nat) (x : Gang) : (s.setGang n x).keyCmds = s.keyCmds := rfl
@[simp] theorem State.setGang_gddr (s : State) (n : Nat) (x : Gang) : (s.setGang n x).gddr = s.gddr := rfl
@[simp] theorem State.setGang_host (s : State) (n : Nat) (x : Gang) : (s.setGang n x).host = s.host := rfl
@[simp] theorem State.setGang_gddrPoison (s : State) (n : Nat) (x : Gang) : (s.setGang n x).gddrPoison = s.gddrPoison := rfl
@[simp] theorem State.setGang_unitKey (s : State) (n : Nat) (x : Gang) : (s.setGang n x).unitKey = s.unitKey := rfl
@[simp] theorem State.setGang_repl (s : State) (n : Nat) (x : Gang) : (s.setGang n x).repl = s.repl := rfl
@[simp] theorem State.setGang_relief (s : State) (n : Nat) (x : Gang) : (s.setGang n x).relief = s.relief := rfl
@[simp] theorem State.setGang_owed (s : State) (n : Nat) (x : Gang) : (s.setGang n x).owed = s.owed := rfl
@[simp] theorem State.setGang_deferred (s : State) (n : Nat) (x : Gang) : (s.setGang n x).deferred = s.deferred := rfl
@[simp] theorem State.setGang_full (s : State) (n : Nat) (x : Gang) : (s.setGang n x).full = s.full := rfl
@[simp] theorem State.setGang_edges (s : State) (n : Nat) (x : Gang) : (s.setGang n x).edges = s.edges := rfl
@[simp] theorem State.setGang_module (s : State) (n : Nat) (x : Gang) : (s.setGang n x).module = s.module := rfl
@[simp] theorem State.setGang_clock (s : State) (n : Nat) (x : Gang) : (s.setGang n x).clock = s.clock := rfl

@[simp] theorem State.setCore_cur (s : State) (c : CoreId) (x : Core) : (s.setCore c x).cur = s.cur := rfl
@[simp] theorem State.setCore_ir (s : State) (c : CoreId) (x : Core) : (s.setCore c x).ir = s.ir := rfl
@[simp] theorem State.setCore_inbox (s : State) (c : CoreId) (x : Core) : (s.setCore c x).inbox = s.inbox := rfl
@[simp] theorem State.setCore_schedule (s : State) (c : CoreId) (x : Core) : (s.setCore c x).schedule = s.schedule := rfl
@[simp] theorem State.setCore_fresh (s : State) (c : CoreId) (x : Core) : (s.setCore c x).fresh = s.fresh := rfl
@[simp] theorem State.setCore_seq (s : State) (c : CoreId) (x : Core) : (s.setCore c x).seq = s.seq := rfl
@[simp] theorem State.setCore_outbox (s : State) (c : CoreId) (x : Core) : (s.setCore c x).outbox = s.outbox := rfl
@[simp] theorem State.setCore_power (s : State) (c : CoreId) (x : Core) : (s.setCore c x).power = s.power := rfl
@[simp] theorem State.setCore_time (s : State) (c : CoreId) (x : Core) : (s.setCore c x).time = s.time := rfl
@[simp] theorem State.setCore_waves (s : State) (c : CoreId) (x : Core) : (s.setCore c x).waves = s.waves := rfl
@[simp] theorem State.setCore_gangs (s : State) (c : CoreId) (x : Core) : (s.setCore c x).gangs = s.gangs := rfl
@[simp] theorem State.setCore_quads (s : State) (c : CoreId) (x : Core) : (s.setCore c x).quads = s.quads := rfl
@[simp] theorem State.setCore_dies (s : State) (c : CoreId) (x : Core) : (s.setCore c x).dies = s.dies := rfl
@[simp] theorem State.setCore_parts (s : State) (c : CoreId) (x : Core) : (s.setCore c x).parts = s.parts := rfl
@[simp] theorem State.setCore_queues (s : State) (c : CoreId) (x : Core) : (s.setCore c x).queues = s.queues := rfl
@[simp] theorem State.setCore_stash (s : State) (c : CoreId) (x : Core) : (s.setCore c x).stash = s.stash := rfl
@[simp] theorem State.setCore_heirs (s : State) (c : CoreId) (x : Core) : (s.setCore c x).heirs = s.heirs := rfl
@[simp] theorem State.setCore_turns (s : State) (c : CoreId) (x : Core) : (s.setCore c x).turns = s.turns := rfl
@[simp] theorem State.setCore_asids (s : State) (c : CoreId) (x : Core) : (s.setCore c x).asids = s.asids := rfl
@[simp] theorem State.setCore_domains (s : State) (c : CoreId) (x : Core) : (s.setCore c x).domains = s.domains := rfl
@[simp] theorem State.setCore_requests (s : State) (c : CoreId) (x : Core) : (s.setCore c x).requests = s.requests := rfl
@[simp] theorem State.setCore_transfers (s : State) (c : CoreId) (x : Core) : (s.setCore c x).transfers = s.transfers := rfl
@[simp] theorem State.setCore_keys (s : State) (c : CoreId) (x : Core) : (s.setCore c x).keys = s.keys := rfl
@[simp] theorem State.setCore_keyCmds (s : State) (c : CoreId) (x : Core) : (s.setCore c x).keyCmds = s.keyCmds := rfl
@[simp] theorem State.setCore_gddr (s : State) (c : CoreId) (x : Core) : (s.setCore c x).gddr = s.gddr := rfl
@[simp] theorem State.setCore_host (s : State) (c : CoreId) (x : Core) : (s.setCore c x).host = s.host := rfl
@[simp] theorem State.setCore_gddrPoison (s : State) (c : CoreId) (x : Core) : (s.setCore c x).gddrPoison = s.gddrPoison := rfl
@[simp] theorem State.setCore_unitKey (s : State) (c : CoreId) (x : Core) : (s.setCore c x).unitKey = s.unitKey := rfl
@[simp] theorem State.setCore_repl (s : State) (c : CoreId) (x : Core) : (s.setCore c x).repl = s.repl := rfl
@[simp] theorem State.setCore_relief (s : State) (c : CoreId) (x : Core) : (s.setCore c x).relief = s.relief := rfl
@[simp] theorem State.setCore_owed (s : State) (c : CoreId) (x : Core) : (s.setCore c x).owed = s.owed := rfl
@[simp] theorem State.setCore_deferred (s : State) (c : CoreId) (x : Core) : (s.setCore c x).deferred = s.deferred := rfl
@[simp] theorem State.setCore_full (s : State) (c : CoreId) (x : Core) : (s.setCore c x).full = s.full := rfl
@[simp] theorem State.setCore_edges (s : State) (c : CoreId) (x : Core) : (s.setCore c x).edges = s.edges := rfl
@[simp] theorem State.setCore_module (s : State) (c : CoreId) (x : Core) : (s.setCore c x).module = s.module := rfl
@[simp] theorem State.setCore_clock (s : State) (c : CoreId) (x : Core) : (s.setCore c x).clock = s.clock := rfl

@[simp] theorem State.setQuad_cur (s : State) (d : Fin 4) (q : Fin 36) (x : Quad) : (s.setQuad d q x).cur = s.cur := rfl
@[simp] theorem State.setQuad_ir (s : State) (d : Fin 4) (q : Fin 36) (x : Quad) : (s.setQuad d q x).ir = s.ir := rfl
@[simp] theorem State.setQuad_inbox (s : State) (d : Fin 4) (q : Fin 36) (x : Quad) : (s.setQuad d q x).inbox = s.inbox := rfl
@[simp] theorem State.setQuad_schedule (s : State) (d : Fin 4) (q : Fin 36) (x : Quad) : (s.setQuad d q x).schedule = s.schedule := rfl
@[simp] theorem State.setQuad_fresh (s : State) (d : Fin 4) (q : Fin 36) (x : Quad) : (s.setQuad d q x).fresh = s.fresh := rfl
@[simp] theorem State.setQuad_seq (s : State) (d : Fin 4) (q : Fin 36) (x : Quad) : (s.setQuad d q x).seq = s.seq := rfl
@[simp] theorem State.setQuad_outbox (s : State) (d : Fin 4) (q : Fin 36) (x : Quad) : (s.setQuad d q x).outbox = s.outbox := rfl
@[simp] theorem State.setQuad_power (s : State) (d : Fin 4) (q : Fin 36) (x : Quad) : (s.setQuad d q x).power = s.power := rfl
@[simp] theorem State.setQuad_time (s : State) (d : Fin 4) (q : Fin 36) (x : Quad) : (s.setQuad d q x).time = s.time := rfl
@[simp] theorem State.setQuad_waves (s : State) (d : Fin 4) (q : Fin 36) (x : Quad) : (s.setQuad d q x).waves = s.waves := rfl
@[simp] theorem State.setQuad_gangs (s : State) (d : Fin 4) (q : Fin 36) (x : Quad) : (s.setQuad d q x).gangs = s.gangs := rfl
@[simp] theorem State.setQuad_cores (s : State) (d : Fin 4) (q : Fin 36) (x : Quad) : (s.setQuad d q x).cores = s.cores := rfl
@[simp] theorem State.setQuad_dies (s : State) (d : Fin 4) (q : Fin 36) (x : Quad) : (s.setQuad d q x).dies = s.dies := rfl
@[simp] theorem State.setQuad_parts (s : State) (d : Fin 4) (q : Fin 36) (x : Quad) : (s.setQuad d q x).parts = s.parts := rfl
@[simp] theorem State.setQuad_queues (s : State) (d : Fin 4) (q : Fin 36) (x : Quad) : (s.setQuad d q x).queues = s.queues := rfl
@[simp] theorem State.setQuad_stash (s : State) (d : Fin 4) (q : Fin 36) (x : Quad) : (s.setQuad d q x).stash = s.stash := rfl
@[simp] theorem State.setQuad_heirs (s : State) (d : Fin 4) (q : Fin 36) (x : Quad) : (s.setQuad d q x).heirs = s.heirs := rfl
@[simp] theorem State.setQuad_turns (s : State) (d : Fin 4) (q : Fin 36) (x : Quad) : (s.setQuad d q x).turns = s.turns := rfl
@[simp] theorem State.setQuad_asids (s : State) (d : Fin 4) (q : Fin 36) (x : Quad) : (s.setQuad d q x).asids = s.asids := rfl
@[simp] theorem State.setQuad_domains (s : State) (d : Fin 4) (q : Fin 36) (x : Quad) : (s.setQuad d q x).domains = s.domains := rfl
@[simp] theorem State.setQuad_requests (s : State) (d : Fin 4) (q : Fin 36) (x : Quad) : (s.setQuad d q x).requests = s.requests := rfl
@[simp] theorem State.setQuad_transfers (s : State) (d : Fin 4) (q : Fin 36) (x : Quad) : (s.setQuad d q x).transfers = s.transfers := rfl
@[simp] theorem State.setQuad_keys (s : State) (d : Fin 4) (q : Fin 36) (x : Quad) : (s.setQuad d q x).keys = s.keys := rfl
@[simp] theorem State.setQuad_keyCmds (s : State) (d : Fin 4) (q : Fin 36) (x : Quad) : (s.setQuad d q x).keyCmds = s.keyCmds := rfl
@[simp] theorem State.setQuad_gddr (s : State) (d : Fin 4) (q : Fin 36) (x : Quad) : (s.setQuad d q x).gddr = s.gddr := rfl
@[simp] theorem State.setQuad_host (s : State) (d : Fin 4) (q : Fin 36) (x : Quad) : (s.setQuad d q x).host = s.host := rfl
@[simp] theorem State.setQuad_gddrPoison (s : State) (d : Fin 4) (q : Fin 36) (x : Quad) : (s.setQuad d q x).gddrPoison = s.gddrPoison := rfl
@[simp] theorem State.setQuad_unitKey (s : State) (d : Fin 4) (q : Fin 36) (x : Quad) : (s.setQuad d q x).unitKey = s.unitKey := rfl
@[simp] theorem State.setQuad_repl (s : State) (d : Fin 4) (q : Fin 36) (x : Quad) : (s.setQuad d q x).repl = s.repl := rfl
@[simp] theorem State.setQuad_relief (s : State) (d : Fin 4) (q : Fin 36) (x : Quad) : (s.setQuad d q x).relief = s.relief := rfl
@[simp] theorem State.setQuad_owed (s : State) (d : Fin 4) (q : Fin 36) (x : Quad) : (s.setQuad d q x).owed = s.owed := rfl
@[simp] theorem State.setQuad_deferred (s : State) (d : Fin 4) (q : Fin 36) (x : Quad) : (s.setQuad d q x).deferred = s.deferred := rfl
@[simp] theorem State.setQuad_full (s : State) (d : Fin 4) (q : Fin 36) (x : Quad) : (s.setQuad d q x).full = s.full := rfl
@[simp] theorem State.setQuad_edges (s : State) (d : Fin 4) (q : Fin 36) (x : Quad) : (s.setQuad d q x).edges = s.edges := rfl
@[simp] theorem State.setQuad_module (s : State) (d : Fin 4) (q : Fin 36) (x : Quad) : (s.setQuad d q x).module = s.module := rfl
@[simp] theorem State.setQuad_clock (s : State) (d : Fin 4) (q : Fin 36) (x : Quad) : (s.setQuad d q x).clock = s.clock := rfl

@[simp] theorem State.setDie_cur (s : State) (d : Fin 4) (x : Die) : (s.setDie d x).cur = s.cur := rfl
@[simp] theorem State.setDie_ir (s : State) (d : Fin 4) (x : Die) : (s.setDie d x).ir = s.ir := rfl
@[simp] theorem State.setDie_inbox (s : State) (d : Fin 4) (x : Die) : (s.setDie d x).inbox = s.inbox := rfl
@[simp] theorem State.setDie_schedule (s : State) (d : Fin 4) (x : Die) : (s.setDie d x).schedule = s.schedule := rfl
@[simp] theorem State.setDie_fresh (s : State) (d : Fin 4) (x : Die) : (s.setDie d x).fresh = s.fresh := rfl
@[simp] theorem State.setDie_seq (s : State) (d : Fin 4) (x : Die) : (s.setDie d x).seq = s.seq := rfl
@[simp] theorem State.setDie_outbox (s : State) (d : Fin 4) (x : Die) : (s.setDie d x).outbox = s.outbox := rfl
@[simp] theorem State.setDie_power (s : State) (d : Fin 4) (x : Die) : (s.setDie d x).power = s.power := rfl
@[simp] theorem State.setDie_time (s : State) (d : Fin 4) (x : Die) : (s.setDie d x).time = s.time := rfl
@[simp] theorem State.setDie_waves (s : State) (d : Fin 4) (x : Die) : (s.setDie d x).waves = s.waves := rfl
@[simp] theorem State.setDie_gangs (s : State) (d : Fin 4) (x : Die) : (s.setDie d x).gangs = s.gangs := rfl
@[simp] theorem State.setDie_cores (s : State) (d : Fin 4) (x : Die) : (s.setDie d x).cores = s.cores := rfl
@[simp] theorem State.setDie_quads (s : State) (d : Fin 4) (x : Die) : (s.setDie d x).quads = s.quads := rfl
@[simp] theorem State.setDie_parts (s : State) (d : Fin 4) (x : Die) : (s.setDie d x).parts = s.parts := rfl
@[simp] theorem State.setDie_queues (s : State) (d : Fin 4) (x : Die) : (s.setDie d x).queues = s.queues := rfl
@[simp] theorem State.setDie_stash (s : State) (d : Fin 4) (x : Die) : (s.setDie d x).stash = s.stash := rfl
@[simp] theorem State.setDie_heirs (s : State) (d : Fin 4) (x : Die) : (s.setDie d x).heirs = s.heirs := rfl
@[simp] theorem State.setDie_turns (s : State) (d : Fin 4) (x : Die) : (s.setDie d x).turns = s.turns := rfl
@[simp] theorem State.setDie_asids (s : State) (d : Fin 4) (x : Die) : (s.setDie d x).asids = s.asids := rfl
@[simp] theorem State.setDie_domains (s : State) (d : Fin 4) (x : Die) : (s.setDie d x).domains = s.domains := rfl
@[simp] theorem State.setDie_requests (s : State) (d : Fin 4) (x : Die) : (s.setDie d x).requests = s.requests := rfl
@[simp] theorem State.setDie_transfers (s : State) (d : Fin 4) (x : Die) : (s.setDie d x).transfers = s.transfers := rfl
@[simp] theorem State.setDie_keys (s : State) (d : Fin 4) (x : Die) : (s.setDie d x).keys = s.keys := rfl
@[simp] theorem State.setDie_keyCmds (s : State) (d : Fin 4) (x : Die) : (s.setDie d x).keyCmds = s.keyCmds := rfl
@[simp] theorem State.setDie_gddr (s : State) (d : Fin 4) (x : Die) : (s.setDie d x).gddr = s.gddr := rfl
@[simp] theorem State.setDie_host (s : State) (d : Fin 4) (x : Die) : (s.setDie d x).host = s.host := rfl
@[simp] theorem State.setDie_gddrPoison (s : State) (d : Fin 4) (x : Die) : (s.setDie d x).gddrPoison = s.gddrPoison := rfl
@[simp] theorem State.setDie_unitKey (s : State) (d : Fin 4) (x : Die) : (s.setDie d x).unitKey = s.unitKey := rfl
@[simp] theorem State.setDie_repl (s : State) (d : Fin 4) (x : Die) : (s.setDie d x).repl = s.repl := rfl
@[simp] theorem State.setDie_relief (s : State) (d : Fin 4) (x : Die) : (s.setDie d x).relief = s.relief := rfl
@[simp] theorem State.setDie_owed (s : State) (d : Fin 4) (x : Die) : (s.setDie d x).owed = s.owed := rfl
@[simp] theorem State.setDie_deferred (s : State) (d : Fin 4) (x : Die) : (s.setDie d x).deferred = s.deferred := rfl
@[simp] theorem State.setDie_full (s : State) (d : Fin 4) (x : Die) : (s.setDie d x).full = s.full := rfl
@[simp] theorem State.setDie_edges (s : State) (d : Fin 4) (x : Die) : (s.setDie d x).edges = s.edges := rfl
@[simp] theorem State.setDie_module (s : State) (d : Fin 4) (x : Die) : (s.setDie d x).module = s.module := rfl
@[simp] theorem State.setDie_clock (s : State) (d : Fin 4) (x : Die) : (s.setDie d x).clock = s.clock := rfl

@[simp] theorem State.setPartn_cur (s : State) (p : Fin 8) (x : Partition) : (s.setPartn p x).cur = s.cur := rfl
@[simp] theorem State.setPartn_ir (s : State) (p : Fin 8) (x : Partition) : (s.setPartn p x).ir = s.ir := rfl
@[simp] theorem State.setPartn_inbox (s : State) (p : Fin 8) (x : Partition) : (s.setPartn p x).inbox = s.inbox := rfl
@[simp] theorem State.setPartn_schedule (s : State) (p : Fin 8) (x : Partition) : (s.setPartn p x).schedule = s.schedule := rfl
@[simp] theorem State.setPartn_fresh (s : State) (p : Fin 8) (x : Partition) : (s.setPartn p x).fresh = s.fresh := rfl
@[simp] theorem State.setPartn_seq (s : State) (p : Fin 8) (x : Partition) : (s.setPartn p x).seq = s.seq := rfl
@[simp] theorem State.setPartn_outbox (s : State) (p : Fin 8) (x : Partition) : (s.setPartn p x).outbox = s.outbox := rfl
@[simp] theorem State.setPartn_power (s : State) (p : Fin 8) (x : Partition) : (s.setPartn p x).power = s.power := rfl
@[simp] theorem State.setPartn_time (s : State) (p : Fin 8) (x : Partition) : (s.setPartn p x).time = s.time := rfl
@[simp] theorem State.setPartn_waves (s : State) (p : Fin 8) (x : Partition) : (s.setPartn p x).waves = s.waves := rfl
@[simp] theorem State.setPartn_gangs (s : State) (p : Fin 8) (x : Partition) : (s.setPartn p x).gangs = s.gangs := rfl
@[simp] theorem State.setPartn_cores (s : State) (p : Fin 8) (x : Partition) : (s.setPartn p x).cores = s.cores := rfl
@[simp] theorem State.setPartn_quads (s : State) (p : Fin 8) (x : Partition) : (s.setPartn p x).quads = s.quads := rfl
@[simp] theorem State.setPartn_dies (s : State) (p : Fin 8) (x : Partition) : (s.setPartn p x).dies = s.dies := rfl
@[simp] theorem State.setPartn_queues (s : State) (p : Fin 8) (x : Partition) : (s.setPartn p x).queues = s.queues := rfl
@[simp] theorem State.setPartn_stash (s : State) (p : Fin 8) (x : Partition) : (s.setPartn p x).stash = s.stash := rfl
@[simp] theorem State.setPartn_heirs (s : State) (p : Fin 8) (x : Partition) : (s.setPartn p x).heirs = s.heirs := rfl
@[simp] theorem State.setPartn_turns (s : State) (p : Fin 8) (x : Partition) : (s.setPartn p x).turns = s.turns := rfl
@[simp] theorem State.setPartn_asids (s : State) (p : Fin 8) (x : Partition) : (s.setPartn p x).asids = s.asids := rfl
@[simp] theorem State.setPartn_domains (s : State) (p : Fin 8) (x : Partition) : (s.setPartn p x).domains = s.domains := rfl
@[simp] theorem State.setPartn_requests (s : State) (p : Fin 8) (x : Partition) : (s.setPartn p x).requests = s.requests := rfl
@[simp] theorem State.setPartn_transfers (s : State) (p : Fin 8) (x : Partition) : (s.setPartn p x).transfers = s.transfers := rfl
@[simp] theorem State.setPartn_keys (s : State) (p : Fin 8) (x : Partition) : (s.setPartn p x).keys = s.keys := rfl
@[simp] theorem State.setPartn_keyCmds (s : State) (p : Fin 8) (x : Partition) : (s.setPartn p x).keyCmds = s.keyCmds := rfl
@[simp] theorem State.setPartn_gddr (s : State) (p : Fin 8) (x : Partition) : (s.setPartn p x).gddr = s.gddr := rfl
@[simp] theorem State.setPartn_host (s : State) (p : Fin 8) (x : Partition) : (s.setPartn p x).host = s.host := rfl
@[simp] theorem State.setPartn_gddrPoison (s : State) (p : Fin 8) (x : Partition) : (s.setPartn p x).gddrPoison = s.gddrPoison := rfl
@[simp] theorem State.setPartn_unitKey (s : State) (p : Fin 8) (x : Partition) : (s.setPartn p x).unitKey = s.unitKey := rfl
@[simp] theorem State.setPartn_repl (s : State) (p : Fin 8) (x : Partition) : (s.setPartn p x).repl = s.repl := rfl
@[simp] theorem State.setPartn_relief (s : State) (p : Fin 8) (x : Partition) : (s.setPartn p x).relief = s.relief := rfl
@[simp] theorem State.setPartn_owed (s : State) (p : Fin 8) (x : Partition) : (s.setPartn p x).owed = s.owed := rfl
@[simp] theorem State.setPartn_deferred (s : State) (p : Fin 8) (x : Partition) : (s.setPartn p x).deferred = s.deferred := rfl
@[simp] theorem State.setPartn_full (s : State) (p : Fin 8) (x : Partition) : (s.setPartn p x).full = s.full := rfl
@[simp] theorem State.setPartn_edges (s : State) (p : Fin 8) (x : Partition) : (s.setPartn p x).edges = s.edges := rfl
@[simp] theorem State.setPartn_module (s : State) (p : Fin 8) (x : Partition) : (s.setPartn p x).module = s.module := rfl
@[simp] theorem State.setPartn_clock (s : State) (p : Fin 8) (x : Partition) : (s.setPartn p x).clock = s.clock := rfl

@[simp] theorem State.setQueue_cur (s : State) (n : Nat) (x : Queue) : (s.setQueue n x).cur = s.cur := rfl
@[simp] theorem State.setQueue_ir (s : State) (n : Nat) (x : Queue) : (s.setQueue n x).ir = s.ir := rfl
@[simp] theorem State.setQueue_inbox (s : State) (n : Nat) (x : Queue) : (s.setQueue n x).inbox = s.inbox := rfl
@[simp] theorem State.setQueue_schedule (s : State) (n : Nat) (x : Queue) : (s.setQueue n x).schedule = s.schedule := rfl
@[simp] theorem State.setQueue_fresh (s : State) (n : Nat) (x : Queue) : (s.setQueue n x).fresh = s.fresh := rfl
@[simp] theorem State.setQueue_seq (s : State) (n : Nat) (x : Queue) : (s.setQueue n x).seq = s.seq := rfl
@[simp] theorem State.setQueue_outbox (s : State) (n : Nat) (x : Queue) : (s.setQueue n x).outbox = s.outbox := rfl
@[simp] theorem State.setQueue_power (s : State) (n : Nat) (x : Queue) : (s.setQueue n x).power = s.power := rfl
@[simp] theorem State.setQueue_time (s : State) (n : Nat) (x : Queue) : (s.setQueue n x).time = s.time := rfl
@[simp] theorem State.setQueue_waves (s : State) (n : Nat) (x : Queue) : (s.setQueue n x).waves = s.waves := rfl
@[simp] theorem State.setQueue_gangs (s : State) (n : Nat) (x : Queue) : (s.setQueue n x).gangs = s.gangs := rfl
@[simp] theorem State.setQueue_cores (s : State) (n : Nat) (x : Queue) : (s.setQueue n x).cores = s.cores := rfl
@[simp] theorem State.setQueue_quads (s : State) (n : Nat) (x : Queue) : (s.setQueue n x).quads = s.quads := rfl
@[simp] theorem State.setQueue_dies (s : State) (n : Nat) (x : Queue) : (s.setQueue n x).dies = s.dies := rfl
@[simp] theorem State.setQueue_parts (s : State) (n : Nat) (x : Queue) : (s.setQueue n x).parts = s.parts := rfl
@[simp] theorem State.setQueue_stash (s : State) (n : Nat) (x : Queue) : (s.setQueue n x).stash = s.stash := rfl
@[simp] theorem State.setQueue_heirs (s : State) (n : Nat) (x : Queue) : (s.setQueue n x).heirs = s.heirs := rfl
@[simp] theorem State.setQueue_turns (s : State) (n : Nat) (x : Queue) : (s.setQueue n x).turns = s.turns := rfl
@[simp] theorem State.setQueue_asids (s : State) (n : Nat) (x : Queue) : (s.setQueue n x).asids = s.asids := rfl
@[simp] theorem State.setQueue_domains (s : State) (n : Nat) (x : Queue) : (s.setQueue n x).domains = s.domains := rfl
@[simp] theorem State.setQueue_requests (s : State) (n : Nat) (x : Queue) : (s.setQueue n x).requests = s.requests := rfl
@[simp] theorem State.setQueue_transfers (s : State) (n : Nat) (x : Queue) : (s.setQueue n x).transfers = s.transfers := rfl
@[simp] theorem State.setQueue_keys (s : State) (n : Nat) (x : Queue) : (s.setQueue n x).keys = s.keys := rfl
@[simp] theorem State.setQueue_keyCmds (s : State) (n : Nat) (x : Queue) : (s.setQueue n x).keyCmds = s.keyCmds := rfl
@[simp] theorem State.setQueue_gddr (s : State) (n : Nat) (x : Queue) : (s.setQueue n x).gddr = s.gddr := rfl
@[simp] theorem State.setQueue_host (s : State) (n : Nat) (x : Queue) : (s.setQueue n x).host = s.host := rfl
@[simp] theorem State.setQueue_gddrPoison (s : State) (n : Nat) (x : Queue) : (s.setQueue n x).gddrPoison = s.gddrPoison := rfl
@[simp] theorem State.setQueue_unitKey (s : State) (n : Nat) (x : Queue) : (s.setQueue n x).unitKey = s.unitKey := rfl
@[simp] theorem State.setQueue_repl (s : State) (n : Nat) (x : Queue) : (s.setQueue n x).repl = s.repl := rfl
@[simp] theorem State.setQueue_relief (s : State) (n : Nat) (x : Queue) : (s.setQueue n x).relief = s.relief := rfl
@[simp] theorem State.setQueue_owed (s : State) (n : Nat) (x : Queue) : (s.setQueue n x).owed = s.owed := rfl
@[simp] theorem State.setQueue_deferred (s : State) (n : Nat) (x : Queue) : (s.setQueue n x).deferred = s.deferred := rfl
@[simp] theorem State.setQueue_full (s : State) (n : Nat) (x : Queue) : (s.setQueue n x).full = s.full := rfl
@[simp] theorem State.setQueue_edges (s : State) (n : Nat) (x : Queue) : (s.setQueue n x).edges = s.edges := rfl
@[simp] theorem State.setQueue_module (s : State) (n : Nat) (x : Queue) : (s.setQueue n x).module = s.module := rfl
@[simp] theorem State.setQueue_clock (s : State) (n : Nat) (x : Queue) : (s.setQueue n x).clock = s.clock := rfl

@[simp] theorem State.setDomain_cur (s : State) (n : Nat) (x : Domain) : (s.setDomain n x).cur = s.cur := rfl
@[simp] theorem State.setDomain_ir (s : State) (n : Nat) (x : Domain) : (s.setDomain n x).ir = s.ir := rfl
@[simp] theorem State.setDomain_inbox (s : State) (n : Nat) (x : Domain) : (s.setDomain n x).inbox = s.inbox := rfl
@[simp] theorem State.setDomain_schedule (s : State) (n : Nat) (x : Domain) : (s.setDomain n x).schedule = s.schedule := rfl
@[simp] theorem State.setDomain_fresh (s : State) (n : Nat) (x : Domain) : (s.setDomain n x).fresh = s.fresh := rfl
@[simp] theorem State.setDomain_seq (s : State) (n : Nat) (x : Domain) : (s.setDomain n x).seq = s.seq := rfl
@[simp] theorem State.setDomain_outbox (s : State) (n : Nat) (x : Domain) : (s.setDomain n x).outbox = s.outbox := rfl
@[simp] theorem State.setDomain_power (s : State) (n : Nat) (x : Domain) : (s.setDomain n x).power = s.power := rfl
@[simp] theorem State.setDomain_time (s : State) (n : Nat) (x : Domain) : (s.setDomain n x).time = s.time := rfl
@[simp] theorem State.setDomain_waves (s : State) (n : Nat) (x : Domain) : (s.setDomain n x).waves = s.waves := rfl
@[simp] theorem State.setDomain_gangs (s : State) (n : Nat) (x : Domain) : (s.setDomain n x).gangs = s.gangs := rfl
@[simp] theorem State.setDomain_cores (s : State) (n : Nat) (x : Domain) : (s.setDomain n x).cores = s.cores := rfl
@[simp] theorem State.setDomain_quads (s : State) (n : Nat) (x : Domain) : (s.setDomain n x).quads = s.quads := rfl
@[simp] theorem State.setDomain_dies (s : State) (n : Nat) (x : Domain) : (s.setDomain n x).dies = s.dies := rfl
@[simp] theorem State.setDomain_parts (s : State) (n : Nat) (x : Domain) : (s.setDomain n x).parts = s.parts := rfl
@[simp] theorem State.setDomain_queues (s : State) (n : Nat) (x : Domain) : (s.setDomain n x).queues = s.queues := rfl
@[simp] theorem State.setDomain_stash (s : State) (n : Nat) (x : Domain) : (s.setDomain n x).stash = s.stash := rfl
@[simp] theorem State.setDomain_heirs (s : State) (n : Nat) (x : Domain) : (s.setDomain n x).heirs = s.heirs := rfl
@[simp] theorem State.setDomain_turns (s : State) (n : Nat) (x : Domain) : (s.setDomain n x).turns = s.turns := rfl
@[simp] theorem State.setDomain_asids (s : State) (n : Nat) (x : Domain) : (s.setDomain n x).asids = s.asids := rfl
@[simp] theorem State.setDomain_requests (s : State) (n : Nat) (x : Domain) : (s.setDomain n x).requests = s.requests := rfl
@[simp] theorem State.setDomain_transfers (s : State) (n : Nat) (x : Domain) : (s.setDomain n x).transfers = s.transfers := rfl
@[simp] theorem State.setDomain_keys (s : State) (n : Nat) (x : Domain) : (s.setDomain n x).keys = s.keys := rfl
@[simp] theorem State.setDomain_keyCmds (s : State) (n : Nat) (x : Domain) : (s.setDomain n x).keyCmds = s.keyCmds := rfl
@[simp] theorem State.setDomain_gddr (s : State) (n : Nat) (x : Domain) : (s.setDomain n x).gddr = s.gddr := rfl
@[simp] theorem State.setDomain_host (s : State) (n : Nat) (x : Domain) : (s.setDomain n x).host = s.host := rfl
@[simp] theorem State.setDomain_gddrPoison (s : State) (n : Nat) (x : Domain) : (s.setDomain n x).gddrPoison = s.gddrPoison := rfl
@[simp] theorem State.setDomain_unitKey (s : State) (n : Nat) (x : Domain) : (s.setDomain n x).unitKey = s.unitKey := rfl
@[simp] theorem State.setDomain_repl (s : State) (n : Nat) (x : Domain) : (s.setDomain n x).repl = s.repl := rfl
@[simp] theorem State.setDomain_relief (s : State) (n : Nat) (x : Domain) : (s.setDomain n x).relief = s.relief := rfl
@[simp] theorem State.setDomain_owed (s : State) (n : Nat) (x : Domain) : (s.setDomain n x).owed = s.owed := rfl
@[simp] theorem State.setDomain_deferred (s : State) (n : Nat) (x : Domain) : (s.setDomain n x).deferred = s.deferred := rfl
@[simp] theorem State.setDomain_full (s : State) (n : Nat) (x : Domain) : (s.setDomain n x).full = s.full := rfl
@[simp] theorem State.setDomain_edges (s : State) (n : Nat) (x : Domain) : (s.setDomain n x).edges = s.edges := rfl
@[simp] theorem State.setDomain_module (s : State) (n : Nat) (x : Domain) : (s.setDomain n x).module = s.module := rfl
@[simp] theorem State.setDomain_clock (s : State) (n : Nat) (x : Domain) : (s.setDomain n x).clock = s.clock := rfl

@[simp] theorem State.send_cur (s : State) (m : Message) : (s.send m).cur = s.cur := rfl
@[simp] theorem State.send_ir (s : State) (m : Message) : (s.send m).ir = s.ir := rfl
@[simp] theorem State.send_inbox (s : State) (m : Message) : (s.send m).inbox = s.inbox := rfl
@[simp] theorem State.send_schedule (s : State) (m : Message) : (s.send m).schedule = s.schedule := rfl
@[simp] theorem State.send_fresh (s : State) (m : Message) : (s.send m).fresh = s.fresh := rfl
@[simp] theorem State.send_seq (s : State) (m : Message) : (s.send m).seq = s.seq := rfl
@[simp] theorem State.send_power (s : State) (m : Message) : (s.send m).power = s.power := rfl
@[simp] theorem State.send_time (s : State) (m : Message) : (s.send m).time = s.time := rfl
@[simp] theorem State.send_waves (s : State) (m : Message) : (s.send m).waves = s.waves := rfl
@[simp] theorem State.send_gangs (s : State) (m : Message) : (s.send m).gangs = s.gangs := rfl
@[simp] theorem State.send_cores (s : State) (m : Message) : (s.send m).cores = s.cores := rfl
@[simp] theorem State.send_quads (s : State) (m : Message) : (s.send m).quads = s.quads := rfl
@[simp] theorem State.send_dies (s : State) (m : Message) : (s.send m).dies = s.dies := rfl
@[simp] theorem State.send_parts (s : State) (m : Message) : (s.send m).parts = s.parts := rfl
@[simp] theorem State.send_queues (s : State) (m : Message) : (s.send m).queues = s.queues := rfl
@[simp] theorem State.send_stash (s : State) (m : Message) : (s.send m).stash = s.stash := rfl
@[simp] theorem State.send_heirs (s : State) (m : Message) : (s.send m).heirs = s.heirs := rfl
@[simp] theorem State.send_turns (s : State) (m : Message) : (s.send m).turns = s.turns := rfl
@[simp] theorem State.send_asids (s : State) (m : Message) : (s.send m).asids = s.asids := rfl
@[simp] theorem State.send_domains (s : State) (m : Message) : (s.send m).domains = s.domains := rfl
@[simp] theorem State.send_requests (s : State) (m : Message) : (s.send m).requests = s.requests := rfl
@[simp] theorem State.send_transfers (s : State) (m : Message) : (s.send m).transfers = s.transfers := rfl
@[simp] theorem State.send_keys (s : State) (m : Message) : (s.send m).keys = s.keys := rfl
@[simp] theorem State.send_keyCmds (s : State) (m : Message) : (s.send m).keyCmds = s.keyCmds := rfl
@[simp] theorem State.send_gddr (s : State) (m : Message) : (s.send m).gddr = s.gddr := rfl
@[simp] theorem State.send_host (s : State) (m : Message) : (s.send m).host = s.host := rfl
@[simp] theorem State.send_gddrPoison (s : State) (m : Message) : (s.send m).gddrPoison = s.gddrPoison := rfl
@[simp] theorem State.send_unitKey (s : State) (m : Message) : (s.send m).unitKey = s.unitKey := rfl
@[simp] theorem State.send_repl (s : State) (m : Message) : (s.send m).repl = s.repl := rfl
@[simp] theorem State.send_relief (s : State) (m : Message) : (s.send m).relief = s.relief := rfl
@[simp] theorem State.send_owed (s : State) (m : Message) : (s.send m).owed = s.owed := rfl
@[simp] theorem State.send_deferred (s : State) (m : Message) : (s.send m).deferred = s.deferred := rfl
@[simp] theorem State.send_full (s : State) (m : Message) : (s.send m).full = s.full := rfl
@[simp] theorem State.send_edges (s : State) (m : Message) : (s.send m).edges = s.edges := rfl
@[simp] theorem State.send_module (s : State) (m : Message) : (s.send m).module = s.module := rfl
@[simp] theorem State.send_clock (s : State) (m : Message) : (s.send m).clock = s.clock := rfl

@[simp] theorem State.next_cur (s : State) : (s.next).cur = s.cur := rfl
@[simp] theorem State.next_ir (s : State) : (s.next).ir = s.ir := rfl
@[simp] theorem State.next_inbox (s : State) : (s.next).inbox = s.inbox := rfl
@[simp] theorem State.next_schedule (s : State) : (s.next).schedule = s.schedule := rfl
@[simp] theorem State.next_fresh (s : State) : (s.next).fresh = s.fresh := rfl
@[simp] theorem State.next_outbox (s : State) : (s.next).outbox = s.outbox := rfl
@[simp] theorem State.next_power (s : State) : (s.next).power = s.power := rfl
@[simp] theorem State.next_time (s : State) : (s.next).time = s.time := rfl
@[simp] theorem State.next_waves (s : State) : (s.next).waves = s.waves := rfl
@[simp] theorem State.next_gangs (s : State) : (s.next).gangs = s.gangs := rfl
@[simp] theorem State.next_cores (s : State) : (s.next).cores = s.cores := rfl
@[simp] theorem State.next_quads (s : State) : (s.next).quads = s.quads := rfl
@[simp] theorem State.next_dies (s : State) : (s.next).dies = s.dies := rfl
@[simp] theorem State.next_parts (s : State) : (s.next).parts = s.parts := rfl
@[simp] theorem State.next_queues (s : State) : (s.next).queues = s.queues := rfl
@[simp] theorem State.next_stash (s : State) : (s.next).stash = s.stash := rfl
@[simp] theorem State.next_heirs (s : State) : (s.next).heirs = s.heirs := rfl
@[simp] theorem State.next_turns (s : State) : (s.next).turns = s.turns := rfl
@[simp] theorem State.next_asids (s : State) : (s.next).asids = s.asids := rfl
@[simp] theorem State.next_domains (s : State) : (s.next).domains = s.domains := rfl
@[simp] theorem State.next_requests (s : State) : (s.next).requests = s.requests := rfl
@[simp] theorem State.next_transfers (s : State) : (s.next).transfers = s.transfers := rfl
@[simp] theorem State.next_keys (s : State) : (s.next).keys = s.keys := rfl
@[simp] theorem State.next_keyCmds (s : State) : (s.next).keyCmds = s.keyCmds := rfl
@[simp] theorem State.next_gddr (s : State) : (s.next).gddr = s.gddr := rfl
@[simp] theorem State.next_host (s : State) : (s.next).host = s.host := rfl
@[simp] theorem State.next_gddrPoison (s : State) : (s.next).gddrPoison = s.gddrPoison := rfl
@[simp] theorem State.next_unitKey (s : State) : (s.next).unitKey = s.unitKey := rfl
@[simp] theorem State.next_repl (s : State) : (s.next).repl = s.repl := rfl
@[simp] theorem State.next_relief (s : State) : (s.next).relief = s.relief := rfl
@[simp] theorem State.next_owed (s : State) : (s.next).owed = s.owed := rfl
@[simp] theorem State.next_deferred (s : State) : (s.next).deferred = s.deferred := rfl
@[simp] theorem State.next_full (s : State) : (s.next).full = s.full := rfl
@[simp] theorem State.next_edges (s : State) : (s.next).edges = s.edges := rfl
@[simp] theorem State.next_module (s : State) : (s.next).module = s.module := rfl
@[simp] theorem State.next_clock (s : State) : (s.next).clock = s.clock := rfl

/-! ## One lemma for each field and each update of Wave -/

@[simp] theorem Wave.setS_live (w : Wave) (r : SReg) (x : DWord) : (w.setS r x).live = w.live := by unfold Wave.setS; split <;> rfl
@[simp] theorem Wave.setS_k (w : Wave) (r : SReg) (x : DWord) : (w.setS r x).k = w.k := by unfold Wave.setS; split <;> rfl
@[simp] theorem Wave.setS_v (w : Wave) (r : SReg) (x : DWord) : (w.setS r x).v = w.v := by unfold Wave.setS; split <;> rfl
@[simp] theorem Wave.setS_run (w : Wave) (r : SReg) (x : DWord) : (w.setS r x).run = w.run := by unfold Wave.setS; split <;> rfl
@[simp] theorem Wave.setS_rest (w : Wave) (r : SReg) (x : DWord) : (w.setS r x).rest = w.rest := by unfold Wave.setS; split <;> rfl
@[simp] theorem Wave.setS_mode (w : Wave) (r : SReg) (x : DWord) : (w.setS r x).mode = w.mode := by unfold Wave.setS; split <;> rfl
@[simp] theorem Wave.setS_sr (w : Wave) (r : SReg) (x : DWord) : (w.setS r x).sr = w.sr := by unfold Wave.setS; split <;> rfl
@[simp] theorem Wave.setS_id (w : Wave) (r : SReg) (x : DWord) : (w.setS r x).id = w.id := by unfold Wave.setS; split <;> rfl
@[simp] theorem Wave.setS_seg (w : Wave) (r : SReg) (x : DWord) : (w.setS r x).seg = w.seg := by unfold Wave.setS; split <;> rfl
@[simp] theorem Wave.setS_blocks (w : Wave) (r : SReg) (x : DWord) : (w.setS r x).blocks = w.blocks := by unfold Wave.setS; split <;> rfl
@[simp] theorem Wave.setS_dirty (w : Wave) (r : SReg) (x : DWord) : (w.setS r x).dirty = w.dirty := by unfold Wave.setS; split <;> rfl
@[simp] theorem Wave.setS_hw (w : Wave) (r : SReg) (x : DWord) : (w.setS r x).hw = w.hw := by unfold Wave.setS; split <;> rfl
@[simp] theorem Wave.setS_locks (w : Wave) (r : SReg) (x : DWord) : (w.setS r x).locks = w.locks := by unfold Wave.setS; split <;> rfl
@[simp] theorem Wave.setS_tiles (w : Wave) (r : SReg) (x : DWord) : (w.setS r x).tiles = w.tiles := by unfold Wave.setS; split <;> rfl
@[simp] theorem Wave.setS_slots (w : Wave) (r : SReg) (x : DWord) : (w.setS r x).slots = w.slots := by unfold Wave.setS; split <;> rfl
@[simp] theorem Wave.setS_walks (w : Wave) (r : SReg) (x : DWord) : (w.setS r x).walks = w.walks := by unfold Wave.setS; split <;> rfl
@[simp] theorem Wave.setS_kids (w : Wave) (r : SReg) (x : DWord) : (w.setS r x).kids = w.kids := by unfold Wave.setS; split <;> rfl
@[simp] theorem Wave.setS_exit (w : Wave) (r : SReg) (x : DWord) : (w.setS r x).exit = w.exit := by unfold Wave.setS; split <;> rfl
@[simp] theorem Wave.setS_wait (w : Wave) (r : SReg) (x : DWord) : (w.setS r x).wait = w.wait := by unfold Wave.setS; split <;> rfl
@[simp] theorem Wave.setS_held (w : Wave) (r : SReg) (x : DWord) : (w.setS r x).held = w.held := by unfold Wave.setS; split <;> rfl
@[simp] theorem Wave.setS_ready (w : Wave) (r : SReg) (x : DWord) : (w.setS r x).ready = w.ready := by unfold Wave.setS; split <;> rfl
@[simp] theorem Wave.setS_begun (w : Wave) (r : SReg) (x : DWord) : (w.setS r x).begun = w.begun := by unfold Wave.setS; split <;> rfl
@[simp] theorem Wave.setS_shadow (w : Wave) (r : SReg) (x : DWord) : (w.setS r x).shadow = w.shadow := by unfold Wave.setS; split <;> rfl
@[simp] theorem Wave.setS_unit (w : Wave) (r : SReg) (x : DWord) : (w.setS r x).unit = w.unit := by unfold Wave.setS; split <;> rfl
@[simp] theorem Wave.setS_late (w : Wave) (r : SReg) (x : DWord) : (w.setS r x).late = w.late := by unfold Wave.setS; split <;> rfl
@[simp] theorem Wave.setS_loads (w : Wave) (r : SReg) (x : DWord) : (w.setS r x).loads = w.loads := by unfold Wave.setS; split <;> rfl
@[simp] theorem Wave.setS_lag (w : Wave) (r : SReg) (x : DWord) : (w.setS r x).lag = w.lag := by unfold Wave.setS; split <;> rfl

@[simp] theorem Wave.setLanes_live (w : Wave) (r : VReg) (m : BitVec 64) (g : Lane → Word) : (w.setLanes r m g).live = w.live := by
  unfold Wave.setLanes; split <;> rfl
@[simp] theorem Wave.setLanes_s (w : Wave) (r : VReg) (m : BitVec 64) (g : Lane → Word) : (w.setLanes r m g).s = w.s := by
  unfold Wave.setLanes; split <;> rfl
@[simp] theorem Wave.setLanes_k (w : Wave) (r : VReg) (m : BitVec 64) (g : Lane → Word) : (w.setLanes r m g).k = w.k := by
  unfold Wave.setLanes; split <;> rfl
@[simp] theorem Wave.setLanes_run (w : Wave) (r : VReg) (m : BitVec 64) (g : Lane → Word) : (w.setLanes r m g).run = w.run := by
  unfold Wave.setLanes; split <;> rfl
@[simp] theorem Wave.setLanes_rest (w : Wave) (r : VReg) (m : BitVec 64) (g : Lane → Word) : (w.setLanes r m g).rest = w.rest := by
  unfold Wave.setLanes; split <;> rfl
@[simp] theorem Wave.setLanes_mode (w : Wave) (r : VReg) (m : BitVec 64) (g : Lane → Word) : (w.setLanes r m g).mode = w.mode := by
  unfold Wave.setLanes; split <;> rfl
@[simp] theorem Wave.setLanes_sr (w : Wave) (r : VReg) (m : BitVec 64) (g : Lane → Word) : (w.setLanes r m g).sr = w.sr := by
  unfold Wave.setLanes; split <;> rfl
@[simp] theorem Wave.setLanes_id (w : Wave) (r : VReg) (m : BitVec 64) (g : Lane → Word) : (w.setLanes r m g).id = w.id := by
  unfold Wave.setLanes; split <;> rfl
@[simp] theorem Wave.setLanes_seg (w : Wave) (r : VReg) (m : BitVec 64) (g : Lane → Word) : (w.setLanes r m g).seg = w.seg := by
  unfold Wave.setLanes; split <;> rfl
@[simp] theorem Wave.setLanes_blocks (w : Wave) (r : VReg) (m : BitVec 64) (g : Lane → Word) : (w.setLanes r m g).blocks = w.blocks := by
  unfold Wave.setLanes; split <;> rfl
@[simp] theorem Wave.setLanes_locks (w : Wave) (r : VReg) (m : BitVec 64) (g : Lane → Word) : (w.setLanes r m g).locks = w.locks := by
  unfold Wave.setLanes; split <;> rfl
@[simp] theorem Wave.setLanes_tiles (w : Wave) (r : VReg) (m : BitVec 64) (g : Lane → Word) : (w.setLanes r m g).tiles = w.tiles := by
  unfold Wave.setLanes; split <;> rfl
@[simp] theorem Wave.setLanes_slots (w : Wave) (r : VReg) (m : BitVec 64) (g : Lane → Word) : (w.setLanes r m g).slots = w.slots := by
  unfold Wave.setLanes; split <;> rfl
@[simp] theorem Wave.setLanes_walks (w : Wave) (r : VReg) (m : BitVec 64) (g : Lane → Word) : (w.setLanes r m g).walks = w.walks := by
  unfold Wave.setLanes; split <;> rfl
@[simp] theorem Wave.setLanes_kids (w : Wave) (r : VReg) (m : BitVec 64) (g : Lane → Word) : (w.setLanes r m g).kids = w.kids := by
  unfold Wave.setLanes; split <;> rfl
@[simp] theorem Wave.setLanes_exit (w : Wave) (r : VReg) (m : BitVec 64) (g : Lane → Word) : (w.setLanes r m g).exit = w.exit := by
  unfold Wave.setLanes; split <;> rfl
@[simp] theorem Wave.setLanes_wait (w : Wave) (r : VReg) (m : BitVec 64) (g : Lane → Word) : (w.setLanes r m g).wait = w.wait := by
  unfold Wave.setLanes; split <;> rfl
@[simp] theorem Wave.setLanes_held (w : Wave) (r : VReg) (m : BitVec 64) (g : Lane → Word) : (w.setLanes r m g).held = w.held := by
  unfold Wave.setLanes; split <;> rfl
@[simp] theorem Wave.setLanes_ready (w : Wave) (r : VReg) (m : BitVec 64) (g : Lane → Word) : (w.setLanes r m g).ready = w.ready := by
  unfold Wave.setLanes; split <;> rfl
@[simp] theorem Wave.setLanes_begun (w : Wave) (r : VReg) (m : BitVec 64) (g : Lane → Word) : (w.setLanes r m g).begun = w.begun := by
  unfold Wave.setLanes; split <;> rfl
@[simp] theorem Wave.setLanes_shadow (w : Wave) (r : VReg) (m : BitVec 64) (g : Lane → Word) : (w.setLanes r m g).shadow = w.shadow := by
  unfold Wave.setLanes; split <;> rfl
@[simp] theorem Wave.setLanes_unit (w : Wave) (r : VReg) (m : BitVec 64) (g : Lane → Word) : (w.setLanes r m g).unit = w.unit := by
  unfold Wave.setLanes; split <;> rfl
@[simp] theorem Wave.setLanes_late (w : Wave) (r : VReg) (m : BitVec 64) (g : Lane → Word) : (w.setLanes r m g).late = w.late := by
  unfold Wave.setLanes; split <;> rfl
@[simp] theorem Wave.setLanes_loads (w : Wave) (r : VReg) (m : BitVec 64) (g : Lane → Word) : (w.setLanes r m g).loads = w.loads := by
  unfold Wave.setLanes; split <;> rfl
@[simp] theorem Wave.setLanes_lag (w : Wave) (r : VReg) (m : BitVec 64) (g : Lane → Word) : (w.setLanes r m g).lag = w.lag := by
  unfold Wave.setLanes; split <;> rfl

@[simp] theorem Wave.setV_live (w : Wave) (r : VReg) (l : Lane) (x : Word) : (w.setV r l x).live = w.live := rfl
@[simp] theorem Wave.setV_s (w : Wave) (r : VReg) (l : Lane) (x : Word) : (w.setV r l x).s = w.s := rfl
@[simp] theorem Wave.setV_k (w : Wave) (r : VReg) (l : Lane) (x : Word) : (w.setV r l x).k = w.k := rfl
@[simp] theorem Wave.setV_run (w : Wave) (r : VReg) (l : Lane) (x : Word) : (w.setV r l x).run = w.run := rfl
@[simp] theorem Wave.setV_rest (w : Wave) (r : VReg) (l : Lane) (x : Word) : (w.setV r l x).rest = w.rest := rfl
@[simp] theorem Wave.setV_mode (w : Wave) (r : VReg) (l : Lane) (x : Word) : (w.setV r l x).mode = w.mode := rfl
@[simp] theorem Wave.setV_sr (w : Wave) (r : VReg) (l : Lane) (x : Word) : (w.setV r l x).sr = w.sr := rfl
@[simp] theorem Wave.setV_id (w : Wave) (r : VReg) (l : Lane) (x : Word) : (w.setV r l x).id = w.id := rfl
@[simp] theorem Wave.setV_seg (w : Wave) (r : VReg) (l : Lane) (x : Word) : (w.setV r l x).seg = w.seg := rfl
@[simp] theorem Wave.setV_blocks (w : Wave) (r : VReg) (l : Lane) (x : Word) : (w.setV r l x).blocks = w.blocks := rfl
@[simp] theorem Wave.setV_locks (w : Wave) (r : VReg) (l : Lane) (x : Word) : (w.setV r l x).locks = w.locks := rfl
@[simp] theorem Wave.setV_tiles (w : Wave) (r : VReg) (l : Lane) (x : Word) : (w.setV r l x).tiles = w.tiles := rfl
@[simp] theorem Wave.setV_slots (w : Wave) (r : VReg) (l : Lane) (x : Word) : (w.setV r l x).slots = w.slots := rfl
@[simp] theorem Wave.setV_walks (w : Wave) (r : VReg) (l : Lane) (x : Word) : (w.setV r l x).walks = w.walks := rfl
@[simp] theorem Wave.setV_kids (w : Wave) (r : VReg) (l : Lane) (x : Word) : (w.setV r l x).kids = w.kids := rfl
@[simp] theorem Wave.setV_exit (w : Wave) (r : VReg) (l : Lane) (x : Word) : (w.setV r l x).exit = w.exit := rfl
@[simp] theorem Wave.setV_wait (w : Wave) (r : VReg) (l : Lane) (x : Word) : (w.setV r l x).wait = w.wait := rfl
@[simp] theorem Wave.setV_held (w : Wave) (r : VReg) (l : Lane) (x : Word) : (w.setV r l x).held = w.held := rfl
@[simp] theorem Wave.setV_ready (w : Wave) (r : VReg) (l : Lane) (x : Word) : (w.setV r l x).ready = w.ready := rfl
@[simp] theorem Wave.setV_begun (w : Wave) (r : VReg) (l : Lane) (x : Word) : (w.setV r l x).begun = w.begun := rfl
@[simp] theorem Wave.setV_shadow (w : Wave) (r : VReg) (l : Lane) (x : Word) : (w.setV r l x).shadow = w.shadow := rfl
@[simp] theorem Wave.setV_unit (w : Wave) (r : VReg) (l : Lane) (x : Word) : (w.setV r l x).unit = w.unit := rfl
@[simp] theorem Wave.setV_late (w : Wave) (r : VReg) (l : Lane) (x : Word) : (w.setV r l x).late = w.late := rfl
@[simp] theorem Wave.setV_loads (w : Wave) (r : VReg) (l : Lane) (x : Word) : (w.setV r l x).loads = w.loads := rfl
@[simp] theorem Wave.setV_lag (w : Wave) (r : VReg) (l : Lane) (x : Word) : (w.setV r l x).lag = w.lag := rfl

@[simp] theorem Wave.setK_live (w : Wave) (r : KReg) (x : BitVec 64) : (w.setK r x).live = w.live := rfl
@[simp] theorem Wave.setK_s (w : Wave) (r : KReg) (x : BitVec 64) : (w.setK r x).s = w.s := rfl
@[simp] theorem Wave.setK_v (w : Wave) (r : KReg) (x : BitVec 64) : (w.setK r x).v = w.v := rfl
@[simp] theorem Wave.setK_run (w : Wave) (r : KReg) (x : BitVec 64) : (w.setK r x).run = w.run := rfl
@[simp] theorem Wave.setK_rest (w : Wave) (r : KReg) (x : BitVec 64) : (w.setK r x).rest = w.rest := rfl
@[simp] theorem Wave.setK_mode (w : Wave) (r : KReg) (x : BitVec 64) : (w.setK r x).mode = w.mode := rfl
@[simp] theorem Wave.setK_sr (w : Wave) (r : KReg) (x : BitVec 64) : (w.setK r x).sr = w.sr := rfl
@[simp] theorem Wave.setK_id (w : Wave) (r : KReg) (x : BitVec 64) : (w.setK r x).id = w.id := rfl
@[simp] theorem Wave.setK_seg (w : Wave) (r : KReg) (x : BitVec 64) : (w.setK r x).seg = w.seg := rfl
@[simp] theorem Wave.setK_blocks (w : Wave) (r : KReg) (x : BitVec 64) : (w.setK r x).blocks = w.blocks := rfl
@[simp] theorem Wave.setK_dirty (w : Wave) (r : KReg) (x : BitVec 64) : (w.setK r x).dirty = w.dirty := rfl
@[simp] theorem Wave.setK_hw (w : Wave) (r : KReg) (x : BitVec 64) : (w.setK r x).hw = w.hw := rfl
@[simp] theorem Wave.setK_locks (w : Wave) (r : KReg) (x : BitVec 64) : (w.setK r x).locks = w.locks := rfl
@[simp] theorem Wave.setK_tiles (w : Wave) (r : KReg) (x : BitVec 64) : (w.setK r x).tiles = w.tiles := rfl
@[simp] theorem Wave.setK_slots (w : Wave) (r : KReg) (x : BitVec 64) : (w.setK r x).slots = w.slots := rfl
@[simp] theorem Wave.setK_walks (w : Wave) (r : KReg) (x : BitVec 64) : (w.setK r x).walks = w.walks := rfl
@[simp] theorem Wave.setK_kids (w : Wave) (r : KReg) (x : BitVec 64) : (w.setK r x).kids = w.kids := rfl
@[simp] theorem Wave.setK_exit (w : Wave) (r : KReg) (x : BitVec 64) : (w.setK r x).exit = w.exit := rfl
@[simp] theorem Wave.setK_wait (w : Wave) (r : KReg) (x : BitVec 64) : (w.setK r x).wait = w.wait := rfl
@[simp] theorem Wave.setK_held (w : Wave) (r : KReg) (x : BitVec 64) : (w.setK r x).held = w.held := rfl
@[simp] theorem Wave.setK_ready (w : Wave) (r : KReg) (x : BitVec 64) : (w.setK r x).ready = w.ready := rfl
@[simp] theorem Wave.setK_begun (w : Wave) (r : KReg) (x : BitVec 64) : (w.setK r x).begun = w.begun := rfl
@[simp] theorem Wave.setK_shadow (w : Wave) (r : KReg) (x : BitVec 64) : (w.setK r x).shadow = w.shadow := rfl
@[simp] theorem Wave.setK_unit (w : Wave) (r : KReg) (x : BitVec 64) : (w.setK r x).unit = w.unit := rfl
@[simp] theorem Wave.setK_late (w : Wave) (r : KReg) (x : BitVec 64) : (w.setK r x).late = w.late := rfl
@[simp] theorem Wave.setK_loads (w : Wave) (r : KReg) (x : BitVec 64) : (w.setK r x).loads = w.loads := rfl
@[simp] theorem Wave.setK_lag (w : Wave) (r : KReg) (x : BitVec 64) : (w.setK r x).lag = w.lag := rfl

@[simp] theorem Wave.past_live (w : Wave) (n : Nat) : (w.past n).live = w.live := rfl
@[simp] theorem Wave.past_s (w : Wave) (n : Nat) : (w.past n).s = w.s := rfl
@[simp] theorem Wave.past_k (w : Wave) (n : Nat) : (w.past n).k = w.k := rfl
@[simp] theorem Wave.past_v (w : Wave) (n : Nat) : (w.past n).v = w.v := rfl
@[simp] theorem Wave.past_rest (w : Wave) (n : Nat) : (w.past n).rest = w.rest := rfl
@[simp] theorem Wave.past_mode (w : Wave) (n : Nat) : (w.past n).mode = w.mode := rfl
@[simp] theorem Wave.past_sr (w : Wave) (n : Nat) : (w.past n).sr = w.sr := rfl
@[simp] theorem Wave.past_id (w : Wave) (n : Nat) : (w.past n).id = w.id := rfl
@[simp] theorem Wave.past_seg (w : Wave) (n : Nat) : (w.past n).seg = w.seg := rfl
@[simp] theorem Wave.past_blocks (w : Wave) (n : Nat) : (w.past n).blocks = w.blocks := rfl
@[simp] theorem Wave.past_dirty (w : Wave) (n : Nat) : (w.past n).dirty = w.dirty := rfl
@[simp] theorem Wave.past_hw (w : Wave) (n : Nat) : (w.past n).hw = w.hw := rfl
@[simp] theorem Wave.past_locks (w : Wave) (n : Nat) : (w.past n).locks = w.locks := rfl
@[simp] theorem Wave.past_tiles (w : Wave) (n : Nat) : (w.past n).tiles = w.tiles := rfl
@[simp] theorem Wave.past_slots (w : Wave) (n : Nat) : (w.past n).slots = w.slots := rfl
@[simp] theorem Wave.past_walks (w : Wave) (n : Nat) : (w.past n).walks = w.walks := rfl
@[simp] theorem Wave.past_kids (w : Wave) (n : Nat) : (w.past n).kids = w.kids := rfl
@[simp] theorem Wave.past_exit (w : Wave) (n : Nat) : (w.past n).exit = w.exit := rfl
@[simp] theorem Wave.past_wait (w : Wave) (n : Nat) : (w.past n).wait = w.wait := rfl
@[simp] theorem Wave.past_held (w : Wave) (n : Nat) : (w.past n).held = w.held := rfl
@[simp] theorem Wave.past_ready (w : Wave) (n : Nat) : (w.past n).ready = w.ready := rfl
@[simp] theorem Wave.past_begun (w : Wave) (n : Nat) : (w.past n).begun = w.begun := rfl
@[simp] theorem Wave.past_shadow (w : Wave) (n : Nat) : (w.past n).shadow = w.shadow := rfl
@[simp] theorem Wave.past_unit (w : Wave) (n : Nat) : (w.past n).unit = w.unit := rfl
@[simp] theorem Wave.past_late (w : Wave) (n : Nat) : (w.past n).late = w.late := rfl
@[simp] theorem Wave.past_loads (w : Wave) (n : Nat) : (w.past n).loads = w.loads := rfl
@[simp] theorem Wave.past_lag (w : Wave) (n : Nat) : (w.past n).lag = w.lag := rfl

@[simp] theorem Wave.to_live (w : Wave) (t : DWord) : (w.to t).live = w.live := rfl
@[simp] theorem Wave.to_s (w : Wave) (t : DWord) : (w.to t).s = w.s := rfl
@[simp] theorem Wave.to_k (w : Wave) (t : DWord) : (w.to t).k = w.k := rfl
@[simp] theorem Wave.to_v (w : Wave) (t : DWord) : (w.to t).v = w.v := rfl
@[simp] theorem Wave.to_rest (w : Wave) (t : DWord) : (w.to t).rest = w.rest := rfl
@[simp] theorem Wave.to_mode (w : Wave) (t : DWord) : (w.to t).mode = w.mode := rfl
@[simp] theorem Wave.to_sr (w : Wave) (t : DWord) : (w.to t).sr = w.sr := rfl
@[simp] theorem Wave.to_id (w : Wave) (t : DWord) : (w.to t).id = w.id := rfl
@[simp] theorem Wave.to_seg (w : Wave) (t : DWord) : (w.to t).seg = w.seg := rfl
@[simp] theorem Wave.to_blocks (w : Wave) (t : DWord) : (w.to t).blocks = w.blocks := rfl
@[simp] theorem Wave.to_dirty (w : Wave) (t : DWord) : (w.to t).dirty = w.dirty := rfl
@[simp] theorem Wave.to_hw (w : Wave) (t : DWord) : (w.to t).hw = w.hw := rfl
@[simp] theorem Wave.to_locks (w : Wave) (t : DWord) : (w.to t).locks = w.locks := rfl
@[simp] theorem Wave.to_tiles (w : Wave) (t : DWord) : (w.to t).tiles = w.tiles := rfl
@[simp] theorem Wave.to_slots (w : Wave) (t : DWord) : (w.to t).slots = w.slots := rfl
@[simp] theorem Wave.to_walks (w : Wave) (t : DWord) : (w.to t).walks = w.walks := rfl
@[simp] theorem Wave.to_kids (w : Wave) (t : DWord) : (w.to t).kids = w.kids := rfl
@[simp] theorem Wave.to_exit (w : Wave) (t : DWord) : (w.to t).exit = w.exit := rfl
@[simp] theorem Wave.to_wait (w : Wave) (t : DWord) : (w.to t).wait = w.wait := rfl
@[simp] theorem Wave.to_held (w : Wave) (t : DWord) : (w.to t).held = w.held := rfl
@[simp] theorem Wave.to_ready (w : Wave) (t : DWord) : (w.to t).ready = w.ready := rfl
@[simp] theorem Wave.to_begun (w : Wave) (t : DWord) : (w.to t).begun = w.begun := rfl
@[simp] theorem Wave.to_shadow (w : Wave) (t : DWord) : (w.to t).shadow = w.shadow := rfl
@[simp] theorem Wave.to_unit (w : Wave) (t : DWord) : (w.to t).unit = w.unit := rfl
@[simp] theorem Wave.to_late (w : Wave) (t : DWord) : (w.to t).late = w.late := rfl
@[simp] theorem Wave.to_loads (w : Wave) (t : DWord) : (w.to t).loads = w.loads := rfl
@[simp] theorem Wave.to_lag (w : Wave) (t : DWord) : (w.to t).lag = w.lag := rfl

@[simp] theorem Wave.addFlags_live (w : Wave) (x : FpFlags) : (w.addFlags x).live = w.live := rfl
@[simp] theorem Wave.addFlags_s (w : Wave) (x : FpFlags) : (w.addFlags x).s = w.s := rfl
@[simp] theorem Wave.addFlags_k (w : Wave) (x : FpFlags) : (w.addFlags x).k = w.k := rfl
@[simp] theorem Wave.addFlags_v (w : Wave) (x : FpFlags) : (w.addFlags x).v = w.v := rfl
@[simp] theorem Wave.addFlags_run (w : Wave) (x : FpFlags) : (w.addFlags x).run = w.run := rfl
@[simp] theorem Wave.addFlags_rest (w : Wave) (x : FpFlags) : (w.addFlags x).rest = w.rest := rfl
@[simp] theorem Wave.addFlags_mode (w : Wave) (x : FpFlags) : (w.addFlags x).mode = w.mode := rfl
@[simp] theorem Wave.addFlags_id (w : Wave) (x : FpFlags) : (w.addFlags x).id = w.id := rfl
@[simp] theorem Wave.addFlags_seg (w : Wave) (x : FpFlags) : (w.addFlags x).seg = w.seg := rfl
@[simp] theorem Wave.addFlags_blocks (w : Wave) (x : FpFlags) : (w.addFlags x).blocks = w.blocks := rfl
@[simp] theorem Wave.addFlags_dirty (w : Wave) (x : FpFlags) : (w.addFlags x).dirty = w.dirty := rfl
@[simp] theorem Wave.addFlags_hw (w : Wave) (x : FpFlags) : (w.addFlags x).hw = w.hw := rfl
@[simp] theorem Wave.addFlags_locks (w : Wave) (x : FpFlags) : (w.addFlags x).locks = w.locks := rfl
@[simp] theorem Wave.addFlags_tiles (w : Wave) (x : FpFlags) : (w.addFlags x).tiles = w.tiles := rfl
@[simp] theorem Wave.addFlags_slots (w : Wave) (x : FpFlags) : (w.addFlags x).slots = w.slots := rfl
@[simp] theorem Wave.addFlags_walks (w : Wave) (x : FpFlags) : (w.addFlags x).walks = w.walks := rfl
@[simp] theorem Wave.addFlags_kids (w : Wave) (x : FpFlags) : (w.addFlags x).kids = w.kids := rfl
@[simp] theorem Wave.addFlags_exit (w : Wave) (x : FpFlags) : (w.addFlags x).exit = w.exit := rfl
@[simp] theorem Wave.addFlags_wait (w : Wave) (x : FpFlags) : (w.addFlags x).wait = w.wait := rfl
@[simp] theorem Wave.addFlags_held (w : Wave) (x : FpFlags) : (w.addFlags x).held = w.held := rfl
@[simp] theorem Wave.addFlags_ready (w : Wave) (x : FpFlags) : (w.addFlags x).ready = w.ready := rfl
@[simp] theorem Wave.addFlags_begun (w : Wave) (x : FpFlags) : (w.addFlags x).begun = w.begun := rfl
@[simp] theorem Wave.addFlags_shadow (w : Wave) (x : FpFlags) : (w.addFlags x).shadow = w.shadow := rfl
@[simp] theorem Wave.addFlags_unit (w : Wave) (x : FpFlags) : (w.addFlags x).unit = w.unit := rfl
@[simp] theorem Wave.addFlags_late (w : Wave) (x : FpFlags) : (w.addFlags x).late = w.late := rfl
@[simp] theorem Wave.addFlags_loads (w : Wave) (x : FpFlags) : (w.addFlags x).loads = w.loads := rfl
@[simp] theorem Wave.addFlags_lag (w : Wave) (x : FpFlags) : (w.addFlags x).lag = w.lag := rfl

@[simp] theorem Wave.setStart_live (w : Wave) (x : BitVec 16) : (w.setStart x).live = w.live := rfl
@[simp] theorem Wave.setStart_s (w : Wave) (x : BitVec 16) : (w.setStart x).s = w.s := rfl
@[simp] theorem Wave.setStart_k (w : Wave) (x : BitVec 16) : (w.setStart x).k = w.k := rfl
@[simp] theorem Wave.setStart_v (w : Wave) (x : BitVec 16) : (w.setStart x).v = w.v := rfl
@[simp] theorem Wave.setStart_run (w : Wave) (x : BitVec 16) : (w.setStart x).run = w.run := rfl
@[simp] theorem Wave.setStart_rest (w : Wave) (x : BitVec 16) : (w.setStart x).rest = w.rest := rfl
@[simp] theorem Wave.setStart_mode (w : Wave) (x : BitVec 16) : (w.setStart x).mode = w.mode := rfl
@[simp] theorem Wave.setStart_id (w : Wave) (x : BitVec 16) : (w.setStart x).id = w.id := rfl
@[simp] theorem Wave.setStart_seg (w : Wave) (x : BitVec 16) : (w.setStart x).seg = w.seg := rfl
@[simp] theorem Wave.setStart_blocks (w : Wave) (x : BitVec 16) : (w.setStart x).blocks = w.blocks := rfl
@[simp] theorem Wave.setStart_dirty (w : Wave) (x : BitVec 16) : (w.setStart x).dirty = w.dirty := rfl
@[simp] theorem Wave.setStart_hw (w : Wave) (x : BitVec 16) : (w.setStart x).hw = w.hw := rfl
@[simp] theorem Wave.setStart_locks (w : Wave) (x : BitVec 16) : (w.setStart x).locks = w.locks := rfl
@[simp] theorem Wave.setStart_tiles (w : Wave) (x : BitVec 16) : (w.setStart x).tiles = w.tiles := rfl
@[simp] theorem Wave.setStart_slots (w : Wave) (x : BitVec 16) : (w.setStart x).slots = w.slots := rfl
@[simp] theorem Wave.setStart_walks (w : Wave) (x : BitVec 16) : (w.setStart x).walks = w.walks := rfl
@[simp] theorem Wave.setStart_kids (w : Wave) (x : BitVec 16) : (w.setStart x).kids = w.kids := rfl
@[simp] theorem Wave.setStart_exit (w : Wave) (x : BitVec 16) : (w.setStart x).exit = w.exit := rfl
@[simp] theorem Wave.setStart_wait (w : Wave) (x : BitVec 16) : (w.setStart x).wait = w.wait := rfl
@[simp] theorem Wave.setStart_held (w : Wave) (x : BitVec 16) : (w.setStart x).held = w.held := rfl
@[simp] theorem Wave.setStart_ready (w : Wave) (x : BitVec 16) : (w.setStart x).ready = w.ready := rfl
@[simp] theorem Wave.setStart_begun (w : Wave) (x : BitVec 16) : (w.setStart x).begun = w.begun := rfl
@[simp] theorem Wave.setStart_shadow (w : Wave) (x : BitVec 16) : (w.setStart x).shadow = w.shadow := rfl
@[simp] theorem Wave.setStart_unit (w : Wave) (x : BitVec 16) : (w.setStart x).unit = w.unit := rfl
@[simp] theorem Wave.setStart_late (w : Wave) (x : BitVec 16) : (w.setStart x).late = w.late := rfl
@[simp] theorem Wave.setStart_loads (w : Wave) (x : BitVec 16) : (w.setStart x).loads = w.loads := rfl
@[simp] theorem Wave.setStart_lag (w : Wave) (x : BitVec 16) : (w.setStart x).lag = w.lag := rfl

@[simp] theorem Entry.past_kind (e : Entry) (n : Nat) : (e.past n).kind = e.kind := by unfold Entry.past; dsimp only; split <;> rfl
@[simp] theorem Entry.past_mask (e : Entry) (n : Nat) : (e.past n).mask = e.mask := by unfold Entry.past; dsimp only; split <;> rfl
@[simp] theorem Entry.past_pc (e : Entry) (n : Nat) : (e.past n).pc = e.pc + BitVec.ofNat 64 (4 * n) := by
  unfold Entry.past; dsimp only; split <;> rfl
@[simp] theorem Entry.past_wait (e : Entry) (n : Nat) : (e.past n).wait = none := by unfold Entry.past; dsimp only; split <;> rfl

end Sys2Proof.Machine
end

