-- ==== Sys2Proof/Laws/Memory.lean ====
section
/-! SUPPORT. Memory keeps its canonical form under every operation, and reads back what is written (R166). -/

namespace Sys2Proof.Machine

/-- The canonical form as a property of the entries: addresses rise, and no byte is 0. -/
theorem Mem.wf_iff (m : Mem) : Mem.wf m = true ↔ m.Pairwise (fun x y => x.1 < y.1) ∧ ∀ e ∈ m, e.2 ≠ 0 := by
  induction m with
  | nil => simp [Mem.wf]
  | cons e t ih =>
    cases t with
    | nil => obtain ⟨a, b⟩ := e; simp [Mem.wf]
    | cons f t =>
      obtain ⟨a, b⟩ := e; obtain ⟨c, d⟩ := f
      rw [Mem.wf, Bool.and_eq_true, Bool.and_eq_true, ih]
      simp only [bne_iff_ne, decide_eq_true_eq, List.pairwise_cons, List.mem_cons, forall_eq_or_imp]
      constructor
      · rintro ⟨⟨hb, hac⟩, ⟨hc, hp⟩, hd, hz⟩
        exact ⟨⟨⟨hac, fun x hx => Nat.lt_trans hac (hc x hx)⟩, hc, hp⟩, hb, hd, hz⟩
      · rintro ⟨⟨⟨hac, -⟩, hc, hp⟩, hb, hd, hz⟩
        exact ⟨⟨hb, hac⟩, ⟨hc, hp⟩, hd, hz⟩

theorem Mem.wf_nil : Mem.wf [] = true := rfl

/-- The rest of a memory, and what its first entry says of it. -/
theorem Mem.wf_cons (a : Nat) (b : Byte) (m : Mem) :
    Mem.wf ((a, b) :: m) = true ↔ b ≠ 0 ∧ (∀ e ∈ m, a < e.1) ∧ Mem.wf m = true := by
  simp only [Mem.wf_iff, List.pairwise_cons, List.mem_cons, forall_eq_or_imp]
  exact ⟨fun ⟨⟨h1, h2⟩, h3, h4⟩ => ⟨h3, h1, h2, h4⟩, fun ⟨h3, h1, h2, h4⟩ => ⟨⟨h1, h2⟩, h3, h4⟩⟩

/-- An entry after a write is the written one, or stood there before. -/
theorem mem_memWrite (m : Mem) (a : Nat) (b : Byte) (e : Host.Cell) (h : e ∈ memWrite m a b) : e = (a, b) ∨ e ∈ m := by
  induction m with
  | nil =>
    unfold memWrite at h; split at h
    · cases h
    · exact .inl (List.mem_singleton.1 h)
  | cons f t ih =>
    obtain ⟨k, x⟩ := f
    unfold memWrite at h
    split at h
    · rename_i hk; subst hk; split at h
      · exact .inr (List.mem_cons_of_mem _ h)
      · exact (List.mem_cons.1 h).imp id (List.mem_cons_of_mem _)
    · split at h
      · split at h
        · exact .inr h
        · exact (List.mem_cons.1 h).imp id id
      · rcases List.mem_cons.1 h with h | h
        · exact .inr (h ▸ List.mem_cons_self)
        · exact (ih h).imp id (List.mem_cons_of_mem _)

/-- A write keeps the canonical form. -/
theorem memWrite_wf (m : Mem) (a : Nat) (b : Byte) (h : Mem.wf m = true) : Mem.wf (memWrite m a b) = true := by
  induction m with
  | nil =>
    unfold memWrite; split
    · rfl
    · rename_i hb; exact (Mem.wf_cons ..).2 ⟨hb, fun e he => (List.not_mem_nil he).elim, rfl⟩
  | cons f t ih =>
    obtain ⟨k, x⟩ := f
    obtain ⟨hx, hk, ht⟩ := (Mem.wf_cons ..).1 h
    unfold memWrite; split
    · split
      · exact ht
      · rename_i hb; exact (Mem.wf_cons ..).2 ⟨hb, hk, ht⟩
    · rename_i hne; split
      · rename_i hlt; split
        · exact h
        · rename_i hb
          refine (Mem.wf_cons ..).2 ⟨hb, fun e he => ?_, h⟩
          rcases List.mem_cons.1 he with rfl | he
          · exact hlt
          · exact Nat.lt_trans hlt (hk e he)
      · rename_i hlt
        refine (Mem.wf_cons ..).2 ⟨hx, fun e he => ?_, ih ht⟩
        rcases mem_memWrite t a b e he with rfl | he
        · exact Nat.lt_of_le_of_ne (Nat.le_of_not_lt hlt) hne
        · exact hk e he

/-- Below the first address of a canonical memory every byte reads 0. -/
theorem memRead_low (m : Mem) (a : Nat) (h : ∀ e ∈ m, a < e.1) : memRead m a = 0 := by
  induction m with
  | nil => rfl
  | cons f t ih =>
    obtain ⟨k, x⟩ := f
    have hk : a < k := h _ List.mem_cons_self
    rw [memRead, if_neg (Nat.ne_of_gt hk)]
    exact ih fun e he => h e (List.mem_cons_of_mem _ he)

/-- A write is read back at its address, and every other address reads as before. -/
theorem memRead_memWrite (m : Mem) (a c : Nat) (b : Byte) (h : Mem.wf m = true) :
    memRead (memWrite m a b) c = if c = a then b else memRead m c := by
  induction m with
  | nil =>
    unfold memWrite; split
    · rename_i hb; simp [memRead, hb]
    · simp [memRead, eq_comm]
  | cons f t ih =>
    obtain ⟨k, x⟩ := f
    obtain ⟨hx, hk, ht⟩ := (Mem.wf_cons ..).1 h
    unfold memWrite; split
    · rename_i hka; subst hka
      split
      · rename_i hb
        by_cases hc : c = k
        · rw [if_pos hc, hc, memRead_low t k hk, hb]
        · rw [if_neg hc, memRead, if_neg (Ne.symm hc)]
      · simp only [memRead, eq_comm]
        split <;> rfl
    · rename_i hne; split
      · rename_i hlt; split
        · rename_i hb
          by_cases hc : c = a
          · rw [if_pos hc, hc, hb]
            exact memRead_low _ _ fun e he => by
              rcases List.mem_cons.1 he with rfl | he
              · exact hlt
              · exact Nat.lt_trans hlt (hk e he)
          · rw [if_neg hc]
        · rw [memRead]; simp only [eq_comm]
      · rw [memRead, ih ht, memRead]
        by_cases hc : c = a
        · subst hc; simp [hne]
        · simp [hc]

theorem memWrites_wf (m : Mem) (a : Nat) (bs : List Byte) (h : Mem.wf m = true) : Mem.wf (memWrites m a bs) = true := by
  induction bs generalizing m a with
  | nil => exact h
  | cons b bs ih => exact ih _ _ (memWrite_wf _ _ _ h)

/-- A string of bytes is read back, and every address outside it reads as before. -/
theorem memRead_memWrites (m : Mem) (a c : Nat) (bs : List Byte) (h : Mem.wf m = true) :
    memRead (memWrites m a bs) c = if a ≤ c then (bs[c - a]?).getD (memRead m c) else memRead m c := by
  induction bs generalizing m a with
  | nil => simp [memWrites]
  | cons b bs ih =>
    rw [memWrites, ih _ _ (memWrite_wf _ _ _ h), memRead_memWrite _ _ _ _ h]
    by_cases h1 : a + 1 ≤ c
    · have e : c - a = (c - (a + 1)) + 1 := by omega
      rw [if_pos h1, if_neg (show ¬ c = a by omega), if_pos (show a ≤ c by omega), e, List.getElem?_cons_succ]
    · rw [if_neg h1]
      by_cases h2 : c = a
      · subst h2; simp
      · rw [if_neg h2, if_neg (show ¬ a ≤ c by omega)]

/-! ## Die memory, the scratchpads and device memory -/

theorem wordStoreLoop_wf (fuel : Nat) (m : Mem) (p : List (Nat × Bool)) (a : Nat) (bs : List Byte) (h : Mem.wf m = true) :
    Mem.wf (wordStoreLoop fuel m p a bs).1 = true := by
  induction fuel generalizing m p a bs with
  | zero => exact h
  | succ fuel ih =>
    unfold wordStoreLoop; split
    · exact h
    · apply ih
      split
      · split
        · exact memWrites_wf _ _ _ h
        · exact h
      · exact memWrites_wf _ _ _ h

theorem wordStore_wf (m : Mem) (p : List (Nat × Bool)) (a : Nat) (bs : List Byte) (h : Mem.wf m = true) :
    Mem.wf (wordStore m p a bs).1 = true := wordStoreLoop_wf _ _ _ _ _ h

theorem Die.store_wf (d : Die) (a : Nat) (bs : List Byte) (h : Mem.wf d.mem = true) : Mem.wf (d.store a bs).1.mem = true :=
  wordStore_wf _ _ _ _ h

theorem Quad.wake_wf (q : Quad) (b : Nat) (h : Mem.wf q.scratch = true) : Mem.wf (q.wake b).scratch = true := by
  unfold Quad.wake; split
  · apply memWrites_wf; exact h
  · exact h

theorem Quad.wakes_wf (q : Quad) (b n : Nat) (h : Mem.wf q.scratch = true) : Mem.wf (q.wakes b n).scratch = true := by
  induction n generalizing q b with
  | zero => exact h
  | succ n ih => exact ih _ _ (Quad.wake_wf _ _ h)

theorem Quad.store_wf (q : Quad) (a : Nat) (bs : List Byte) (h : Mem.wf q.scratch = true) : Mem.wf (q.store a bs).1.scratch = true := by
  unfold Quad.store; split
  · exact h
  · exact wordStore_wf _ _ _ _ (Quad.wakes_wf _ _ _ h)

theorem State.unitWrite_wf (s : State) (key : List DWord) (a : Nat) (bs : List Byte) (h : Mem.wf s.gddr = true) :
    Mem.wf (s.unitWrite key a bs).gddr = true := by
  unfold State.unitWrite; dsimp only; split
  · exact memWrites_wf _ _ _ h
  · exact memWrites_wf _ _ _ (memWrites_wf _ _ _ h)

/-- A write to device memory changes GDDR-7, its keys and its poison only. -/
theorem State.unitWrite_frame (s : State) (key : List DWord) (a : Nat) (bs : List Byte) :
    s.unitWrite key a bs = { s with gddr := (s.unitWrite key a bs).gddr, unitKey := (s.unitWrite key a bs).unitKey } := by
  unfold State.unitWrite; dsimp only; split <;> rfl

theorem State.physStoreLoop_spec (fuel : Nat) (s : State) (key : List DWord) (a : Nat) (bs : List Byte) :
    let t := (State.physStoreLoop fuel s key a bs).1
    (Mem.wf s.gddr = true → Mem.wf t.gddr = true) ∧
    t = { s with gddr := t.gddr, unitKey := t.unitKey, gddrPoison := t.gddrPoison } := by
  induction fuel generalizing s a bs with
  | zero => exact ⟨id, rfl⟩
  | succ fuel ih =>
    unfold State.physStoreLoop
    by_cases hb : bs = []
    · rw [if_pos hb]; exact ⟨id, rfl⟩
    · rw [if_neg hb]
      dsimp only
      have key_ : ∀ r : State, (Mem.wf s.gddr = true → Mem.wf r.gddr = true) →
          r = { s with gddr := r.gddr, unitKey := r.unitKey, gddrPoison := r.gddrPoison } →
          (Mem.wf s.gddr = true → Mem.wf (State.physStoreLoop fuel r key (a + (bs.take (32 - a % 32)).length) (bs.drop (32 - a % 32))).1.gddr = true) ∧
          (State.physStoreLoop fuel r key (a + (bs.take (32 - a % 32)).length) (bs.drop (32 - a % 32))).1 =
            { s with
              gddr := (State.physStoreLoop fuel r key (a + (bs.take (32 - a % 32)).length) (bs.drop (32 - a % 32))).1.gddr
              unitKey := (State.physStoreLoop fuel r key (a + (bs.take (32 - a % 32)).length) (bs.drop (32 - a % 32))).1.unitKey
              gddrPoison := (State.physStoreLoop fuel r key (a + (bs.take (32 - a % 32)).length) (bs.drop (32 - a % 32))).1.gddrPoison } := by
        intro r hr he
        obtain ⟨h1, h2⟩ := ih r (a + (bs.take (32 - a % 32)).length) (bs.drop (32 - a % 32))
        refine ⟨fun h => h1 (hr h), h2.trans ?_⟩
        rw [he]
      split
      · exact key_ s id rfl
      · split
        · split
          · refine key_ _ (fun h => State.unitWrite_wf _ _ _ _ h) ?_
            rw [State.unitWrite_frame]
          · exact key_ s id rfl
        · refine key_ _ (fun h => State.unitWrite_wf _ _ _ _ h) ?_
          rw [State.unitWrite_frame]

/-- A store to device memory keeps its form and changes nothing but GDDR-7, its keys and its poison. -/
theorem State.physStore_wf (s : State) (key : List DWord) (a : Nat) (bs : List Byte) (h : Mem.wf s.gddr = true) :
    Mem.wf (s.physStore key a bs).1.gddr = true := (State.physStoreLoop_spec _ s key a bs).1 h

theorem State.physStore_frame (s : State) (key : List DWord) (a : Nat) (bs : List Byte) :
    (s.physStore key a bs).1 = { s with
      gddr := (s.physStore key a bs).1.gddr
      unitKey := (s.physStore key a bs).1.unitKey
      gddrPoison := (s.physStore key a bs).1.gddrPoison } := (State.physStoreLoop_spec _ s key a bs).2

/-! ## The canonical form of every memory of a state -/

/-- The memories after reset list nothing. -/
theorem State.reset_gddr_wf : Mem.wf State.reset.gddr = true := rfl

theorem State.reset_host_wf : Mem.wf State.reset.host = true := rfl

/-- A die that a state holds has its memory in canonical form, listed or not; so has a scratchpad. -/
theorem State.MemOk.die_wf {s : State} (h : s.MemOk) (d : Fin 4) : Mem.wf (s.die d).mem = true := by
  rcases look_mem Die.reset s.dies d.val with e | e
  · show Mem.wf (look Die.reset s.dies d.val).mem = true; rw [e]; rfl
  · exact h.dies _ e

theorem State.MemOk.quad_wf {s : State} (h : s.MemOk) (d : Fin 4) (q : Fin 36) : Mem.wf (s.quad d q).scratch = true := by
  rcases look_mem Quad.reset s.quads (quadKey d q) with e | e
  · show Mem.wf (look Quad.reset s.quads (quadKey d q)).scratch = true; rw [e]; rfl
  · exact h.quads _ e

/-- The named updates keep the form: those that write no memory, and those that write one in its form. -/
theorem State.MemOk.setWave {s : State} (h : s.MemOk) (n : Nat) (w : Wave) : (s.setWave n w).MemOk := ⟨h.gddr, h.host, h.dies, h.quads, h.gangs⟩

theorem State.MemOk.setCore {s : State} (h : s.MemOk) (c : CoreId) (x : Core) : (s.setCore c x).MemOk := ⟨h.gddr, h.host, h.dies, h.quads, h.gangs⟩

theorem State.MemOk.setPartn {s : State} (h : s.MemOk) (p : Fin 8) (x : Partition) : (s.setPartn p x).MemOk :=
  ⟨h.gddr, h.host, h.dies, h.quads, h.gangs⟩

theorem State.MemOk.setQueue {s : State} (h : s.MemOk) (n : Nat) (x : Queue) : (s.setQueue n x).MemOk := ⟨h.gddr, h.host, h.dies, h.quads, h.gangs⟩

theorem State.MemOk.setDomain {s : State} (h : s.MemOk) (n : Nat) (x : Domain) : (s.setDomain n x).MemOk :=
  ⟨h.gddr, h.host, h.dies, h.quads, h.gangs⟩

theorem State.MemOk.send {s : State} (h : s.MemOk) (m : Message) : (s.send m).MemOk := ⟨h.gddr, h.host, h.dies, h.quads, h.gangs⟩

theorem State.MemOk.setDie {s : State} (h : s.MemOk) (d : Fin 4) (x : Die) (hx : Mem.wf x.mem = true) : (s.setDie d x).MemOk :=
  ⟨h.gddr, h.host, fun e he => (mem_put _ _ _ e he).elim (fun k => k ▸ hx) (h.dies e), h.quads, h.gangs⟩

theorem State.MemOk.setQuad {s : State} (h : s.MemOk) (d : Fin 4) (q : Fin 36) (x : Quad) (hx : Mem.wf x.scratch = true) :
    (s.setQuad d q x).MemOk :=
  ⟨h.gddr, h.host, h.dies, fun e he => (mem_put _ _ _ e he).elim (fun k => k ▸ hx) (h.quads e), h.gangs⟩

theorem State.MemOk.setGang {s : State} (h : s.MemOk) (n : Nat) (x : Gang) (hx : Mem.wf x.qsave = true) : (s.setGang n x).MemOk :=
  ⟨h.gddr, h.host, h.dies, h.quads, fun e he => (mem_put _ _ _ e he).elim (fun k => k ▸ hx) (h.gangs e)⟩

theorem State.MemOk.physStore {s : State} (h : s.MemOk) (key : List DWord) (a : Nat) (bs : List Byte) : (s.physStore key a bs).1.MemOk := by
  have e := State.physStore_frame s key a bs
  have g := State.physStore_wf s key a bs h.gddr
  generalize (s.physStore key a bs).1 = t at e g
  rw [e]; exact ⟨g, h.host, h.dies, h.quads, h.gangs⟩

/-- A store to host memory keeps its form. -/
theorem State.MemOk.hostStore {s : State} (h : s.MemOk) (a : Nat) (bs : List Byte) : ({ s with host := memWrites s.host a bs } : State).MemOk :=
  ⟨h.gddr, memWrites_wf _ _ _ h.host, h.dies, h.quads, h.gangs⟩

end Sys2Proof.Machine
end

