-- ==== Sys2Proof/Laws/Ops.lean ====
section
/-! SUPPORT. What each shared operation can do, said once: completing a word, the common checks of R39, taking a trap, writing lanes and
predicates, and the masks of R114. -/

namespace Sys2Proof.Machine

/-! ## Completing and checking -/

/-- A word that completes changes its wave only. -/
theorem State.done_eq (s : State) (w : Wave) : s.done w = .next (s.setMe (w.past 1)) := rfl

/-- A word that passes the common checks of R39 has its own effect. -/
theorem State.checked_ok (s : State) (n : Needs) (body : Out) (hp : n.profile ≤ s.me.id.eff.toNat)
    (ho : n.outside = true → s.me.run.kind ≠ .walk) (hw : n.wide = true → s.me.rest = [])
    (hr : ∀ r ∈ n.regs, r.val < 8 * s.me.blocks.val) : s.checked n body = body := by
  unfold State.checked; dsimp only
  rw [if_neg (Nat.not_lt.2 hp), if_neg (fun h => ho h.1 h.2), if_neg (fun h => h.2 (hw h.1)), if_neg]
  rw [Bool.not_eq_true, List.any_eq_false]
  exact fun r h => by simpa using hr r h

/-- The common checks give one of four traps or let the word go on, and the first that fails decides (R39). -/
theorem State.checked_cases (s : State) (n : Needs) (body : Out) :
    s.checked n body = s.trapWord causeIllegalOp ∨ s.checked n body = s.trapWord causeTwReentry ∨
    s.checked n body = s.trapWord causeDiverged ∨ s.checked n body = s.trapWord causeRegRange ∨ s.checked n body = body := by
  unfold State.checked; dsimp only
  split
  · exact .inl rfl
  · split
    · exact .inr (.inl rfl)
    · split
      · exact .inr (.inr (.inl rfl))
      · split
        · exact .inr (.inr (.inr (.inl rfl)))
        · exact .inr (.inr (.inr (.inr rfl)))

/-! ## Records and traps -/

/-- A selvedge entry changes one die, and GDDR-7 where the die has a region. -/
theorem State.selvedge_frame (s : State) (die : Fin 4) (kind cause : BitVec 8) (asid : BitVec 16) (loc : Loc) (wave : BitVec 32) (task : DWord) :
    let t := s.selvedge die kind cause asid loc wave task
    t = { s with dies := t.dies, gddr := t.gddr, unitKey := t.unitKey, gddrPoison := t.gddrPoison } := by
  dsimp only
  unfold State.selvedge; dsimp only; split
  · rfl
  · rw [State.physWrite, State.physStore_frame]; rfl

@[simp] theorem State.selvedge_waves (s : State) (die : Fin 4) (kind cause : BitVec 8) (asid : BitVec 16) (loc : Loc) (wave : BitVec 32)
    (task : DWord) : (s.selvedge die kind cause asid loc wave task).waves = s.waves := by rw [State.selvedge_frame]

@[simp] theorem State.selvedge_gangs (s : State) (die : Fin 4) (kind cause : BitVec 8) (asid : BitVec 16) (loc : Loc) (wave : BitVec 32)
    (task : DWord) : (s.selvedge die kind cause asid loc wave task).gangs = s.gangs := by rw [State.selvedge_frame]

@[simp] theorem State.selvedge_quads (s : State) (die : Fin 4) (kind cause : BitVec 8) (asid : BitVec 16) (loc : Loc) (wave : BitVec 32)
    (task : DWord) : (s.selvedge die kind cause asid loc wave task).quads = s.quads := by rw [State.selvedge_frame]

@[simp] theorem State.selvedge_cur (s : State) (die : Fin 4) (kind cause : BitVec 8) (asid : BitVec 16) (loc : Loc) (wave : BitVec 32)
    (task : DWord) : (s.selvedge die kind cause asid loc wave task).cur = s.cur := by rw [State.selvedge_frame]

/-- The trap that is delivered: the wave `w` as R26 leaves it. -/
def Wave.entered (w : Wave) (cause : BitVec 8) (info pc : DWord) : Wave :=
  { w with
    mode := .handler
    sr := { w.sr with tcause := cause, tinfo := info, tpc := pc, tmask := w.run.mask }
    run := { w.run with pc := w.sr.thb, kind := .handler, wait := none, buf := none, tied := false } }

/-- Taking a trap (R26): in normal mode with a handler the wave enters it, and nothing else changes but the selvedge entry. -/
theorem State.trapAt_delivered (s : State) (n : Nat) (cause : BitVec 8) (info pc : DWord) (hm : (s.wave n).mode = .normal)
    (hh : (s.wave n).sr.thb ≠ 0) :
    s.trapAt n cause info pc =
      (s.selvedge (s.wave n).id.place.die 3 cause (s.wave n).id.asid (coreLoc (s.wave n).id.place 0x3F 0) (waveBits (s.wave n)) (s.wave n).id.task).setWave n
        ((s.wave n).entered cause info pc) := by
  unfold State.trapAt; dsimp only
  rw [if_neg]
  · rfl
  · rintro (h | h)
    · rw [hm] at h; cases h
    · exact hh h

/-- A trap that is not delivered (R28) is the loss of the wave and a containment event of its gang. -/
theorem State.trapAt_lost (s : State) (n : Nat) (cause : BitVec 8) (info pc : DWord) (h : (s.wave n).mode = .handler ∨ (s.wave n).sr.thb = 0) :
    s.trapAt n cause info pc = s.lose n cause := by
  unfold State.trapAt; dsimp only; rw [if_pos h]

/-! ## Lanes (R98, R114, R116) -/

theorem bit64_getLsbD (i j : Nat) (hi : i < 64) : (bit64 i).getLsbD j = decide (j = i) := by
  show ((1#64) <<< i).getLsbD j = _
  rw [BitVec.getLsbD_shiftLeft, BitVec.getLsbD_one]
  by_cases h : j = i
  · subst h; simp [hi]
  · by_cases h2 : j < i
    · simp [h, h2]
    · have : ¬ (j - i = 0) := by omega
      simp [h, this]

/-- The low `n` lanes. -/
theorem lowLanes_getLsbD (n : Nat) (l : Lane) : (lowLanes n).getLsbD l.val = decide (l.val < n) := by
  unfold lowLanes
  rw [BitVec.getLsbD_ofNat, Nat.testBit_two_pow_sub_one]
  simp [l.isLt]

/-- A lane is listed exactly when its bit is set. -/
theorem mem_lanesOf (m : BitVec 64) (l : Lane) : l ∈ lanesOf m ↔ m.getLsbD l.val = true := by
  simp [lanesOf, List.mem_filter, List.mem_finRange]

/-- Writing the lanes `m` of a register (R118): each of those takes its value, and every other lane of every register stays. -/
theorem Wave.setLanes_rv (w : Wave) (r q : VReg) (m : BitVec 64) (f : Lane → Word) (l : Lane) :
    (w.setLanes r m f).rv q l = if q = r ∧ m.getLsbD l.val = true then f l else w.rv q l := by
  unfold Wave.setLanes
  split
  · rename_i hm; subst hm; simp
  · simp only [Wave.rv]
    by_cases hq : q = r
    · subst hq
      by_cases hl : m.getLsbD l.val = true <;> simp [hl]
    · have e : (r : Nat) ≠ q := fun k => hq (Fin.ext k.symm)
      simp [e, hq]

/-- One element write (R323). -/
theorem Wave.setV_rv (w : Wave) (r q : VReg) (l k : Lane) (x : Word) :
    (w.setV r l x).rv q k = if q = r ∧ k = l then x else w.rv q k := by
  simp only [Wave.setV, Wave.rv]
  by_cases hq : q = r
  · subst hq
    by_cases hk : k = l
    · subst hk; simp
    · have e : (l : Nat) ≠ k := fun j => hk (Fin.ext j.symm)
      simp [e, hk]
  · have e : (r : Nat) ≠ q := fun k => hq (Fin.ext k.symm)
    simp [e, hq]

/-- A predicate write is read back and changes no other register. -/
theorem Wave.setK_rk (w : Wave) (r q : KReg) (x : BitVec 64) : (w.setK r x).rk q = if q = r then x else w.rk q := by
  simp only [Wave.setK, Wave.rk]
  by_cases hq : q = r
  · subst hq; simp
  · have e : (r : Nat) ≠ q := fun k => hq (Fin.ext k.symm)
    simp [e, hq]

/-- The lanes that an element-wise word still has to do (R116). -/
theorem Wave.unfinished_getLsbD (w : Wave) (m : BitVec 64) (l : Lane) :
    (w.unfinished m).getLsbD l.val = (m.getLsbD l.val && decide (w.sr.vstart.toNat ≤ l.val)) := by
  unfold Wave.unfinished
  rw [BitVec.getLsbD_and, BitVec.getLsbD_not, lowLanes_getLsbD]
  have hl := l.isLt
  by_cases h : w.sr.vstart.toNat ≤ l.val
  · have : ¬ l.val < min w.sr.vstart.toNat 64 := by omega
    simp [h, this]
  · have : l.val < min w.sr.vstart.toNat 64 := by omega
    simp [h, this]

/-- A flag of a set of lanes is set when some lane sets it (R70). -/
theorem laneFlags_getLsbD (m : BitVec 64) (f : Lane → FpFlags) (b : Nat) :
    (laneFlags m f).getLsbD b = (lanesOf m).any (fun l => (f l).getLsbD b) := by
  have h : ∀ (ls : List Lane) (a : FpFlags), (ls.foldl (fun a l => a ||| f l) a).getLsbD b = (a.getLsbD b || ls.any (fun l => (f l).getLsbD b)) := by
    intro ls
    induction ls with
    | nil => simp
    | cons l ls ih => intro a; rw [List.foldl_cons, ih, BitVec.getLsbD_or, List.any_cons, Bool.or_assoc]
  unfold laneFlags
  rw [h]; simp [flagNone]

/-! ## Memory as a wave meets it -/

/-- A load that succeeds has changed TLBs, L1s and the count of free choices only. -/
theorem State.fillTlb_frame (s : State) (a : Agent) (e : TlbEntry) : s.fillTlb a e = { s with cores := (s.fillTlb a e).cores } := by
  unfold State.fillTlb; split
  · rfl
  · split <;> rfl

/-- What follows an access goes on exactly where the access was made. -/
theorem Access.andThen_ok {α β : Type} (x : Access α) (f : α → Access β) (b : β) (h : x.andThen f = .ok b) : ∃ a, x = .ok a ∧ f a = .ok b := by
  cases x with
  | ok a => exact ⟨a, rfl, h⟩
  | _ => cases h

theorem State.keepLine_frame (s : State) (c : CoreId) (p : Place) :
    s.keepLine c p = { s with fresh := (s.keepLine c p).fresh, cores := (s.keepLine c p).cores } := by
  unfold State.keepLine; split <;> rfl

theorem State.fillL1_frame (s : State) (a : Agent) (p : Piece) :
    s.fillL1 a p = { s with fresh := (s.fillL1 a p).fresh, cores := (s.fillL1 a p).cores } := by
  have h : ∀ (l : List Nat) (f : State → Nat → State), (∀ s i, f s i = { s with fresh := (f s i).fresh, cores := (f s i).cores }) →
      ∀ s : State, l.foldl f s = { s with fresh := (l.foldl f s).fresh, cores := (l.foldl f s).cores } := by
    intro l f hf
    induction l with
    | nil => exact fun s => rfl
    | cons i l ih => intro s; rw [List.foldl_cons, ih, hf]
  unfold State.fillL1; split
  · rfl
  · exact h _ _ (fun s i => State.keepLine_frame s _ _) s

theorem State.reach_frame (s : State) (a : Agent) (k : AccKind) (hidden : Bool) (l : List (Nat × Nat)) (t : State) (ps : List Piece)
    (h : s.reach a k hidden l = .ok (t, ps)) : t = { s with cores := t.cores } := by
  induction l generalizing s t ps with
  | nil => cases h; rfl
  | cons e l ih =>
    obtain ⟨va, n⟩ := e
    unfold State.reach at h
    split at h
    · cases h
    · split at h
      · cases h
      · split at h
        · split at h
          · cases h
          · split at h <;> cases h
        · obtain ⟨⟨s1, qs⟩, h1, h2⟩ := Access.andThen_ok _ _ _ h
          cases h2
          have h3 := ih _ _ _ h1
          rw [State.fillTlb_frame] at h3
          exact h3

/-- All that the pieces of a load change: L1s, the count of free choices, and which late stores of the loading wave have been seen. -/
def State.OnlyLoaded (n : Nat) (s t : State) : Prop :=
  t = { s with fresh := t.fresh, cores := t.cores, waves := t.waves } ∧ (∀ k, k ≠ n → t.wave k = s.wave k) ∧
  ∃ late, t.wave n = { s.wave n with late }

theorem State.OnlyLoaded.trans {n : Nat} {s t u : State} (h : State.OnlyLoaded n s t) (k : State.OnlyLoaded n t u) : State.OnlyLoaded n s u := by
  obtain ⟨h1, h2, l1, h3⟩ := h
  obtain ⟨k1, k2, l2, k3⟩ := k
  refine ⟨?_, fun m hm => (k2 m hm).trans (h2 m hm), l2, by rw [k3, h3]⟩
  rw [h1] at k1
  exact k1

theorem State.seeLate_frame (s : State) (n : Nat) (m : BitVec 64) (p : Piece) : State.OnlyLoaded n s (s.seeLate n m p) := by
  unfold State.seeLate
  dsimp only
  split
  · exact ⟨rfl, fun k hk => by rw [State.wave_setWave, if_neg hk], _, State.wave_setWave_same ..⟩
  · exact ⟨rfl, fun _ _ => rfl, _, rfl⟩

theorem State.loadPieces_frame (s : State) (n : Nat) (m : BitVec 64) (l : List Piece) (t : State) (bs : List Byte)
    (h : s.loadPieces n m l = .ok (t, bs)) : State.OnlyLoaded n s t := by
  induction l generalizing s t bs with
  | nil => cases h; exact ⟨rfl, fun _ _ => rfl, _, rfl⟩
  | cons p l ih =>
    unfold State.loadPieces at h
    dsimp only at h
    split at h
    · cases h
    · split at h
      · cases h
      · obtain ⟨⟨s1, cs⟩, h1, h2⟩ := Access.andThen_ok _ _ _ h
        cases h2
        have h3 : State.OnlyLoaded n s (s.fillL1 (s.wave n).agent p) := by
          rw [State.fillL1_frame]
          exact ⟨rfl, fun _ _ => rfl, _, rfl⟩
        exact (h3.trans (State.seeLate_frame ..)).trans (ih _ _ _ h1)

end Sys2Proof.Machine
end

