-- ==== Sys2Proof/Laws/Slip.lean ====
section
/-! SUPPORT. What the slip of lane groups does where none is behind, and the lockstep of %slip = 0 (R109). -/

namespace Sys2Proof.Machine

theorem State.drainLag_nil (ex : Instr → State → Out) (s : State) (n : Nat) (h : (s.wave n).lag = []) : s.drainLag ex n = s := by
  simp [State.drainLag, h]

theorem State.drainLags_nil (ex : Instr → State → Out) (s : State) (h : ∀ e ∈ s.liveWaves, e.2.lag = []) : s.drainLags ex = s := by
  have hf : s.liveWaves.filter (fun e => e.2.lag ≠ []) = [] := by
    rw [List.filter_eq_nil_iff]
    intro e he
    simp [h e he]
  unfold State.drainLags
  rw [hf]
  rfl

theorem State.lagTime_nil (ex : Instr → State → Out) (s : State) (h : ∀ e ∈ s.liveWaves, e.2.lag = []) : s.lagTime ex = s := by
  have hf : s.liveWaves.filter (fun e => e.2.lag ≠ []) = [] := by
    rw [List.filter_eq_nil_iff]
    intro e he
    simp [h e he]
  unfold State.lagTime
  rw [hf]
  rfl

theorem State.keepSlip_nil (ex : Instr → State → Out) (s : State) (x : Word) (h : s.me.lag = []) : s.keepSlip ex x = s := by
  simp [State.keepSlip, h]

theorem ahead_nil (ex : Instr → State → Out) (ins : Instr) (s : State) (h : s.me.lag = []) : ahead ex ins s = ex ins s := by
  simp [ahead, h]

theorem State.upTo_nil (ex : Instr → State → Out) (s : State) (ins : Instr) (h : s.me.lag = []) (hs : ∀ e ∈ s.liveWaves, e.2.lag = []) :
    s.upTo ex ins = s := by
  have h1 := s.drainLag_nil ex s.cur h
  have h2 := s.drainLags_nil ex hs
  cases ins <;> first | exact h1 | exact h2

/-- With %slip = 0, or at a word that lane groups do not pass one by one, the word is the instruction, where no lane group is behind. -/
theorem runWord_lockstep (ex : Instr → State → Out) (ins : Instr) (s : State) (h : s.me.lag = []) (hs : ∀ e ∈ s.liveWaves, e.2.lag = [])
    (hz : s.me.sr.slip = 0 ∨ slips s.ir = false) : runWord ex ins s = ex ins s := by
  have hc : ¬ (slips s.ir ∧ s.me.sr.slip ≠ 0 ∧ s.me.sr.vstart = 0 ∧ s.me.shadow = []) := by
    rcases hz with hz | hz <;> simp [hz]
  unfold runWord
  rw [if_neg hc, ahead_nil ex ins s h, s.upTo_nil ex ins h hs]
  split <;> rfl

end Sys2Proof.Machine
end

