-- ==== Sys2Proof/Tests/Slice0.lean ====
section
/-! SUPPORT. Tests: the decoding of a word of every instruction, written out from the spec's encoding tables; an ill-formed term for each check
of WellFormed; for every statement a state and operands that meet its hypotheses together; and small runs of single steps whose expected results are
worked out from the spec by hand. -/

namespace Sys2Proof.Tests

open Sys2Proof Sys2Proof.Machine Sys2Proof.Claims

/-! ## The test machine -/

/-- One privileged wave of profile 3 on core 0 of quad 0 of die 0, with 64 lanes. -/
def ts : State := State.reset.withFetchWord 32 0

/-- The same machine with its wave changed. -/
def wv (f : Wave → Wave) : State := ts.setMe (f ts.me)

/-- The same machine with two lanes, so that a test looks at two lanes only. -/
def lanes2 (w : Wave) : Wave := { w with run := { w.run with mask := 3 }, sr := { w.sr with vl := 2 } }

def t2 : State := wv lanes2

/-- The gang of the test machine changed. -/
def gg (f : Gang → Gang) : State := ts.setGang 0 (f testGang)

/-! ## Decoding: a word of every instruction, from the formats and fields of R29 to R37 -/

/-- Every word of the list decodes to the instruction beside it, and the encoder gives the word back. -/
abbrev DecodesTo (l : List (Nat × Instr)) : Prop :=
  l.all (fun e => decide (decodeTableWord 32 e.1 = some e.2 ∧ encode e.2 = [BitVec.ofNat 32 e.1])) = true

/-- R83: `lit` and `lit64` with their literal words. -/
theorem test_decode_literals :
    decodeTableWord 64 0xDEADBEEF_07080000 = some (.lit 33 0xDEADBEEF) ∧ encode (.lit 33 0xDEADBEEF) = [0x07080000, 0xDEADBEEF] ∧
    decodeTableWord 96 0x01234567_89ABCDEF_07080001 = some (.lit64 33 0x0123456789ABCDEF) ∧
    encode (.lit64 33 0x0123456789ABCDEF) = [0x07080001, 0x89ABCDEF, 0x01234567] := by decide

/-- MAJ 0x00 to 0x02. -/
theorem test_decode_00 : DecodesTo (
    [(0x010A5680, .add 33 18 45), (0x010A5681, .sub 33 18 45), (0x010A5682, .and 33 18 45), (0x010A5683, .or 33 18 45), (0x010A5684, .xor 33 18 45), (0x010A5685, .andn 33 18 45), (0x010A5686, .shl 33 18 45), (0x010A5687, .shr 33 18 45)] ++
    [(0x010A5688, .sar 33 18 45), (0x010A5689, .rol 33 18 45), (0x010A568A, .min 33 18 45), (0x010A568B, .max 33 18 45), (0x010A568C, .minu 33 18 45), (0x010A568D, .maxu 33 18 45), (0x010A568E, .mul 33 18 45), (0x010A568F, .mulh 33 18 45)] ++
    [(0x010A5690, .mulhu 33 18 45), (0x010A5691, .div 33 18 45), (0x010A5692, .divu 33 18 45), (0x010A5693, .rem 33 18 45), (0x010A5694, .remu 33 18 45), (0x010A5695, .slt 33 18 45), (0x010A5696, .sltu 33 18 45), (0x010A5697, .seq 33 18 45)] ++
    [(0x010A4018, .clz 33 18), (0x010A4019, .ctz 33 18), (0x010A401A, .popc 33 18), (0x010A569B, .bfe 33 18 45), (0x010A569C, .bfi 33 18 45), (0x030A43FD, .addi 33 18 0x3FD), (0x030A47FD, .andi 33 18 0x3FD), (0x030A4BFD, .ori 33 18 0x3FD)] ++
    [(0x030A4FFD, .xori 33 18 0x3FD), (0x030A501D, .shli 33 18 29), (0x030A541D, .shri 33 18 29), (0x030A581D, .sari 33 18 29), (0x030A5FFD, .slti 33 18 0x3FD), (0x050FFFFD, .sethi 33 0x7FFFD)]) := by decide

/-- MAJ 0x04 to 0x09. -/
theorem test_decode_04 : DecodesTo (
    [(0x090A4A4D, .ld 33 18 .q .w 0x4D), (0x0B0A4A4D, .st 33 18 .q .w 0x4D), (0x0C95A3FD, .beq 18 45 0x3FD), (0x0C95A7FD, .bne 18 45 0x3FD), (0x0C95ABFD, .blt 18 45 0x3FD), (0x0C95AFFD, .bge 18 45 0x3FD), (0x0C95B3FD, .bltu 18 45 0x3FD), (0x0C95B7FD, .bgeu 18 45 0x3FD)] ++
    [(0x0E3FFFFD, .call 7 0x7FFFD), (0x0E07FFFD, .jmp 0x7FFFD), (0x10024000, .jr 18), (0x110A4001, .callr 33 18), (0x110A5682, .csel 33 18 45), (0x12DCCEFD, .strip 27 38 3 .n 0xFD)]) := by decide

/-- MAJ 0x0A to 0x0B. -/
theorem test_decode_0a : DecodesTo (
    [(0x15080266, .mfsr 33 614), (0x14024666, .mtsr 18 614), (0x150A4A66, .setvl 33 18 614), (0x16000266, .trap 614), (0x170A4666, .hcall 33 18 614), (0x16024800, .exit 18), (0x16000C00, .yield), (0x16025266, .sleep 18 614)]) := by decide

/-- MAJ 0x0C to 0x0E. -/
theorem test_decode_0c : DecodesTo (
    [(0x190A5680, .fadd 33 18 45), (0x190A5681, .fsub 33 18 45), (0x190A5682, .fmul 33 18 45), (0x190A5683, .fdiv 33 18 45), (0x190A4004, .fsqrt 33 18), (0x190A5685, .fmin 33 18 45), (0x190A5686, .fmax 33 18 45), (0x190A5687, .flt 33 18 45)] ++
    [(0x190A5688, .feq 33 18 45), (0x190A5689, .fle 33 18 45), (0x190A400A, .fcvtF32Si 33 18), (0x190A400B, .fcvtSiF32 33 18), (0x1AB3FFFD, .vbr 5 true 0x3FFFD), (0x1AB7FFFD, .vcall 5 true 0x3FFFD), (0x1C050000, .vjr 10), (0x1D550001, .vcallr 21 10)]) := by decide

/-- MAJ 0x10. -/
theorem test_decode_10 : DecodesTo (
    [(0x21557170, .vadd 21 10 28 5 true true), (0x21557171, .vsub 21 10 28 5 true true), (0x21557172, .vmul 21 10 28 5 true true), (0x21557173, .vmulh 21 10 28 5 true true), (0x21557174, .vmulhu 21 10 28 5 true true), (0x21557175, .vmin 21 10 28 5 true true), (0x21557176, .vmax 21 10 28 5 true true), (0x21557177, .vminu 21 10 28 5 true true)] ++
    [(0x21557178, .vmaxu 21 10 28 5 true true), (0x21557179, .vand 21 10 28 5 true true), (0x2155717A, .vor 21 10 28 5 true true), (0x2155717B, .vxor 21 10 28 5 true true), (0x2155717C, .vandn 21 10 28 5 true true), (0x2155717D, .vshl 21 10 28 5 true true), (0x2155717E, .vshr 21 10 28 5 true true), (0x2155717F, .vsar 21 10 28 5 true true)]) := by decide

/-- MAJ 0x11. -/
theorem test_decode_11 : DecodesTo (
    [(0x23555AB0, .vaddVs 21 10 45 5 true), (0x23555AB1, .vsubVs 21 10 45 5 true), (0x23555AB2, .vmulVs 21 10 45 5 true), (0x23555AB3, .vmulhVs 21 10 45 5 true), (0x23555AB4, .vmulhuVs 21 10 45 5 true), (0x23555AB5, .vminVs 21 10 45 5 true), (0x23555AB6, .vmaxVs 21 10 45 5 true), (0x23555AB7, .vminuVs 21 10 45 5 true)] ++
    [(0x23555AB8, .vmaxuVs 21 10 45 5 true), (0x23555AB9, .vandVs 21 10 45 5 true), (0x23555ABA, .vorVs 21 10 45 5 true), (0x23555ABB, .vxorVs 21 10 45 5 true), (0x23555ABC, .vandnVs 21 10 45 5 true), (0x23555ABD, .vshlVs 21 10 45 5 true), (0x23555ABE, .vshrVs 21 10 45 5 true), (0x23555ABF, .vsarVs 21 10 45 5 true)]) := by decide

/-- MAJ 0x12 to 0x14. -/
theorem test_decode_12 : DecodesTo (
    [(0x25557F56, .vaddi 21 10 0x1FD 5 true), (0x25557F57, .vrsubi 21 10 0x1FD 5 true), (0x27550756, .vshli 21 10 29 5 true), (0x27550757, .vshri 21 10 29 5 true), (0x29550756, .vsari 21 10 29 5 true), (0x29557F57, .vandi 21 10 0x1FD 5 true)]) := by decide

/-- MAJ 0x15. -/
theorem test_decode_15 : DecodesTo (
    [(0x2B557170, .vfadd 21 10 28 5 true true), (0x2B557171, .vfsub 21 10 28 5 true true), (0x2B557172, .vfmul 21 10 28 5 true true), (0x2B557173, .vfdiv 21 10 28 5 true true), (0x2B550164, .vfsqrt 21 10 5 true), (0x2B557175, .vfmin 21 10 28 5 true true), (0x2B557176, .vfmax 21 10 28 5 true true), (0x2B550167, .vfabs 21 10 5 true)] ++
    [(0x2B550168, .vfneg 21 10 5 true), (0x2B557179, .vfcopysign 21 10 28 5 true true), (0x2B55016A, .vfrint 21 10 5 true), (0x2B55016B, .vffloor 21 10 5 true), (0x2B55016C, .vfceil 21 10 5 true), (0x2B55016D, .vftrunc 21 10 5 true), (0x2B55016E, .vffract 21 10 5 true)]) := by decide

/-- MAJ 0x16 to 0x17. -/
theorem test_decode_16 : DecodesTo (
    [(0x2D555AB0, .vfaddVs 21 10 45 5 true), (0x2D555AB1, .vfsubVs 21 10 45 5 true), (0x2D555AB2, .vfmulVs 21 10 45 5 true), (0x2D555AB3, .vfminVs 21 10 45 5 true), (0x2D555AB4, .vfmaxVs 21 10 45 5 true), (0x2F5571D6, .vfma 21 10 28 14 5 true), (0x2F5571D7, .vfnma 21 10 28 14 5 true)]) := by decide

/-- MAJ 0x18. -/
theorem test_decode_18 : DecodesTo (
    [(0x31550160, .cvtF32Si 21 10 5 true), (0x31550161, .cvtSiF32 21 10 5 true), (0x31550162, .cvtF32Ui 21 10 5 true), (0x31550163, .cvtUiF32 21 10 5 true), (0x31557174, .pkBf16 21 10 28 5 true true), (0x31550165, .upBf16Lo 21 10 5 true), (0x31550166, .upBf16Hi 21 10 5 true), (0x31557177, .pkF16 21 10 28 5 true true)] ++
    [(0x31550168, .upF16Lo 21 10 5 true), (0x31550169, .upF16Hi 21 10 5 true), (0x3155717A, .pkF8a 21 10 28 5 true true), (0x3155717B, .pkF8b 21 10 28 5 true true), (0x3155717C, .upF8a 21 10 28 5 true true), (0x3155717D, .upF8b 21 10 28 5 true true), (0x3155717E, .pkI8 21 10 28 5 true true), (0x3155717F, .upI8 21 10 28 5 true true)]) := by decide

/-- MAJ 0x19. -/
theorem test_decode_19 : DecodesTo (
    [(0x33550160, .vsin 21 10 5 true), (0x33550161, .vcos 21 10 5 true), (0x33550162, .vsinpi 21 10 5 true), (0x33550163, .vcospi 21 10 5 true), (0x33550164, .vexp2 21 10 5 true), (0x33550165, .vlog2 21 10 5 true), (0x33550166, .vrcp 21 10 5 true), (0x33550167, .vrsqrt 21 10 5 true)] ++
    [(0x33550168, .vtanh 21 10 5 true), (0x33550169, .vsigm 21 10 5 true)]) := by decide

/-- MAJ 0x1A to 0x1B. -/
theorem test_decode_1a : DecodesTo (
    [(0x352AE2E0, .vcmpEq 9 10 28 5 true true), (0x352AE2E1, .vcmpNe 9 10 28 5 true true), (0x352AE2E2, .vcmpLt 9 10 28 5 true true), (0x352AE2E3, .vcmpGe 9 10 28 5 true true), (0x352AE2E4, .vcmpLtu 9 10 28 5 true true), (0x352AE2E5, .vcmpGeu 9 10 28 5 true true), (0x372AE2E0, .vfcmpEq 9 10 28 5 true true), (0x372AE2E1, .vfcmpNe 9 10 28 5 true true)] ++
    [(0x372AE2E2, .vfcmpLt 9 10 28 5 true true), (0x372AE2E3, .vfcmpLe 9 10 28 5 true true), (0x372AE2E4, .vfcmpGt 9 10 28 5 true true), (0x372AE2E5, .vfcmpGe 9 10 28 5 true true), (0x372AE2E6, .vfcmpUn 9 10 28 5 true true), (0x372AE2E7, .vfcmpOrd 9 10 28 5 true true)]) := by decide

/-- MAJ 0x1C to 0x1E. -/
theorem test_decode_1c : DecodesTo (
    [(0x392D8000, .kand 9 6 12), (0x392D8200, .kor 9 6 12), (0x392D8400, .kxor 9 6 12), (0x392D8600, .kandn 9 6 12), (0x392C0800, .knot 9 6), (0x392C0A00, .kmov 9 6), (0x39200C00, .kall 9), (0x39200E00, .knone 9)] ++
    [(0x3B557170, .vsel 21 10 28 5 true true), (0x3B550161, .vmov 21 10 5 true), (0x3B500142, .viota 21 5), (0x3D505AA0, .vbcast 21 45 5), (0x3D555A11, .vextr 21 10 45 true), (0x3D530002, .kcnt 21 6), (0x3D530003, .kfst 21 6)]) := by decide

/-- MAJ 0x1F to 0x22. -/
theorem test_decode_1f : DecodesTo (
    [(0x3F557170, .vperm 21 10 28 5 true true), (0x3F550161, .vcompress 21 10 5 true), (0x3F550162, .vexpand 21 10 5 true), (0x41550160, .vraddI 21 10 5 true), (0x41550161, .vrmaxI 21 10 5 true), (0x41550162, .vrminI 21 10 5 true), (0x41550163, .vraddF 21 10 5 true), (0x41550164, .vrmaxF 21 10 5 true)] ++
    [(0x41550165, .vrminF 21 10 5 true), (0x41550166, .vrand 21 10 5 true), (0x41550167, .vror 21 10 5 true), (0x43550160, .vscanAddI 21 10 5 true), (0x43550161, .vscanAddF 21 10 5 true), (0x43550162, .vscanMaxF 21 10 5 true), (0x45555756, .vswz 21 10 .down 93 5 true), (0x45555757, .vswzg 21 10 .down 93 5 true)]) := by decide

/-- MAJ 0x23 to 0x2B. -/
theorem test_decode_23 : DecodesTo (
    [(0x4754B897, .vldW 21 18 .q 5 (.scaled 28)), (0x4954B897, .vldH 21 18 .q 5 (.scaled 28)), (0x4B54B897, .vldB 21 18 .q 5 (.scaled 28)), (0x4D54B897, .vstW 21 18 .q 5 (.scaled 28)), (0x4F54B897, .vstH 21 18 .q 5 (.scaled 28)), (0x5154B897, .vstB 21 18 .q 5 (.scaled 28)), (0x53557129, .vatomG 21 18 10 28 .cas), (0x55557129, .vatomD 21 18 10 28 .cas)] ++
    [(0x57557129, .vatomQ 21 18 10 28 .cas)]) := by decide

/-- MAJ 0x2C to 0x2F. -/
theorem test_decode_2c : DecodesTo (
    [(0x5895A498, .tset 18 45 9 .i8), (0x5895A499, .tquery 18 45 9 .i8), (0x5B013364, .tzero 2 19 6 25), (0x5A253365, .tldw 18 19 6 25), (0x5B253366, .tmma 2 18 19 6 25), (0x5B253367, .tst 2 18 19 6 25), (0x5D253364, .tadd 2 18 19 6 25), (0x5D253365, .tsave 2 18 19 6 25)] ++
    [(0x5D253366, .trest 2 18 19 6 25), (0x5D253367, .tstb 2 18 19 6 25), (0x5F5AD980, .tvget 21 2 45 19), (0x5F5AD981, .tvset 21 2 45 19), (0x5E000982, .twait 19), (0x5E080983, .tfree 2 19)]) := by decide

/-- MAJ 0x30 to 0x32. -/
theorem test_decode_30 : DecodesTo (
    [(0x6095B720, .cpLd 18 45 11 .c .d), (0x6095B721, .cpSt 18 45 11 .c .d), (0x6095B742, .cpPut 18 45 11 .c), (0x6095AB23, .cpLdr 18 45 5 .c .d), (0x630A400B, .cpnestRun 33 18 11), (0x62024400, .cpnestStop 18), (0x630A4800, .cpnestStat 33 18), (0x653C4ADB, .cpGath 9 28 18 45 11)]) := by decide

/-- MAJ 0x33 to 0x34. -/
theorem test_decode_33 : DecodesTo (
    [(0x66024005, .rdef 18 5), (0x670A4405, .rres 33 18 5), (0x66024805, .rpub 18 5), (0x67080C05, .rpop 33 5), (0x66025005, .rrel 18 5), (0x67081405, .rstat 33 5), (0x6802400B, .binit 18 11), (0x6800040B, .barr 11)] ++
    [(0x690A480B, .bwait 33 18 11), (0x69080C0B, .btest 33 11), (0x6800100B, .binval 11)]) := by decide

/-- MAJ 0x35 to 0x37. -/
theorem test_decode_35 : DecodesTo (
    [(0x6B08002C, .mkTas 33 44), (0x6B08042C, .mkTasnb 33 44), (0x6B0A482C, .mkFadd 33 18 44), (0x6B080C2C, .mkRd 33 44), (0x6A02502C, .mkWr 18 44), (0x6A00142C, .mkClr 44), (0x6D080309, .dsTas 33 777), (0x6D0A4709, .dsFadd 33 18 777)] ++
    [(0x6D080B09, .dsRd 33 777), (0x6C024F09, .dsWr 18 777), (0x6C025309, .dsWeq 18 777), (0x6E000182, .bar .die 2), (0x6E000601, .fence .pkg .rel)]) := by decide

/-- MAJ 0x38 to 0x3A. -/
theorem test_decode_38 : DecodesTo (
    [(0x71555B80, .twstart 21 10 45 3), (0x70050001, .twret 10), (0x70000002, .twstop), (0x71555A03, .twcut 21 10 45), (0x71505A04, .twadopt 21 45), (0x72024007, .twdef 18 true 3), (0x73080403, .twstat 33 3), (0x74000000, .rdenter)] ++
    [(0x74000400, .rdexit), (0x74000800, .qsp), (0x75080E00, .gstart 33 .pkg), (0x74025200, .wgrace 18 .pkg), (0x75081600, .gpoll 33 .pkg), (0x750A5A56, .defer 33 18 .pkg 86)]) := by decide

/-- MAJ 0x3B to 0x3C. -/
theorem test_decode_3b : DecodesTo (
    [(0x770A4000, .spawn 33 18), (0x76000400, .join), (0x76000802, .rgive 2), (0x76000C02, .rclaim 2), (0x78024266, .mtsrp 18 614), (0x78000400, .iret), (0x790A4802, .segld 33 18 .q), (0x78024E27, .tlbinv 18 551)] ++
    [(0x78001000, .halt)]) := by decide
/-! ## Witnesses: scalar words -/

/-- ControlTransfers: each comparison holds somewhere and fails somewhere, and a target is a word address or not. -/
theorem witness_branches :
    (ts.me.rs 0 = ts.me.rs 0 ∧ ¬ (ts.me.rs 0).toInt < (ts.me.rs 0).toInt) ∧
    ((wv (·.setS 1 12)).me.rs 1).toNat % 4 = 0 ∧ ((wv (·.setS 1 13)).me.rs 1).toNat % 4 ≠ 0 := by decide

/-- ScalarFloat: a NaN; division of 0 and of 1 by 0; the square root of −1. -/
theorem witness_float :
    IsNan 0x7FC00001 ∧ ((0x80000000 : Word).toNat % 2 ^ 31 = 0 ∧ (0x3F800000 : Word).toNat / 2 ^ 23 % 256 ≠ 255 ∧
      (0x3F800000 : Word).toNat % 2 ^ 31 ≠ 0) ∧
    ((0xBF800000 : Word).getLsbD 31 = true ∧ (0xBF800000 : Word).toNat % 2 ^ 31 ≠ 0 ∧ (0xBF800000 : Word).toNat % 2 ^ 31 ≤ 0x7F800000) := by
  unfold IsNan; decide

/-- FloatRounding: finite words, one of them not 0 and one not negative, a NaN, and a word that is none. -/
theorem witness_rounding :
    (IsFinite 0x3F800000 ∧ IsFinite 1 ∧ value 0x3F800000 ≠ 0 ∧ 0 ≤ value 0x3F800000) ∧ IsNan 0x7FC00001 ∧ ¬ IsNan 0x3F800000 := by
  have h : signOf 1065353216#32 = false := by decide
  refine ⟨⟨by unfold IsFinite; decide, by unfold IsFinite; decide, ?_, ?_⟩, by unfold IsNan; decide, by unfold IsNan; decide⟩
  · simp [value, h]
  · simp [value, h]; positivity

/-- FloatRounding: the conversions of each format, of an infinity, a NaN, and finite words; and what each format's encodings stand for: a NaN, an
infinity and a number. -/
theorem witness_conversions :
    (∀ e ∈ narrowFormats, ∀ n : Bool,
      let top := (2 ^ e.2.1 - 1) * 2 ^ e.2.2
      infinityOf n = infinityOf (signOf (infinityOf n)) ∧ top < (top + 1) % 2 ^ (e.2.1 + e.2.2) ∧ top % 2 ^ (e.2.1 + e.2.2) = top ∧
      (top - 1) % 2 ^ (e.2.1 + e.2.2) < top) ∧
    IsNan 0x7FC00001 ∧ IsFinite 0xBF800000 ∧ (fmtF16, 5, 10) ∈ narrowFormats ∧ (0xFFFFFF7F : Word).toInt < -128 ∧
    127 < (0x00000080 : Word).toInt := by unfold IsNan IsFinite; decide

/-- LoadCompletes and StoreCompletes: the last word of the .d segment. -/
theorem witness_load_store :
    let s := wv (·.setS 1 0xFFFC)
    offsetOf s.me 1 0 .w % width .w = 0 ∧ offsetOf s.me 1 0 .w + width .w ≤ (s.me.segment .d).limit.toNat ∧
    (∃ s1 bs, s.loadAt s.me .d s.me.run.mask 0 (offsetOf s.me 1 0 .w) (width .w) = .ok (s1, bs)) ∧
    ∃ s1, s.storeAt s.me .d s.me.run.mask 0 (offsetOf s.me 1 0 .w) (bytesOfNat (width .w) (s.me.rs 0).toNat) = .ok s1 :=
  ⟨by decide, by decide, ⟨_, _, rfl⟩, ⟨_, rfl⟩⟩

/-- LoadReadsMemory and StoreWritesMemory: both spaces, at the last byte of the segment. -/
theorem witness_memory_words :
    let s := wv (·.setS 1 0xFFFF)
    let o := offsetOf s.me 1 0 .b
    o % width .b = 0 ∧ s.me.locks = [] ∧ s.me.late = [] ∧ s.me.loads = [] ∧ nonePending s.me s.me.run.mask (.die 0 (dieAddr s.me o)) 1 = true ∧
    nonePending s.me s.me.run.mask (.scratch 0 0 (quadAddr s.me o)) 1 = true ∧ o + width .b ≤ s.me.seg.d.limit.toNat ∧ o + width .b ≤ s.me.seg.q.limit.toNat ∧
    (s.die 0).poisoned (dieAddr s.me o) 1 = false ∧ Mem.wf (s.die 0).mem = true ∧ (s.quad 0 0).poison = [] ∧
    (s.quad 0 0).poisoned (quadAddr s.me o) 1 = false ∧ Mem.wf (s.quad 0 0).scratch = true := by decide

/-- AccessTraps: a misaligned offset, and one whose last byte lies beyond the segment. -/
theorem witness_access_traps :
    offsetOf (wv (·.setS 1 1)).me 1 0 .w % width .w ≠ 0 ∧ offsetOf (wv (·.setS 1 0x10000)).me 1 0 .w % width .w = 0 ∧
    ((wv (·.setS 1 0x10000)).me.segment .d).limit.toNat < offsetOf (wv (·.setS 1 0x10000)).me 1 0 .w + width .w := by decide

/-- SpecialRegisterReads and SpecialRegisterWrites: a number of each kind, one of none, and each of the two modes and contexts. -/
theorem witness_special_registers :
    (0x001 ∈ roNumbers ∧ 0x002 ∈ rwNumbers ∧ 0x006 ∈ w1cNumbers ∧ 0x041 ∈ handlerNumbers ∧ 0x040 ∈ mtsrpNumbers ∧ 0x3FF ∉ allNumbers) ∧
    (0x03C, ts.me.id.depth.toNat) ∈ readOnlyFields ts ∧
    ts.me.mode = .normal ∧ ts.me.id.priv = true ∧ (wv (fun w => { w with mode := .handler })).me.mode = .handler ∧
    (wv (fun w => { w with id := { w.id with priv := false } })).me.id.priv = false := by decide

/-- TileGrants and VectorLength: a wave that may; a format that is grantable there, and one that is not in a partition without formats. -/
theorem witness_grants :
    waveWide ts (tileProfile .f8a) ∧ ts.grantable ts.me (fmCode .f8a) = true ∧
    (let s := ts.setPartn 0 { testPart with cfg := { testPart.cfg with fmtMask := 0 } }
     waveWide s (tileProfile .f8a) ∧ s.grantable s.me (fmCode .f8a) = false) ∧ waveWide ts 1 ∧ tileProfile .f8a ≤ ts.me.id.eff.toNat ∧
    ((5 : SReg) ≠ 0) ∧
    (waveWide ts 2 ∧ (4 : Fin 8).val ≤ 4 ∧ (60 : SReg).val + (4 : Fin 8).val ≤ 64 ∧ Dim.m ≠ .vl ∧ ts.grantable ts.me ts.me.sr.gf.toNat = true) ∧
    (let s := ts.setPartn 0 { testPart with cfg := { testPart.cfg with fmtMask := 0 } }
     waveWide s 2 ∧ s.grantable s.me s.me.sr.gf.toNat = false) := by
  unfold waveWide; decide

/-- TrapEntry and TrapReturn: a wave with a handler, one without, one in handler mode, one without privilege; a gang that lives and for
which nothing has decided, under policy 0 and under policy 1. -/
theorem witness_traps :
    (let s := wv (fun w => { w with sr := { w.sr with thb := 0x60 } })
     s.me.mode = .normal ∧ s.me.sr.thb ≠ 0) ∧
    (ts.me.sr.thb = 0 ∧ ts.me.live = true ∧ ts.me.wait = .none ∧ (ts.gang ts.me.id.gang).live = true ∧ (ts.gang ts.me.id.gang).contain = none ∧
      (ts.gang ts.me.id.gang).kill = none ∧ ts.policyOf (ts.gang ts.me.id.gang) = 0) ∧
    (let s := gg (fun g => { g with record := { g.record with policy := 1 } })
     s.policyOf (s.gang s.me.id.gang) ≠ 0) ∧
    (let s := wv (fun w => { w with mode := .handler, run := { w.run with kind := .handler } })
     s.me.mode = .handler ∧ s.me.run.kind = .handler ∧ s.me.rest.all (fun e => e.kind ≠ .handler) = true) ∧
    (let s := wv (fun w => { w with id := { w.id with priv := false } })
     s.me.mode = .normal ∧ s.me.id.priv = false) := by decide

/-- SystemInstructions: a sleep of no tick and of 5 ticks that are over, no store under way and no grace that holds the wave, and one that holds it
with nothing under way; a wave that waits for a reply, alone and with an entry that it meets; a wave that waits for neither. -/
theorem witness_system :
    ((ts.me.rs 0).toNat + (0 : BitVec 10).toNat) % 2 ^ 32 = 0 ∧ ((ts.me.rs 0).toNat + (5 : BitVec 10).toNat) % 2 ^ 32 ≠ 0 ∧
    ts.storesDone ts.cur = true ∧ mayQuiet ts ∧
    (let s : State := { ts with domains := [(0, { Domain.reset with now := some { start := 0, held := [0], told := false } })] }
     s.graceHolds s.cur = true ∧ s.me.sr.rdep = 0 ∧ mayQuiet s) ∧
    (let s := wv (fun w => { w with wait := .hcall 7 })
     (s.wave 0).live = true ∧ (s.wave 0).wait = .hcall 7 ∧ noneSeen (s.wave 0) = true ∧
     (((s.wave 0).setS 7 9).past 1).rest.all (fun e => !meetsRun (((s.wave 0).setS 7 9).past 1) e) = true) ∧
    (let e : Entry := { Entry.reset with pc := ts.me.run.pc + 4, mask := 1 }
     let s := wv (fun w => { w with wait := .hcall 7, rest := [e] })
     let w := ((s.wave 0).setS 7 9).past 1
     w.rest.filter (meetsRun w) = [e]) ∧
    (let s : State := { wv (fun w => { w with wait := .sleep 5 }) with time := 5 }
     (s.wave 0).live = true ∧ (s.wave 0).wait = .sleep 5 ∧ 5 ≤ s.time) ∧
    (ts.wave 1).live = false := by
  unfold mayQuiet; decide

/-- SystemInstructions: a wave that exits, one that has another entry, and one in a walk. -/
theorem witness_exit :
    (ts.me.live = true ∧ ts.me.locks = [] ∧ ts.me.tiles = [] ∧ ts.storesDone ts.cur = true ∧ ts.me.run.kind ≠ .walk ∧ ts.me.rest = []) ∧
    (let s := wv (fun w => { w with rest := [{ Entry.reset with pc := 24, mask := 1 }] })
     s.me.rest = { Entry.reset with pc := 24, mask := 1 } :: [] ∧ s.storesDone s.cur = true) ∧
    (let s := wv (fun w => { w with run := { w.run with kind := .walk } })
     s.me.run.kind = .walk ∧ s.storesDone s.cur = true) := by decide

/-! ## Witnesses: vector words, lane transfers, vector memory -/

/-- VectorInteger, VectorFloat, ComparesAndPredicates, LaneMoves, Reductions and LaneTransfers: the highest register of a wave with 4 blocks. -/
theorem witness_vector : allocated ts [31, 31, 31] ∧ allocated ts [31] := by unfold allocated; decide

/-- VectorFloat: a NaN, the infinities, 0, and a finite word at which no special function has a value of its own. -/
theorem witness_special_function :
    IsNan 0xFFC00000 ∧ IsFinite 0 ∧ value 0 = 0 ∧ IsFinite 0x3F800000 ∧ ¬ Settled .sin 0x3F800000 := by
  have h : signOf 1065353216#32 = false := by decide
  refine ⟨by unfold IsNan; decide, by unfold IsFinite; decide, by simp [value], by unfold IsFinite; decide, ?_⟩
  simp [Settled, value, h]

/-- A store that has still to be performed. -/
def lateStore : LateStore := { lanes := 1, place := .die 0 0, bytes := [1], note := Record.partialStore (dieLoc 0 0 0), steps := 0, seen := false }

/-- LaneMoves, Atomics: stores of the wave that are late. -/
theorem witness_late : let s := wv (fun w => { w with late := [lateStore] })
    allocated s [31, 31, 31] ∧ s.me.late ≠ [] ∧ ts.me.late = [] := by unfold allocated; decide

/-- A wave at a word of its own. -/
def laneTarget (x : Word) : State := wv (fun w => (lanes2 w).setV 1 1 x)

/-- LaneTransfers: every target is a word address; and the target of lane 1 is the first that is not. -/
theorem witness_lane_transfers :
    (∀ l : Fin 64, active (laneTarget 24).me l = true → ((laneTarget 24).me.rv 1 l).toNat % 4 = 0) ∧
    (active (laneTarget 25).me 1 = true ∧ ((laneTarget 25).me.rv 1 1).toNat % 4 ≠ 0 ∧
      ∀ k : Fin 64, active (laneTarget 25).me k = true → k < 1 → ((laneTarget 25).me.rv 1 k).toNat % 4 = 0) := by decide

/-- One lane of `lanesOneByOne`. -/
theorem lanes_cons {w : Wave} {sp : Space} {n : Nat} {off : Lane → Nat} {act : State → Lane → Option State} {l : Lane} {ls : List Lane}
    {s s1 t : State} (hf : fits w sp n (off l)) (ha : act s l = some s1) (hr : lanesOneByOne w sp n off act ls s1 = some t) :
    lanesOneByOne w sp n off act (l :: ls) s = some t := by
  rw [lanesOneByOne, if_pos hf, ha]; exact hr

/-- A wave with one lane. -/
def t1 : State := wv (fun w => { w with run := { w.run with mask := 1 }, sr := { w.sr with vl := 1 } })

/-- VectorAccessCompletes, VectorLoadReadsMemory and Atomics: one lane that loads, one that stores, and two at atomics in die memory. -/
theorem witness_vector_access :
    allocated t2 (1 :: indexRegs .unit) ∧ t2.me.locks = [] ∧ t2.me.late = [] ∧ dueLanes t2.me 0 = [0, 1] ∧ dueLanes t1.me 0 = [0] ∧
    (∃ t, lanesOneByOne t1.me .d 4 (elementOffset t1.me 0 .d 4 .unit) (laneLoads .d 4 1 (elementOffset t1.me 0 .d 4 .unit)) [0] t1 = some t) ∧
    (∃ t, lanesOneByOne t1.me .d 4 (elementOffset t1.me 0 .d 4 .unit) (laneStores .d 4 1 (elementOffset t1.me 0 .d 4 .unit)) [0] t1 = some t) ∧
    (∃ t, lanesOneByOne t2.me .d 4 (elementOffset t2.me 0 .g 4 (.indexed 2))
      (laneAtomics t2.repl .d .add 1 3 (elementOffset t2.me 0 .g 4 (.indexed 2))) [0, 1] t2 = some t) ∧
    rangeFree t1 .load .d 4 (elementOffset t1.me 0 .d 4 .unit) [0] ∧ rangeFree t1 .store .d 4 (elementOffset t1.me 0 .d 4 .unit) [0] ∧
    rangeFree t2 .atomic .d 4 (elementOffset t2.me 0 .g 4 (.indexed 2)) [0, 1] := by
  have f0 : fits t2.me .d 4 0 := by unfold fits; decide
  have f1 : fits t1.me .d 4 0 := by unfold fits; decide
  exact ⟨by unfold allocated; decide, rfl, rfl, by decide, by decide, ⟨_, lanes_cons f1 rfl rfl⟩,
    ⟨_, lanes_cons f1 rfl rfl⟩, ⟨_, lanes_cons f0 rfl (lanes_cons f0 rfl rfl)⟩, fun _ _ => rfl, fun _ _ => rfl, fun _ _ => rfl⟩

/-- The same for the memories behind the lanes. -/
theorem witness_vector_memory :
    (∀ l : Fin 64, due t2.me 0 l = true → elementOffset t2.me 0 .d 4 .unit l % 4 = 0 ∧
      nonePending t2.me (lane l) (.die 0 (dieAddr t2.me (elementOffset t2.me 0 .d 4 .unit l))) 4 = true ∧
      nonePending t2.me (lane l) (.scratch 0 0 (quadAddr t2.me (elementOffset t2.me 0 .q 4 .unit l))) 4 = true ∧
      elementOffset t2.me 0 .d 4 .unit l + 4 ≤ (t2.me.segment .d).limit.toNat ∧
      (t2.die 0).poisoned (dieAddr t2.me (elementOffset t2.me 0 .d 4 .unit l)) 4 = false ∧
      elementOffset t2.me 0 .q 4 .unit l + 4 ≤ (t2.me.segment .q).limit.toNat ∧
      (t2.quad 0 0).poisoned (quadAddr t2.me (elementOffset t2.me 0 .q 4 .unit l)) 4 = false) ∧
    ((t2.gang t2.me.id.gang).segDie = t2.me.id.place.die ∧ (t2.partn t2.me.id.part).updates = [] ∧ (t2.die 0).poison = [] ∧ Mem.wf (t2.die 0).mem = true ∧ (t2.quad 0 0).poison = [] ∧ Mem.wf (t2.quad 0 0).scratch = true ∧
      ∀ l : Fin 64, due t2.me 0 l = true → elementOffset t2.me 0 .g 4 (.indexed 2) l % 4 = 0 ∧
      elementOffset t2.me 0 .g 4 (.indexed 2) l + 4 ≤ (t2.me.segment .d).limit.toNat ∧
      dieAddr t2.me (elementOffset t2.me 0 .g 4 (.indexed 2) l) % 4 = 0) := by decide

/-- TranslatedAccesses: the walk of the test machine's page table to its page of 2 MiB, and to an entry that is not valid. -/
theorem witness_page_walk :
    (ts.asid 1).live = true ∧ ts.topoLeaf 1 0x100000 = none ∧ ts.topoLeaf 1 0x200000 = none ∧ (ts.asid 1).root = 0x1000 ∧
    (let t (j : Nat) : Nat := 0x1000 * (j + 1)
     through ts 0x100000 t 2 ∧ through ts 0x200000 t 2 ∧ valid (entryAt ts (t 2) (levelIndex 0x100000 2)) ∧
     (entryAt ts (t 2) (levelIndex 0x100000 2)).getLsbD 1 = false ∧ frameOf (entryAt ts (t 2) (levelIndex 0x100000 2)) % pageSize 2 = 0 ∧
     frameOf (entryAt ts (t 2) (levelIndex 0x100000 2)) + pageSize 2 ≤ 0x4100000000 ∧ ¬ valid (entryAt ts (t 2) (levelIndex 0x200000 2))) ∧
    (ts.asid 2).live = false := by
  refine ⟨rfl, rfl, rfl, rfl, ⟨?_, ?_, ?_, ?_⟩, rfl⟩
  · intro j hj; interval_cases j <;> (unfold valid; decide)
  · intro j hj; interval_cases j <;> (unfold valid; decide)
  · unfold valid; decide
  · refine ⟨by decide, by decide, by decide, ?_⟩; unfold valid; decide

/-- The leaf of the test machine's page. -/
def testLeaf : TlbEntry := { asid := 1, va := 0, size := 0x200000, pte := 0x20001D }

/-- TranslatedAccesses: scalar words of 4 and 8 bytes in .g, .c and .l, and the one due lane of a vector word. -/
theorem witness_translated :
    passes t1 t1.me.id.part testLeaf.pte false ∧ passes t1 t1.me.id.part testLeaf.pte true ∧ t1.me.locks = [] ∧ t1.me.late = [] ∧ t1.MemOk ∧
    dueLanes t1.me 0 = [0] ∧
    (∀ sp ∈ [Space.g, .c, .l], ∀ sz ∈ [Size.w, .d],
      let n := width sz
      let va := virtualAt t1 t1.me sp 0 0
      offsetOf t1.me 0 0 sz % n = 0 ∧ offsetOf t1.me 0 0 sz + n ≤ (t1.me.segment sp).limit.toNat ∧
      maps t1 t1.me va (spread sp (n - 1) + 1) testLeaf (0x200000 + va) ∧ fits t1.me sp 4 (elementOffset t1.me 0 sp 4 .unit 0) ∧
      ∀ i, i < n → t1.gddrPoisoned (0x200000 + va + spread sp i) 1 = false ∧ 0x200000 + va + spread sp i < 2 ^ 38) := by
  refine ⟨by unfold passes; decide, by unfold passes; decide, rfl, rfl, ⟨by decide, by decide, by decide, by decide, by decide⟩, by decide,
    fun sp hs sz hz => ?_⟩
  fin_cases hs <;> fin_cases hz <;>
    exact ⟨by decide, by decide, ⟨rfl, by decide, by decide, by decide⟩, by unfold fits; decide, by decide⟩

/-- VectorElementsOutOfRange: lane 1 is due alone, with lane 0 beside it; its element is misaligned, or beyond the .d segment, or beyond the .q
segment. -/
theorem witness_out_of_range :
    let s (x : DWord) := wv (fun w => { lanes2 w with sr := { (lanes2 w).sr with vstart := 1 } }.setS 1 x)
    allocated (s 0) (1 :: indexRegs .unit) ∧ dueLanes (s 0).me 0 = [1] ∧ (s 0).me.run.kind ≠ .walk ∧ (s 0).me.locks = [] ∧
    elementOffset (s 1).me 1 .d 4 .unit 1 % 4 ≠ 0 ∧
    elementOffset (s 0xFFFC).me 1 .d 4 .unit 1 % 4 = 0 ∧
    ((s 0xFFFC).me.segment .d).limit.toNat < elementOffset (s 0xFFFC).me 1 .d 4 .unit 1 + 4 ∧
    ((s 0xFFFC).me.segment .q).limit.toNat < elementOffset (s 0xFFFC).me 1 .q 4 .unit 1 + 4 ∧
    (s 0xFFFC).me.run.mask &&& ~~~((1 : BitVec 64) <<< 1) ≠ 0 := by
  refine ⟨by unfold allocated; decide, ?_⟩; decide

/-! ## Witnesses: encoding, steps and invariants -/

/-- DecodeEncode and DecodedWordIsItsEncoding: an instruction that is well-formed, a word that decodes, and MAJ 0x0F. -/
theorem witness_encoding :
    ((Instr.addi 33 18 5).isWord = true ∧ (Instr.addi 33 18 5).wellFormed = true) ∧ decodeWord 0x030A4005 [] = .ok (.addi 33 18 5) ∧
    (0x1E000000 : Word).toNat / 2 ^ 25 % 64 = 0x0F := ⟨by decide, rfl, by decide⟩

/-- StepRunsDecoded: a word that is an instruction, one that is none, and a `lit` at the end of its packet. -/
theorem witness_step (w : Nat) (h : w = 0x030A4005 ∨ w = 0x1E000000) :
    let s := State.reset.withFetchWord 32 w
    s.inbox = [] ∧ s.power = true ∧ s.schedule.head? = some .zero ∧
    ∃ b p s1, issues s .zero [0] b ∧ holdsPacket b 0 p s1 ∧ s1.me.shadow = [] ∧
      ((∃ i rest, decode (bytesFrom p (wordIndex s1.me.run.pc)) = .ok (i, rest)) ∨
        ∃ e, decode (bytesFrom p (wordIndex s1.me.run.pc)) = .error e ∧ e ≠ .literal) := by
  rcases h with rfl | rfl
  · exact ⟨rfl, rfl, rfl, _, _, _, ⟨rfl, _, rfl, rfl⟩, ⟨rfl, _, rfl, Or.inr ⟨rfl, rfl⟩⟩, rfl, Or.inl ⟨_, _, rfl⟩⟩
  · exact ⟨rfl, rfl, rfl, _, _, _, ⟨rfl, _, rfl, rfl⟩, ⟨rfl, _, rfl, Or.inr ⟨rfl, rfl⟩⟩, rfl, Or.inr ⟨_, rfl, by decide⟩⟩

/-- The packet `add, add, lit`, at its third word. -/
def litLast : State := wv (fun w => { w with run := { w.run with pc := 8, buf := some ⟨0, 0, 0x06380000⟩ } })

theorem witness_step_literal :
    litLast.inbox = [] ∧ litLast.power = true ∧ litLast.schedule.head? = some .zero ∧
    ∃ b p s1, issues litLast .zero [0] b ∧ holdsPacket b 0 p s1 ∧ s1.me.shadow = [] ∧
      decode (bytesFrom p (wordIndex s1.me.run.pc)) = .error .literal :=
  ⟨rfl, rfl, rfl, _, _, _, ⟨rfl, _, rfl, rfl⟩, ⟨rfl, _, rfl, Or.inl ⟨rfl, rfl⟩⟩, rfl, rfl⟩

/-- The test machine with `vaddi v1, v2, 1` behind for lanes 16 to 31, and one word later another one for lanes 16 to 63. -/
def lagging : State :=
  let e (lanes : BitVec 64) (steps : Nat) : LagWord :=
    { ins := .vaddi 1 2 1 0 false, word := 0x24110040, pc := 0, kind := .normal, lanes, s := ts.me.s, tlb := [], steps }
  wv (fun w => { w with sr := { w.sr with slip := 2 }, lag := [e 0xFFFF0000 1, e 0xFFFFFFFFFFFF0000 0] })

/-- StepRunsDecoded: a machine whose lane groups are level, in lockstep, and one with words that some have still to execute; a vector word, a scalar
word and a word that finds every lane group level. -/
theorem witness_slip :
    groupsLevel ts ∧ ts.me.sr.slip = 0 ∧ slips { ts with ir := 0x1E000000 }.ir = false ∧ leavesLag { ts with ir := 0x1E000000 }.ir = false ∧
    laneWord 0x24110040 = true ∧ lagging.me.lag.Pairwise (fun e f => f.steps < e.steps) ∧ (∃ u, runWord exec (.add 0 0 0) lagging = .next u) := by
  refine ⟨by unfold groupsLevel; decide, by decide, by decide, by decide, by decide, by decide, ?_⟩
  exact ⟨_, rfl⟩

/-- R109: a group left behind at `vaddi v1, v2, 1` has v1 as before, and the others have the sum; when it catches up it has the sum too. -/
theorem test_slip :
    let s : State := { wv (fun w => { ((w.setV 2 3 7).setV 2 20 8) with sr := { w.sr with slip := 2 } }) with ir := 0x24110040 }
    (match runLead exec (.vaddi 1 2 1 0 false) s 0xFFFF0000 with
      | .next t => decide ((t.me.rv 1 3, t.me.rv 1 20, t.me.lag.length) = (8, 0, 1)) &&
        decide ((((t.drainLag exec 0).me.rv 1 20, (t.drainLag exec 0).me.rv 1 3), (t.drainLag exec 0).me.lag) = ((9, 8), []))
      | _ => false) = true := by decide

/-- R109: a step before a lane word lets the oldest word be executed, which would lie more than %slip = 2 words behind. -/
theorem test_keep_slip : (lagging.keepSlip exec 0x24110040).me.lag.map (fun e => (e.lanes, e.steps)) = [(0xFFFFFFFFFFFF0000, 1)] := by decide

/-- StepRunsDecoded: two waves of an M-core, the first at an integer word, the second at a lane word: both have a turn in one cycle. -/
def twoWaves : State :=
  let w := ts.me
  { ts with waves :=
      [(0, { w with run := { w.run with buf := some ⟨0, 0, 0⟩ } }),
       (1, { w with id := { w.id with wave := 1, slot := 1 }, run := { w.run with buf := some ⟨0x20000000, 0, 0⟩ } })] }

theorem witness_two_turns :
    twoWaves.inbox = [] ∧ twoWaves.power = true ∧ twoWaves.schedule.head? = some .zero ∧ ∃ b, issues twoWaves .zero [0, 1] b :=
  ⟨rfl, rfl, rfl, _, rfl, _, rfl, rfl⟩

/-- StepRunsDecoded: an act that is to come, with power and without; POWER_ON without power; a word in the inbox; nothing to come without power.
NothingIsRefused asks for power, or an act to come. -/
theorem witness_acts :
    (let s : State := { ts with inbox := [.mirrorUpdate 0 0] }
     s.inbox = .mirrorUpdate 0 0 :: [] ∧ (Instr.mirrorUpdate 0 0).isWord = false ∧ s.power = true ∧ s.inbox ≠ []) ∧
    (let s : State := { ts with inbox := [.powerOn], power := false }
     s.inbox = .powerOn :: [] ∧ (Instr.powerOn).isWord = false ∧ s.power = false) ∧
    (let s : State := { ts with inbox := [.mirrorUpdate 0 0], power := false }
     s.inbox = .mirrorUpdate 0 0 :: [] ∧ s.power = false ∧ Instr.mirrorUpdate 0 0 ≠ .powerOn) ∧
    (Instr.add 0 0 0).isWord = true ∧
    (let s : State := { ts with power := false }
     s.inbox = [] ∧ s.power = false) := by decide

/-- StepKeepsMemory: the test machine, whose next word is an `addi`. -/
theorem witness_step_keeps_memory : (State.reset.withFetchWord 32 0x030A4005).MemOk ∧ ∃ t, step (State.reset.withFetchWord 32 0x030A4005) = .next t :=
  ⟨⟨by decide, by decide, by decide, by decide, by decide⟩, _, rfl⟩

/-! ## Witnesses: the matrix unit -/

/-- The test machine with the format `fm`, grants of 32 and 2 × 2 × 2 valid elements. -/
def tm (fm : BitVec 5) : State :=
  wv (fun w => { w with sr := { w.sr with gf := fm, gm := 32, gn := 32, gk := 32, vm := 2, vn := 2, vk := 2, tlda := 64, tldb := 64, tldc := 64 } })

/-- TileAccumulators: a unit that is free; a row of the accumulator; accumulators that are all dead, and one that is live; no command for `twait`; a command
that can retire. -/
theorem witness_tile_accumulators :
    tileReady ts 3 ∧ allocated ts [31] ∧ (ts.me.rs 0).toNat < tileRows ts ∧ (unit ts).acc[(0 : Fin 4)].live = false ∧
    (∀ i : Fin 4, ((unit ts).acc.set (0 : Fin 4) Accum.dead)[i].live = false) ∧
    (let s := ts.setCore .zero { unit ts with acc := (unit ts).acc.set (1 : Fin 4) { Accum.dead with live := true } }
     tileReady s 3 ∧ ∃ i : Fin 4, ((unit s).acc.set (0 : Fin 4) Accum.dead)[i].live = true) ∧
    (2 ≤ ts.me.id.eff.toNat ∧ ∀ c ∈ ts.me.tiles, c.held = none → (3 : Fin 32) ≠ 0 ∧ c.id ≠ 3) ∧
    (let c : TileCmd :=
       { num := 5, op := .one, word := 0, pc := 0, id := 3, deps := [], base := 0, geom := [], cvt := 0, rows := 0, next := 0, flags := 4,
         lock := false, held := none }
     let s := wv (fun w => { w with tiles := [c] })
     (s.wave 0).live = true ∧ (s.gang (s.wave 0).id.gang).engines = true ∧ c.left = 0 ∧ { c with rows := 2 }.left ≠ 0 ∧
     (s.wave 0).tiles.find? (fun x => x.held.isNone) = some c) := by
  unfold tileReady allocated; decide

/-- TileWeights: 2 × 2 weights of the plain format I8 and of the block format BI8 × PW2. -/
theorem witness_tile_weights (fm : BitVec 5) (h : fm = 6 ∨ fm = 7) :
    let w := (tm fm).me
    tileReady (tm fm) 3 ∧ lockFree (tm fm) ∧ w.sr.vk ≠ 0 ∧ w.sr.vn ≠ 0 ∧ w.sr.vn.toNat ≤ 256 ∧
    rowsFit w .q (w.rs 0) w.sr.tldb 1 2 2 ∧
    (∀ b, b < blocks w.sr.vk.toNat → rowOff (w.rs 0) w.sr.tldb (w.sr.gk.toNat + b) + w.sr.vn.toNat ≤ w.seg.q.limit.toNat) ∧
    weightsClean (taken (tm fm)) (w.rs 0) := by
  have e (o k : Nat) : qElement (taken (tm fm)) o 2 k = 0 := rfl
  refine ⟨?_, ?_, ?_, ?_, ?_, ?_, ?_, fun _ k j _ _ => ?_, fun _ k j _ _ => ?_⟩
  case refine_8 => rw [badPw2, e]; decide
  case refine_9 => rw [e]; decide
  all_goals rcases h with rfl | rfl <;> first | decide | (unfold tileReady; decide) | (unfold lockFree; decide) | (unfold rowsFit; decide)

/-- The same machine with a weight bank that was loaded under its format. -/
def tmBank (fm : BitVec 5) : State :=
  (tm fm).setCore .zero { unit ts with
    shadow := { Bank.empty with complete := true, wf := (wgtFmt fm.toNat).code, lgk := 32, lgn := 32, lvk := 2, lvn := 2, w := [(0, 3)] }
    fresh := true }

/-- TileProducts: a product of 2 × 2 under F8B × F8A, under I8 and under a block format; and, without valid elements, an empty `tldw` and
`tmma`. -/
theorem witness_tile_products (fm : BitVec 5) (h : fm = 3 ∨ fm = 6 ∨ fm = 7) :
    let s := tmBank fm
    let u := taken s
    let w := s.me
    let b := weights u
    tileReady s 3 ∧ lockFree s ∧ w.sr.vm ≠ 0 ∧ w.sr.vk ≠ 0 ∧ b.lvn ≤ 64 ∧ b.complete = true ∧ b.wf = (wgtFmt fm.toNat).code ∧
    b.lgk = w.sr.gk.toNat ∧ w.sr.gk ≠ 0 ∧ (unit u).acc[(0 : Fin 4)].live = false ∧
    rowsFit w .q (w.rs 0) w.sr.tlda 1 2 2 ∧ w.sr.gk.toNat % 32 = 0 ∧ min w.sr.vk.toNat b.lvk ≤ w.sr.gk.toNat ∧
    (∀ i, i < w.sr.vm.toNat → rowOff (w.rs 0) w.sr.tlda i + w.sr.gk.toNat + blocks w.sr.vk.toNat ≤ w.seg.q.limit.toNat) ∧
    (∀ i, i < w.sr.vm.toNat → 255 ∉ rowScales u (w.rs 0) i) := by
  have e (o k : Nat) : qElement (taken (tmBank fm)) o 2 k = 0 := rfl
  refine ⟨?_, ?_, ?_, ?_, ?_, ?_, ?_, ?_, ?_, ?_, ?_, ?_, ?_, ?_, fun i _ => ?_⟩
  case refine_15 =>
    unfold rowScales; split
    · intro hm; obtain ⟨k, _, hk⟩ := List.mem_map.1 hm; rw [e] at hk; cases hk
    · exact List.not_mem_nil
  all_goals rcases h with rfl | rfl | rfl <;>
    first | decide | (unfold tileReady; decide) | (unfold lockFree; decide) | (unfold rowsFit; decide)

theorem witness_tile_empty :
    tileReady ts 3 ∧ ts.me.sr.vk = 0 ∧ rowsFit ts.me .q (ts.me.rs 0) ts.me.sr.tldb 2 0 0 := by
  unfold tileReady rowsFit; decide

/-- The test machine with a word image of an accumulator of 1 × 1 in its scratchpad: live, F32, the element 0x3F800000. -/
def tmImage (live : Bool) : State :=
  let h := bytesOfNat 4 0xACC00001 ++ (if live then [1, 0, 1, 0, 0, 1] else [0, 0, 0, 0, 0, 0])
  (tm 2).setQuad 0 0 { Quad.reset with scratch := memWrites [] 0 (h ++ List.replicate 54 0 ++ bytesOfNat 4 0x3F800000) }

/-- TileStores: each store of a sound accumulator, and images to read back, of a live accumulator and of a dead one. -/
theorem witness_tile_stores :
    let w := (tm 2).me
    tileReady (tm 2) 3 ∧ lockFree (tm 2) ∧ (unit (tm 2)).acc[(0 : Fin 4)].pois = false ∧ w.sr.vm.toNat ≠ 0 ∧ w.sr.vn.toNat ≠ 0 ∧
    rowsFit w .q (w.rs 0) w.sr.tldc 4 2 8 ∧ rowsFit w .d (w.rs 0) w.sr.tldc 4 2 8 ∧ ((tm 2).quad 0 0).poison = [] ∧ Mem.wf ((tm 2).quad 0 0).scratch = true ∧ ((tm 2).die 0).poison = [] ∧
    (w.rs 0).toNat % 4 = 0 ∧ (w.rs 0).toNat + (imageOf (unit (tm 2)).acc[(0 : Fin 4)] 2 2).length ≤ w.seg.q.limit.toNat := by
  unfold tileReady lockFree rowsFit; decide

theorem witness_tile_images (live : Bool) :
    let s := tmImage live
    let n := if live then 1 else 0
    tileReady s 3 ∧ lockFree s ∧ (taken s).quads = s.quads ∧ qElement s 4 4 0 = n ∧ qElement s 6 4 0 = n ∧ qElement s 9 2 0 = n ∧ 0 + 64 + 4 * n * n ≤ s.me.seg.q.limit.toNat ∧
    qElement s 0 8 0 = 0xACC00001 ∧ qElement s 8 2 0 ≤ 1 ∧ (∀ k, k < 54 → qElement s (0 + 10) 2 k = 0) ∧ n ≤ tileRows s ∧ n ≤ 64 ∧
    (s.quad 0 0).poison = [] := by
  cases live <;> unfold tileReady lockFree <;> decide
/-! ## Witnesses: copies -/

/-- The test machine with barrier 1 valid for 2 arrivals, ring 0 of 4 slots of 64 bytes with slot 0 reserved, and boxes of 2 rows of 3 bytes. -/
def tc : State :=
  (wv (fun w => { lanes2 w with sr := { (lanes2 w).sr with bx0 := 0x30002, bx1 := 8, cpld := 16, cprow := 4, sig1 := 1 } })).setGang 0
    { testGang with
      bars := [(1, { NamedBar.launch with valid := true, exp := 2 })]
      rings := [(0, { Ring.launch with made := true, slots := 4, bytes := 64, base := 0x100, res := 1, st := [(0, .reserved)] })] }

/-- The rows of a small box lie in both segments. -/
theorem box_fits (q : DWord) (h : q = 0 ∨ q = 0x100) (far : Far) :
    boxFits tc.me (boxAt tc.me .x q 0) (farSpace far) 2 3 := by
  rcases h with rfl | rfl <;> cases far <;> unfold boxFits <;> decide

/-- CopiesIssue: `cp.ld`, `cp.st`, `cp.put` and `cp.ldr` of that box. -/
theorem witness_copies_issue :
    copyReady tc 1 ∧ (let b := boxAt tc.me .x (tc.me.rs 0) (tc.me.rs 0)
      b.rows ≠ 0 ∧ b.rowBytes ≠ 0 ∧ b.vrows ≠ 0 ∧ b.validBytes ≠ 0 ∧ boxFits tc.me b (farSpace .d) b.rows b.rowBytes ∧
      boxFits tc.me b (farSpace .g) b.vrows b.validBytes ∧ 3 ≤ tc.me.id.eff.toNat ∧ tc.me.sr.sig1 ≠ 0 ∧
      (∀ i, i < b.vrows → rowOff b.q b.qstr i + b.validBytes ≤ tc.me.seg.q.limit.toNat) ∧ zeroField (tc.me.rs 0) = 0 ∧
      zeroField tc.me.sr.sig0 = 0 ∧ zeroField 0x8000000 ≠ 0) ∧
    (let r := (tc.gang 0).ring 0
     let b := boxAt tc.me .x (BitVec.ofNat 64 (r.base + 0 * r.bytes)) (tc.me.rs 0)
     (0 : Fin 8).val < (tc.gang 0).record.rings ∧ r.made = true ∧ r.slot 0 = .reserved ∧ (b.rows : Int) * b.qstr.toInt ≤ r.bytes ∧
      b.rows ≠ 0 ∧ b.rowBytes ≠ 0 ∧ boxFits tc.me b (farSpace .d) b.rows b.rowBytes) := by
  refine ⟨⟨by decide, by decide, ⟨rfl, rfl⟩, 0, by decide⟩, ⟨by decide, by decide, by decide, by decide, box_fits 0 (.inl rfl) .d,
    box_fits 0 (.inl rfl) .g, by decide, by decide, by decide, by decide, by decide, by decide⟩, by decide, by decide, by decide, by decide, by decide, by decide,
    box_fits 0x100 (.inr rfl) .d⟩

/-- CopiesIssue: a gather of two rows of 4 bytes. -/
theorem witness_gather :
    copyReady tc 1 ∧ allocated tc [2] ∧ tc.me.sr.cprow.toNat ≠ 0 ∧ lanes (active tc.me) = [0, 1] ∧
    (∀ l : Fin 64, active tc.me l = true → l.val * 4 + 4 ≤ tc.me.seg.q.limit.toNat ∧
      (tc.me.rv 2 l).toNat * tc.me.sr.cpld.toNat + 4 ≤ tc.me.seg.g.limit.toNat) :=
  ⟨⟨by decide, by decide, ⟨rfl, rfl⟩, 0, by decide⟩, by unfold allocated; decide, by decide, by decide, by decide⟩

/-- A load that answers these bytes. -/
theorem ok_of {x : Access (State × List Byte)} {bs : List Byte} (h : (match x with
    | .ok r => decide (r.2 = bs)
    | _ => false) = true) : ∃ s1, x = .ok (s1, bs) := by
  cases x with
  | ok r => exact ⟨r.1, by rw [← of_decide_eq_true h]⟩
  | _ => cases h

/-- A copy program of one level of two iterations: loads from .d with the .x box, 64 bytes of .q and 64 of .d apart. -/
def nestProgram : List Byte :=
  [0, 1, 1, 3] ++ List.replicate 28 0 ++ bytesOfNat 4 2 ++ bytesOfNat 4 64 ++ bytesOfNat 8 64 ++ List.replicate 80 0

/-- The machine with that program at the start of its .c segment. -/
def tn : State := { tc with gddr := memWrites tc.gddr 0x310000 nestProgram }

set_option maxRecDepth 10000 in
/-- CopiesIssue: `cpnest.run` of it. -/
theorem witness_nest :
    copyReady tn 1 ∧ (tn.me.rs 0).toNat % 128 = 0 ∧ (tn.me.rs 0).toNat + 128 ≤ tn.me.seg.c.limit.toNat ∧
    (∃ s1, tn.loadAt tn.me .c tn.me.run.mask 0 0 128 = .ok (s1, nestProgram)) ∧ badNest nestProgram = false ∧ field nestProgram 0 1 = 0 ∧
    (tn.me.nestBoxes nestProgram).length = 2 ∧
    ∀ b ∈ tn.me.nestBoxes nestProgram, b.vrows ≤ b.rows ∧ b.velems ≤ b.elems ∧ b.vrows ≠ 0 ∧ b.validBytes ≠ 0 ∧
      (∀ i, i < 2 → rowOff b.q b.qstr i + b.rowBytes ≤ tn.me.seg.q.limit.toNat) ∧
      ∀ i, i < 2 → rowOff b.f b.fstr i + b.validBytes ≤ tn.me.seg.d.limit.toNat :=
  ⟨⟨by decide, by decide, ⟨rfl, rfl⟩, 0, by decide⟩, by decide, by decide, ok_of (by decide), by decide, by decide, by decide, by decide⟩

/-- CopiesIssue: a stream with a nest of the wave's gang, under way and ended; and one without. -/
theorem witness_nest_streams :
    (let s := ts.setQuad 0 0 { Quad.reset with streams := [(0, { busy := some 9, gang := 0, boxes := 1, stat := 1 })] }
     ((myQuad s).stream 0).stat ≠ 0 ∧ ((myQuad s).stream 0).gang = s.me.id.gang ∧ ((myQuad s).stream 0).busy = some 9) ∧
    (let s := ts.setQuad 0 0 { Quad.reset with streams := [(0, { busy := none, gang := 0, boxes := 2, stat := 2 })] }
     ((myQuad s).stream 0).stat ≠ 0 ∧ ((myQuad s).stream 0).gang = s.me.id.gang ∧ ((myQuad s).stream 0).busy = none) ∧
    ((myQuad ts).stream 0).stat = 0 := by decide

/-- A transfer of two rows of 3 bytes that is under way on stream 0, its far side in die memory. -/
def underWay (k : XferKind) : Transfer :=
  { Transfer.none with kind := k, boxes := [boxAt tc.me .x 0 0], nb := 1, qbase := 0, fbase := 0x20, far := .d, asid := 1, dec := 1 }

def tl (x : Transfer) : State :=
  (({ tc with transfers := [(5, x)] } : State).setDie 0 { Die.reset with mem := memWrites [] 0x20 [1, 2, 3] }).setQuad 0 0
    { Quad.reset with streams := [(0, { busy := some 5, gang := 0, boxes := 0, stat := 1 })] }

theorem alone_tl (x : Transfer) (hs : x.stall = none) (hp : x.stop = false) (hr : x.row = 0) (hd : x.die = 0) (hq : x.quad = 0)
    (hi : x.stream = 0) : alone (tl x) 5 x := by
  have q : quadOf (tl x) x = (tl x).quad 0 0 := by rw [quadOf, hd, hq]
  refine ⟨rfl, hs, hp, hr, rfl, by rw [q, hi]; rfl, fun i m h => ?_⟩
  rw [q] at h
  have k : ∀ i : Fin 16, (((tl x).quad 0 0).stream i).busy = none ∨ (((tl x).quad 0 0).stream i).busy = some 5 := fun i => by
    fin_cases i <;> first | exact .inl rfl | exact .inr rfl
  rcases k i with e | e <;> rw [e] at h <;> cases h; rfl

/-- Its rows do not meet on either side, and lie in memory without poison: in die memory, or in the page of the test machine. -/
theorem loadable_tl (x : Transfer) (hd : x.die = 0) (hq : x.quad = 0) (hg : x.segDie = 0)
    (hf : x.far = .d ∨ x = { underWay .ld with far := .g, fbase := 0x100000 }) :
    loadable (tl x) x [boxAt tc.me .x 0 0] := by
  have q : quadOf (tl x) x = (tl x).quad 0 0 := by rw [quadOf, hd, hq]
  have a : apart (rowOff (boxAt tc.me .x 0 0).q (boxAt tc.me .x 0 0).qstr) (boxAt tc.me .x 0 0).rows (boxAt tc.me .x 0 0).rowBytes := by
    intro i j hi hj hn; change i < 2 at hi; change j < 2 at hj
    interval_cases i <;> interval_cases j <;> first | exact absurd rfl hn | decide
  refine ⟨by rw [q]; rfl, by rw [q]; rfl, fun b hb => ?_, fun p hp => ?_, List.pairwise_singleton _ _⟩
  rotate_left
  · obtain rfl := List.mem_singleton.1 hp; exact a
  obtain rfl := List.mem_singleton.1 hb
  refine ⟨by decide, fun i hi _ => ?_⟩
  rcases hf with h | rfl
  · rw [farReads, h]; show ((tl x).die x.segDie).poison = []; rw [hg]; rfl
  · change i < 2 at hi
    interval_cases i <;> exact ⟨by decide, testLeaf, rfl, by unfold passes; decide, by decide, fun _ => rfl⟩

theorem storable_tl (x : Transfer) (hd : x.die = 0) (hq : x.quad = 0) (hg : x.segDie = 0) (hf : x.far = .d) :
    storable (tl x) x (boxAt tc.me .x 0 0) := by
  have q : quadOf (tl x) x = (tl x).quad 0 0 := by rw [quadOf, hd, hq]
  refine ⟨hf, by rw [q]; rfl, by rw [hg]; rfl, by rw [hg]; rfl, fun i j hi hj hn => ?_⟩
  change i < 2 at hi; change j < 2 at hj
  interval_cases i <;> interval_cases j <;> first | exact absurd rfl hn | decide

/-- CopiesComplete: a load from each far side, a load into a ring slot, a store, and a nest of each direction. -/
theorem witness_copies_move :
    (∀ k ∈ [XferKind.ld, .gath, .ldr 0 0, .nest true], alone (tl (underWay k)) 5 (underWay k) ∧ loadable (tl (underWay k)) (underWay k) (underWay k).boxes) ∧
    (let x := { underWay .ld with far := .g, fbase := 0x100000 }
     alone (tl x) 5 x ∧ loadable (tl x) x x.boxes) ∧
    (∀ k ∈ [XferKind.st, .nest false], alone (tl (underWay k)) 5 (underWay k) ∧ storable (tl (underWay k)) (underWay k) (boxAt tc.me .x 0 0)) ∧
    ((tl (underWay (.ldr 0 0))).waiters = [] ∧ (((tl (underWay (.ldr 0 0))).gang 0).ring 0).slots ∈ [1, 2, 4, 8, 16, 32, 64, 128, 256] ∧
      (underWay .ld).boxes = [boxAt tc.me .x 0 0]) ∧
    (let x := { underWay (.nest true) with stop := true }
     lookOpt (tl x).transfers 5 = some x ∧ x.stall = none ∧ x.stop = true ∧ x.begun = false ∧ x.boxes ≠ [] ∧ (tl x).commitsOf x.wave = false) := by
  refine ⟨fun k _ => ⟨alone_tl _ rfl rfl rfl rfl rfl rfl, loadable_tl _ rfl rfl rfl (.inl rfl)⟩,
    ⟨alone_tl _ rfl rfl rfl rfl rfl rfl, loadable_tl _ rfl rfl rfl (.inr rfl)⟩,
    fun k _ => ⟨alone_tl _ rfl rfl rfl rfl rfl rfl, storable_tl _ rfl rfl rfl rfl⟩, by decide, by decide⟩

/-- CopiesComplete: a put of two rows of 3 bytes to another module's die memory. -/
theorem witness_put :
    let x := underWay .put
    let b := boxAt tc.me .x 0 0
    alone (tl x) 5 x ∧ x.boxes = [b] ∧ (quadOf (tl x) x).poison = [] ∧
    (∀ i, i < b.vrows → remoteRow b i / 2 ^ 27 % 2 ^ 29 = 0 ∧ remoteRow b i % 2 ^ 27 + b.validBytes ≤ 2 ^ 27) ∧ x.out = false ∧ x.dec ≠ 0 ∧
    x.sig.toNat % 4 = 0 :=
  ⟨alone_tl _ rfl rfl rfl rfl rfl rfl, rfl, rfl, by decide, rfl, by decide, by decide⟩

/-- R231 by hand: after the load byte 2 of row 0 is 3, the rows lie 8 bytes apart, and the barrier has one arrival and, from none pending, −1. -/
theorem test_copy_completion :
    (match exec (.copyCompletion 5 true) (tl (underWay .ld)) with
      | .next t => decide ((t.quad 0 0).byte 2 = 3 ∧ (t.quad 0 0).byte 3 = 0 ∧ ((t.gang 0).bar 0 1).arr = 1 ∧ ((t.gang 0).bar 0 1).pend = 0xFFFF)
      | _ => false) = true := by decide

/-- CopiesComplete: a window that admits 4 bytes, and an address outside it. -/
def tw : State :=
  ts.setPartn 0 { testPart with windows := [{ srcMod := 1, srcPart := 0, die := 0, base := 0x40, size := 64 }] }

theorem witness_windows :
    windowFor tw 1 0 0 0 0 0x7C 4 ∧ ¬ windowFor tw 1 0 0 0 0 0x7D 4 ∧ (tw.die 0).poison = [] ∧ Mem.wf (tw.die 0).mem = true ∧ 0x7C % 4 = 0 := by
  unfold windowFor; decide

/-! ## Witnesses: rings, barriers, markers -/

/-- The machine with a ring descriptor of 4 slots of 64 bytes at the start of its .c segment. -/
def ringBytes : List Byte := [4, 0, 0, 0, 64, 0, 0, 0, 0, 1, 0, 0, 0, 0, 0, 0]

def td : State := { ts with gddr := memWrites ts.gddr 0x310000 ringBytes }

/-- Rings: `rdef` of it, the ring being undefined; a ring with room and one that is full; a slot in each state that `rpub` and `rrel` distinguish; a ring with something to pop and one
without; a ring beyond RINGS. -/
theorem witness_rings :
    ((3 : Fin 8).val < (myGang td).record.rings ∧ (td.me.rs 0).toNat % 16 = 0 ∧ (td.me.rs 0).toNat + 16 ≤ td.me.seg.c.limit.toNat ∧
      (∃ s1, td.loadAt td.me .c td.me.run.mask 0 0 16 = .ok (s1, ringBytes)) ∧ ringLegal ringBytes (myGang td).record.scratch ∧ (ringOf td 3).made = false) ∧
    (let s := wv (·.setS 1 1)
     s.me.rs 1 ≠ 0) ∧
    (let ring (res fill con : BitVec 14) (st : List (Nat × SlotState)) : State := (wv (·.setS 1 1)).setGang 0 { testGang with
       rings := [(0, { Ring.launch with made := true, slots := 4, res, fill, con, st })] }
     (hasRing (ring 1 0 0 [(0, .reserved)]) 0 ∧ (ringOf (ring 1 0 0 [(0, .reserved)]) 0).slots ∈ slotCounts ∧
       (ringOf (ring 1 0 0 [(0, .reserved)]) 0).slot 0 = .reserved ∧ (ringOf (ring 1 0 0 [(0, .reserved)]) 0).con = (ringOf (ring 1 0 0 [(0, .reserved)]) 0).fill) ∧
     (let s := ring 3 0 0 []
      (1 ≤ (s.me.rs 1).toNat ∧ (s.me.rs 1).toNat ≤ (ringOf s 0).slots ∧ ((ringOf s 0).res - (ringOf s 0).free).toNat + (s.me.rs 1).toNat ≤ (ringOf s 0).slots ∧
        noneReserving s 0 ∧ nonePopping s 0)) ∧
     (let s := ring 4 0 0 []
      (ringOf s 0).slots < ((ringOf s 0).res - (ringOf s 0).free).toNat + (s.me.rs 1).toNat) ∧
     (let s := ring 1 1 0 [(0, .published)]
      (ringOf s 0).con ≠ (ringOf s 0).fill ∧ (ringOf s 0).slot 0 ≠ .reserved ∧ (ringOf s 0).slot 0 ≠ .popped) ∧
     (ringOf (ring 1 1 1 [(0, .popped)]) 0).slot 0 = .popped ∧
     (ring 1 0 0 []).storesQuiet (ring 1 0 0 []).cur = true ∧ noneSeen (ring 3 0 0 []).me = true ∧ noneSeen (ring 1 1 0 [(0, .published)]).me = true ∧
     mayQuiet (ring 4 0 0 [])) ∧
    (let s := gg (fun g => { g with record := { g.record with rings := 2 } })
     (myGang s).record.rings ≤ (2 : Fin 8).val) := by
  have nw (s : State) (h : s.waiters = []) (x : Waiter) : x ∉ s.waiters := h ▸ List.not_mem_nil
  refine ⟨⟨by decide, by decide, by decide, ok_of (by decide), by unfold ringLegal; decide, by decide⟩, by decide,
    ⟨⟨⟨by decide, by decide⟩, by decide, by decide, by decide⟩, ⟨by decide, by decide, by decide, fun x hx => ?_, fun x hx => ?_⟩, by decide, by decide, by decide, by decide, by decide, by decide,
      by unfold mayQuiet; decide⟩,
    by decide⟩
  · exact absurd hx (nw _ (by decide) x)
  · exact absurd hx (nw _ (by decide) x)

/-- A machine whose wave waits in `bwait` for phase 1 of barrier 1. -/
def tb (valid : Bool) (phase pend : BitVec 16) : State :=
  (gg (fun g => { g with bars := [(1, { valid, exp := 2, arr := 0, phase, pend })] })).setMe { testWave with
    run := { testWave.run with wait := some { what := .bwait 3 1 1, order := 0, start := 0 } } }

/-- The same with no run waiting. -/
def tb0 (valid : Bool) (phase pend : BitVec 16) : State := (tb valid phase pend).setMe (testWave.setS 1 1)

/-- A machine whose wave has a store that is late, which a load of the wave has or has not seen (R201). -/
def tlate (seen : Bool) : State := wv (fun w => { w with late := [{ lateStore with seen }] })

/-- NamedBarriers: each clause's barrier, and a run that is the only one to wait; a late store that holds `binval` up. -/
theorem witness_named_barriers :
    (let s := tb0 true 0 0
     (1 : Fin 16).val < (myGang s).record.nbars ∧ (s.me.rs 1).toNat = 1 ∧ waveWide s 1 ∧ s.waiters = [] ∧ (barrier s 1).pend = 0 ∧ s.storesQuiet s.cur = true ∧ mayQuiet s ∧
     (barrier s 1).valid = true ∧ noneSeen s.me = true ∧ ¬ phaseReached (barrier s 1) ((s.me.rs 1).truncate 16)) ∧
    (tlate false).storesQuiet (tlate false).cur = false ∧
    (barrier (tb0 false 0 0) 1).valid = false ∧ (barrier (tb0 true 0 1) 1).pend ≠ 0 ∧
    phaseReached (barrier (tb0 true 1 0) 1) (((tb0 true 1 0).me.rs 1).truncate 16) ∧
    (let s := gg (fun g => { g with record := { g.record with nbars := 1 } })
     (myGang s).record.nbars ≤ (1 : Fin 16).val) ∧
    (∀ v p, onlyWaiter (tb v p 0) 0 ⟨.bwait 3 1 1, 0, 0⟩ ∧ noneSeen ((tb v p 0).wave 0) = true) ∧ phaseReached (((tb true 1 0).gang 0).bar 0 1) 1 ∧ ¬ phaseReached (((tb true 0 0).gang 0).bar 0 1) 1 := by
  unfold waveWide phaseReached mayQuiet
  exact ⟨by decide, by decide, by decide, by decide, by decide, by decide, fun v p => ⟨⟨rfl, rfl, rfl⟩, rfl⟩, by decide, by decide⟩

theorem witness_no_waiter (s : State) (h : s.waiters = []) (nb : Fin 16) : noneWaiting s nb := by
  intro x hx; rw [h] at hx; cases hx

/-- MarkersAndDieSync: a marker that is free and one that is taken; a register with a home, equal to the word and not, in a wave with nothing
under way, whose home it reaches or, late, does not; one without a home; of three updates, the first of another die, the second held up by its
edge (R351), the third of this die. -/
theorem witness_markers :
    (markerOf ts 5).getLsbD 0 = false ∧ ts.storesQuiet ts.cur = true ∧ noneSeen ts.me = true ∧ mayQuiet ts ∧
    (markerOf (ts.setQuad 0 0 { Quad.reset with marks := [(5, 1)] }) 5).getLsbD 0 = true ∧
    ((255 : Fin 1024).val / 256 < (myPart ts).ndie ∧ ts.storesDone ts.cur = true ∧ reachesHome ts 255 ∧
      (tlate false).storesDone (tlate false).cur = false ∧ dsSeen ts 255 = (ts.me.rs 0).truncate 32 ∧
      dsSeen (wv (·.setS 1 1)) 255 ≠ ((wv (·.setS 1 1)).me.rs 1).truncate 32) ∧
    (myPart ts).ndie ≤ (256 : Fin 1024).val / 256 ∧
    (let us : List Update := [⟨0, 1, 3, 7, [0], false⟩, ⟨1, 0, 300, 8, [], false⟩]
     let u : Update := ⟨2, 0, 600, 9, [], false⟩
     let q : Partition := { testPart with cfg := { testPart.cfg with quads := [(0, 0), (1, 0), (2, 0)] }, updates := us ++ u :: [] }
     let s := ({ (ts.setPartn 0 q) with edges := [(1, { failed := 3, down := false })] } : State)
     (s.partn 0).updates = us ++ u :: [] ∧ u.die = (0 : Fin 4).val ∧ travels s (s.partn 0) u ∧
     ∀ v ∈ us, v.die = (0 : Fin 4).val → ¬ travels s (s.partn 0) v) := by
  refine ⟨by decide, by decide, by decide, by unfold mayQuiet; decide, by decide, by unfold reachesHome; decide, by decide, ?_⟩
  unfold travels; decide

/-- BarriersAndFences: no count; the only wave of its gang, at its core's barrier, is the last to arrive; of a .pkg barrier of 2 it is not; a late
store that a load has not seen lets an acquire go on. -/
theorem witness_scope_barriers :
    expected ts .pkg 0 = 0 ∧ expected ts .core 0 ≠ 0 ∧ waveWide ts 1 ∧ nothingPending ts false ∧ nothingPending ts true ∧ ts.me.late = [] ∧ noneSeen ts.me = true ∧
    (tlate false).me.late ≠ [] ∧ noneSeen (tlate false).me = true ∧ noneSeen (tlate true).me = false ∧
    expected (ts.setPartn 0 { testPart with pkgBar := [(0, 2)] }) .pkg 0 = 2 := by
  unfold waveWide nothingPending; decide

/-! ## Witnesses: the tree-walk engine -/

/-- The state that an outcome gives. -/
def after (o : Out) : State :=
  match o with
  | .next t => t
  | _ => .reset

/-- A layout table of one type, written out from R272 and R273: 4-byte pointers to two children from byte 4 on, nodes in .d at 0x1000, CAP 4, code at 0x60,
routines at 12, 24 and 36. -/
def tableHead : List Byte := [1, 0, 0, 0, 1, 0, 4, 0, 0x60, 0, 0, 0, 0, 0, 0, 0, 0, 0x10, 0, 0, 0, 0, 0, 0] ++ List.replicate 8 0

def tableType : List Byte :=
  [12, 0, 0, 0, 24, 0, 0, 0, 36, 0, 0, 0, 0, 0, 2, 0, 0, 0, 4, 0, 4, 0, 0, 0] ++ List.replicate 8 0

/-- The machine with that table at the start of its .c segment. -/
def tt0 : State := { t2 with gddr := memWrites t2.gddr 0x310000 (tableHead ++ tableType) }

/-- The machine after the head has been read: the page is in the TLB, and the L1 holds the bytes or not. -/
def headRead (b : Bool) : State :=
  let s := tt0.fillTlb tt0.me.agent { asid := 1, va := 0, size := 2 ^ 21, pte := 0x20001D }
  { s with
    fresh := 1
    cores := if b = true ∧ lookOpt (s.core .zero).l1 (0x310000 / 32) = none then
        put s.cores 0 { s.core .zero with l1 := [(0x310000 / 32, { key := [], bytes := tableHead })] }
      else s.cores }

set_option maxRecDepth 10000 in
theorem table_read (b : Bool) : ∃ s2, (headRead b).loadAt tt0.me .c tt0.me.run.mask 0 32 32 = .ok (s2, tableType) := by
  cases b <;> exact ok_of (by decide)

set_option maxRecDepth 10000 in
/-- TreeTables: `twdef` of it; and `twstat` of a slot. -/
theorem witness_tree_tables :
    waveWide tt0 3 ∧ (∀ e ∈ tt0.me.walks, e.2.phase = .idle ∨ e.2.slot ≠ 0) ∧ (tt0.me.rs 0).toNat % 64 = 0 ∧
    (tt0.me.rs 0).toNat + 32 + 32 * field tableHead 0 1 ≤ (tt0.me.segment .c).limit.toNat ∧
    (∃ s1 s2, tt0.loadAt tt0.me .c tt0.me.run.mask 0 0 32 = .ok (s1, tableHead) ∧
      s1.loadAt tt0.me .c tt0.me.run.mask 0 32 32 = .ok (s2, tableType)) ∧
    headLegal tableHead ∧ (∀ i, i < field tableHead 0 1 → typeLegal (tableType.drop (32 * i))) ∧ walkWord tt0 [] := by
  unfold waveWide headLegal typeLegal walkWord allocated fits32
  exact ⟨by decide, by decide, by decide, by decide, ⟨headRead (Config.l1Keeps 0), (table_read _).choose, rfl, (table_read _).choose_spec⟩, by decide, by decide, by decide⟩

/-- The machine with that slot bound, one lane, a tree of a root with one child at 0x1010, and v5 the lane's root. -/
def tt (root : Word) : State :=
  (wv (fun w => { w with run := { w.run with mask := 1 }, sr := { w.sr with vl := 1 }, slots := [(0, treeSlotOf (tableHead ++ tableType))] }.setV 5 0 root)).setDie 0
    { Die.reset with mem := memWrites [] 0x1000 ([0, 0, 0, 0, 16, 0, 0, 0, 255, 255, 255, 255] ++ List.replicate 8 0 ++ List.replicate 8 255) }

/-- The lane has started its walk; the root has been presented; the routine is at its `twret`. -/
noncomputable def tt1 (root : Word) : State := after (exec (.twstart 4 5 0 0) (tt root))
noncomputable def tt2 : State := after (exec (.nodePresentation 0 0) (tt1 0))

/-- A walk's phase set by hand. -/
noncomputable def ttAt (ph : WalkPhase) : State :=
  tt2.setMe { tt2.me with walks := tt2.me.walks.map (fun e => (e.1, { e.2 with phase := ph, child := 16 })) }

/-- The frame of the root as it is first written (R284). -/
def rootFrame (root : Nat) : Frame := { node := root, pend := 0, user := 0, type := 0, flags := 0, cidx := 31, jidx := 0 }

/-- The walk of a lane that `twstart` has bound. -/
def boundLane : WalkLane :=
  { obj := 0, cap := 4, vd := 4, slot := 0, lock := 0, back := 0, kind := .normal, phase := .due, child := 0, stall := none }

/-- The type of that table, with the fields of a node changed. -/
def nodeType (f : NodeType → NodeType) : NodeType :=
  f { enter := 12, prune := 24, leave := 36, wide := false, counted := false, nchild := 2, cntOff := 0, ptrOff := 4, pstride := 4, keyOff := 0, keyLen := 0 }

/-- The slot with another base and tag, and that type. -/
def nodeSlot (base : DWord) (inD : Bool) (tagW tagOff : Nat) (v : NodeType) : TreeSlot :=
  { treeSlotOf (tableHead ++ tableType) with treeBase := base, inD, tagW, tagOff, types := [v] }

/-- Bytes of .d can be read. -/
theorem readable_d {s : State} {w : Wave} {y : TreeSlot} {o k : Nat} (h : y.inD = true)
    (r : o + k ≤ w.seg.d.limit.toNat ∧ (s.die (s.gang w.id.gang).segDie).poisoned (dieAddr w o) k = false) : nodeReadable s w y testLeaf o k := by
  unfold nodeReadable; exact (if_pos h).mpr r

/-- The test's tree with 8 bytes of ones at 0x1018. -/
def tn8 : State := (tt 0).setDie 0 { (tt 0).die 0 with mem := memWrites ((tt 0).die 0).mem 0x1018 (List.replicate 8 255) }

set_option maxRecDepth 10000 in
/-- NodeReads, of the node at 0x1000: its fields can be read in .d, as one can in .g; a pointer of 32 bits and one that is null; a pointer of 64 bits
that is null, at each end of what its distance may be and just beyond both; a pointer, and a key block, misaligned and beyond the segment. -/
theorem witness_node_fields :
    let s := tn8
    let w := s.me
    let y (b : DWord) := nodeSlot b true 0 0 (nodeType id)
    let num (b : DWord) := nodeNum s w (y b) testLeaf
    (∀ p ∈ [(0x1004, 4), (0x1008, 4), (0x1000, 8), (0x1018, 8), (0x1000, 1)], nodeReadable s w (y 0x1000) testLeaf p.1 p.2) ∧
    nodeReadable s w (nodeSlot 0 false 0 0 (nodeType id)) testLeaf 0 4 ∧
    (num 0x1000 0x1004 4 = 16 ∧ num 0x1000 0x1008 4 = 2 ^ 32 - 1 ∧ (nodeType id).wide = false ∧ (nodeType id).ptrOff = 4 ∧ (nodeType id).pstride = 4) ∧
    (num 0x1000 0x1018 8 = 0xFFFFFFFFFFFFFFFF ∧ num 0x1000 0x1000 8 = 0x1000000000) ∧
    ((y 0x1000000000).treeBase.toNat ≤ 0x1000000000 ∧ (y 0xF00000002).treeBase.toNat ≤ 0x1000000000 ∧
      0x1000000000 - (y 0xF00000002).treeBase.toNat ≤ 2 ^ 32 - 2 ∧ 0x1000000000 < (y 0x1000000001).treeBase.toNat ∧
      2 ^ 32 - 2 < 0x1000000000 - (y 0xF00000001).treeBase.toNat) ∧
    0x1002 % 4 ≠ 0 ∧ w.seg.d.limit.toNat < w.seg.d.limit.toNat + 4 ∧
    (∀ i, i < 8 → 4 * i < (nodeType (fun v => { v with keyLen := 8 })).keyLen → (0x1000 + 4 * i) % 4 = 0 ∧ nodeReadable s w (y 0x1000) testLeaf (0x1000 + 4 * i) 4) := by
  refine ⟨fun p h => readable_d rfl ?_, ⟨by decide, rfl, by decide, by decide, by unfold passes; decide, fun _ => by decide⟩,
    by decide, ⟨rfl, rfl⟩, by decide, by decide, by decide, fun i hi _ => ⟨by omega, readable_d rfl ?_⟩⟩
  · fin_cases h <;> decide
  · interval_cases i <;> decide

/-- NodeReads: the whole node. A tag that is beyond the segment, that is poisoned, that names no type, and none; a count beyond the segment, above NCHILD and
not; a child whose pointer is out of reach behind none that is, all children, and a key block that is misaligned. -/
theorem witness_node_reads :
    let s := tt 0
    let w := s.me
    let hurt := s.setDie 0 { s.die 0 with poison := [(0x1000 / 4, true)] }
    let y (tagW tagOff : Nat) := nodeSlot 0x1000 true tagW tagOff (nodeType id)
    let counted (o : Nat) := nodeType (fun v => { v with counted := true, cntOff := o })
    w.seg.d.limit.toNat ≤ 0x1000 + 0x7000000 ∧
    ((hurt.die (hurt.gang hurt.me.id.gang).segDie).poisoned (dieAddr hurt.me 0x1000) 1 = true ∧ 0x1000 < hurt.me.seg.d.limit.toNat) ∧
    (nodeReadable s w (y 2 8) testLeaf 0x1008 1 ∧ (y 2 8).types[nodeNum s w (y 2 8) testLeaf 0x1008 1 % 2 ^ 2]? = none) ∧
    (nodeReadable s w (y 2 0) testLeaf 0x1000 1 ∧ ((y 2 0).types[nodeNum s w (y 2 0) testLeaf 0x1000 1 % 2 ^ 2]?).isSome = true) ∧
    ((y 0 0).types[0]?).isSome = true ∧
    (nodeReadable s w (y 0 0) testLeaf 0x1004 1 ∧ (counted 4).nchild < nodeNum s w (y 0 0) testLeaf 0x1004 1) ∧
    (nodeReadable s w (y 0 0) testLeaf 0x1000 1 ∧ nodeNum s w (y 0 0) testLeaf 0x1000 1 ≤ (counted 0).nchild) ∧
    ((nodeType id).counted = false ∧ (nodeType id).nchild ≤ (nodeType id).nchild ∧
      s.childPtr 0 w (y 0 0) (nodeType id) 0x1000 0 = .ok (some 16) ∧ s.childPtr 0 w (y 0 0) (nodeType id) 0x1000 1 = .ok none ∧
      s.childPtr 0 w (y 0 0) (nodeType (fun v => { v with wide := true, ptrOff := 0, pstride := 8 })) 0x1000 0 = .fault 3 ∧
      s.keyBlock 0 w (y 0 0) (nodeType id) 0x1000 0 8 = .ok (List.replicate 8 0) ∧
      s.keyBlock 0 w (y 0 0) (nodeType (fun v => { v with keyLen := 4, keyOff := 2 })) 0x1000 0 8 = .fault 3) := by
  exact ⟨by decide, by decide, ⟨readable_d rfl (by decide), by decide⟩, ⟨readable_d rfl (by decide), by decide⟩, by decide,
    ⟨readable_d rfl (by decide), by decide⟩, ⟨readable_d rfl (by decide), by decide⟩, rfl, le_refl _, rfl, rfl, rfl, rfl, rfl⟩

/-- TreeSteps: `twstart`. -/
theorem witness_twstart :
    walkWord (tt 0) [4, 5, 31] ∧ outside (tt 0) ∧ lookOpt (tt 0).me.slots 0 = some (treeSlotOf (tableHead ++ tableType)) ∧
    (treeSlotOf (tableHead ++ tableType)).cap = 4 ∧ lanes (active (tt 0).me) = [0] ∧ ((tt 0).me.rs 0).toNat % 8 = 0 ∧
    (∀ l : Fin 64, active (tt 0).me l = true → 0 + l.val * objSize 4 + objSize 4 ≤ (tt 0).me.seg.d.limit.toNat) ∧ lockFree (tt 0) ∧
    dSound (tt 0) (tt 0).me := by
  unfold walkWord allocated outside lockFree dSound
  exact ⟨by decide, by decide, rfl, by decide, by decide, by decide, by decide, by decide, by decide⟩

/-- TreeSteps: a step that is due, with a null root, with a node and with a node that cannot be read. -/
theorem witness_presentation (root : Word) (h : root = 0xFFFFFFFF ∨ root = 0 ∨ root = 0x7000000) :
    let s := tt1 root
    let w := s.wave 0
    w.live = true ∧ lookOpt w.walks 0 = some boundLane ∧ (lookOpt w.slots 0).isSome = true ∧ (s.gang w.id.gang).runs = true ∧
    (s.die 0).poison = [] ∧ Mem.wf (s.die 0).mem = true ∧ s.waiters = [] ∧
    (root = 0xFFFFFFFF → dNum s w 0 2 = 0) ∧
    (root ≠ 0xFFFFFFFF → dNum s w 0 2 = 1 ∧ dNum s w 32 4 = root.toNat ∧ dNum s w 45 1 = 0 ∧
      (match s.readNode 0 w (treeSlotOf (tableHead ++ tableType)) root.toNat with
        | .ok d => root = 0 ∧ d.info.enter ≠ 0xFFFFFFFF
        | .fault r => root ≠ 0 ∧ r < 8
        | _ => False)) := by
  rcases h with rfl | rfl | rfl
  · exact ⟨by decide, by decide, by decide, by decide, by decide, by decide, by decide, by decide, fun h => absurd rfl h⟩
  · exact ⟨by decide, by decide, by decide, by decide, by decide, by decide, by decide, by decide, fun _ => ⟨by decide, by decide, by decide, by decide, by decide⟩⟩
  · exact ⟨by decide, by decide, by decide, by decide, by decide, by decide, by decide, by decide, fun _ => ⟨by decide, by decide, by decide, by decide, by decide⟩⟩

/-- The slot of the test's table with these prune and leave routines. -/
def slotWith (enter prune leave : Word) : TreeSlot :=
  let y := treeSlotOf (tableHead ++ tableType)
  { y with types := y.types.map (fun v => { v with enter, prune, leave }) }

/-- The walk of lane 0 with this slot, CAP and frame 0, its cells, and the first child pointer of the root. -/
noncomputable def stepping (y : TreeSlot) (cap : Nat) (frame cells kid : List Byte) : State :=
  let s := tt1 0
  (s.setDie 0 { s.die 0 with mem := memWrites (memWrites (memWrites (s.die 0).mem 32 frame) (32 + 16 * cap) cells) 0x1004 kid }).setMe
    { s.me with slots := [(0, y)], walks := [(0, { boundLane with cap })] }

/-- What TreeSteps, TreeChildren and TreeLeaves suppose of every step: it is due, and frame 0 is `f`. -/
def steps (s : State) (y : TreeSlot) (cap : Nat) (f : Frame) : Prop :=
  s.me.live = true ∧ lookOpt s.me.walks 0 = some { boundLane with cap } ∧ lookOpt s.me.slots 0 = some y ∧ (s.gang s.me.id.gang).runs = true ∧
  dSound s s.me ∧ s.waiters = [] ∧ dNum s s.me 0 2 = 1 ∧ frameIs s s.me 0 0 f ∧ (y.types[f.type]?).isSome = true

theorem steps_of {s : State} {y : TreeSlot} {cap : Nat} {f : Frame}
    (h : s.me.live = true ∧ lookOpt s.me.walks 0 = some { boundLane with cap } ∧ lookOpt s.me.slots 0 = some y ∧ (s.gang s.me.id.gang).runs = true)
    (hd : (s.die (s.gang s.me.id.gang).segDie).poison = [] ∧ Mem.wf (s.die (s.gang s.me.id.gang).segDie).mem = true)
    (hw : s.waiters = [])
    (hn : dNum s s.me 0 2 = 1 ∧ dNum s s.me 32 4 = f.node ∧ dNum s s.me 36 4 = f.pend ∧ dNum s s.me 40 4 = f.user ∧ dNum s s.me 44 1 = f.type ∧
      dNum s s.me 45 1 = f.flags ∧ dNum s s.me 46 1 = f.cidx ∧ dNum s s.me 47 1 = f.jidx) (ht : (y.types[f.type]?).isSome = true) :
    steps s y cap f :=
  ⟨h.1, h.2.1, h.2.2.1, h.2.2.2, hd, hw, hn.1, hn.2, ht⟩

/-- A node that can be read, with this prune routine. -/
def readsWith (s : State) (y : TreeSlot) (node : Nat) (prune : Word) : Bool :=
  match s.readNode 0 s.me y node with
  | .ok d => decide (d.info.prune = prune)
  | _ => false

theorem visits_first (f : Frame) (h : f.pend = 1) (hd : f.flags.testBit 3 = false) : visits f 0 :=
  ⟨by rw [h]; rfl, fun j _ => by rw [hd]; exact Nat.zero_le j⟩

/-- TreeSteps: an unentered root whose type has no enter routine. -/
theorem witness_no_enter :
    let y := slotWith 0xFFFFFFFF 24 36
    let s := stepping y 4 (List.replicate 14 0 ++ [31, 0]) [] [16, 0, 0, 0]
    steps s y 4 (rootFrame 0) ∧ readsWith s y 0 24 = true ∧ (y.types[0]?).map (·.enter) = some 0xFFFFFFFF := by
  exact ⟨steps_of (by decide) (by decide) (by decide) (by decide) (by decide), by decide, by decide⟩

/-- TreeChildren: a full stack; a child that is null; a child without a prune routine, with one, and one that cannot be read. -/
theorem witness_children :
    let y (p : Word) := slotWith 12 p 36
    let f (n : Nat) : Frame := { rootFrame 0 with pend := n, flags := 1 }
    let s (p : Word) (cap : Nat) (n : Byte) (kid : List Byte) := stepping (y p) cap ([0, 0, 0, 0, n] ++ List.replicate 8 0 ++ [1, 31, 0]) [] kid
    let child (s : State) (y : TreeSlot) (c : Nat) (o : Option Nat) : Bool := match (y.types[0]?).map (fun v => s.childPtr 0 s.me y v 0x1000 c) with
      | some (.ok x) => decide (x = o)
      | _ => false
    (visits (f 1) 0 ∧ visits (f 2) 1) ∧
    steps (s 24 1 1 [16, 0, 0, 0]) (y 24) 1 (f 1) ∧
    (steps (s 24 4 2 [16, 0, 0, 0]) (y 24) 4 (f 2) ∧ child (s 24 4 2 [16, 0, 0, 0]) (y 24) 1 none = true) ∧
    (steps (s 0xFFFFFFFF 4 1 [16, 0, 0, 0]) (y 0xFFFFFFFF) 4 (f 1) ∧ child (s 0xFFFFFFFF 4 1 [16, 0, 0, 0]) (y 0xFFFFFFFF) 0 (some 16) = true ∧
      readsWith (s 0xFFFFFFFF 4 1 [16, 0, 0, 0]) (y 0xFFFFFFFF) 16 0xFFFFFFFF = true) ∧
    (steps (s 24 4 1 [16, 0, 0, 0]) (y 24) 4 (f 1) ∧ child (s 24 4 1 [16, 0, 0, 0]) (y 24) 0 (some 16) = true ∧
      readsWith (s 24 4 1 [16, 0, 0, 0]) (y 24) 16 24 = true) ∧
    (steps (s 24 4 1 [0, 0, 0, 7]) (y 24) 4 (f 1) ∧ child (s 24 4 1 [0, 0, 0, 7]) (y 24) 0 (some 0x7000000) = true ∧
      (match (s 24 4 1 [0, 0, 0, 7]).readNode 0 (s 24 4 1 [0, 0, 0, 7]).me (y 24) 0x7000000 with
        | .fault r => decide (r < 8)
        | _ => false) = true) := by
  refine ⟨⟨visits_first _ rfl rfl, rfl, fun j h => ?_⟩, ?_⟩
  · cases j with
    | zero => cases h
    | succ j => exact Nat.succ_le_succ (Nat.zero_le j)
  · exact ⟨steps_of (by decide) (by decide) (by decide) (by decide) (by decide),
      ⟨steps_of (by decide) (by decide) (by decide) (by decide) (by decide), by decide⟩,
      ⟨steps_of (by decide) (by decide) (by decide) (by decide) (by decide), by decide, by decide⟩,
      ⟨steps_of (by decide) (by decide) (by decide) (by decide) (by decide), by decide, by decide⟩,
      steps_of (by decide) (by decide) (by decide) (by decide) (by decide), by decide, by decide⟩

/-- TreeLeaves: a frame that is leaving; one without a join; a join that has to wait; chains of one and of two cells, whose last has COUNT 0, 2 and 1. -/
theorem witness_leaves (leave : Word) (h : leave = 36 ∨ leave = 0xFFFFFFFF) :
    let y := slotWith 12 24 leave
    let f (n : Nat) : Frame := { rootFrame 0 with flags := n }
    let s (n : Byte) (cells : List Byte) := stepping y 4 (List.replicate 13 0 ++ [n, 31, 0]) cells [16, 0, 0, 0]
    let ends : List Byte := [255, 255, 255, 255]
    let block (s : State) : Bool := match (y.types[0]?).map (fun v => s.keyBlock 0 s.me y v 0x1000 0 8) with
      | some (.ok _) => true
      | _ => false
    (steps (s 16 []) y 4 (f 16) ∧ block (s 16 []) = true) ∧
    (steps (s 1 []) y 4 (f 1) ∧ block (s 1 []) = true ∧ y.treeBase.toNat = 0x1000 ∧ (y.types[0]?).map (fun v => (v.keyOff, v.keyLen)) = some (0, 0)) ∧
    (let w := (s 3 []).setPartn 0 { testPart with updates := [⟨0, 1, 0, 1, [0], false⟩] }
     steps w y 4 (f 3) ∧ w.storesDone 0 = false) ∧
    (∀ n ∈ [(0 : Byte), 1, 2],
      let z := s 3 ([n, 0, 0, 0] ++ ends)
      steps z y 4 (f 3) ∧ mayJoin z 0 ∧ chain z z.me [96] ∧ cellAddr z z.me 0 4 (f 3) = 96 ∧ dNum z z.me 96 4 = n.toNat ∧
        dNum z z.me 100 4 = 0xFFFFFFFF) ∧
    (let z := s 3 ([1, 0, 0, 0, 104, 0, 0, 0, 2, 0, 0, 0] ++ ends)
     steps z y 4 (f 3) ∧ mayJoin z 0 ∧ chain z z.me [96, 104] ∧ dNum z z.me 104 4 = 2) ∧
    cellsApart { boundLane with cap := 4 } [96, 104] := by
  rcases h with rfl | rfl <;>
    (refine ⟨⟨steps_of (by decide) (by decide) (by decide) (by decide) (by decide), by decide⟩,
       ⟨steps_of (by decide) (by decide) (by decide) (by decide) (by decide), by decide, by decide, by decide⟩,
       ⟨steps_of (by decide) (by decide) (by decide) (by decide) (by decide), by decide⟩, fun n hn => ?_,
       ⟨steps_of (by decide) (by decide) (by decide) (by decide) (by decide), by unfold mayJoin; decide, ⟨by decide, by decide, by decide, trivial⟩,
         by decide⟩, by unfold cellsApart; decide⟩
     fin_cases hn <;> exact ⟨steps_of (by decide) (by decide) (by decide) (by decide) (by decide), by unfold mayJoin; decide, trivial, by decide,
       by decide, by decide⟩)

/-- TreeSteps: a lane in each of the three routines. -/
theorem witness_twret (ph : WalkPhase) (h : ph = .enter ∨ ph = .leave ∨ ph = .prune 0) :
    let s := ttAt ph
    walkWord s [5] ∧ s.me.run.kind = .walk ∧ s.me.run.mask = (1 : BitVec 64) <<< (0 : Fin 64).val ∧
    lookOpt s.me.walks 0 = some { boundLane with phase := ph, child := 16 } ∧ dNum s s.me 0 2 = 1 ∧ (s.die 0).poison = [] ∧
    Mem.wf (s.die 0).mem = true ∧ frameIs s s.me 0 0 (rootFrame 0) ∧ s.waiters = [] ∧ (16 : Nat) < 2 ^ 35 ∧ 1 < 4 := by
  rcases h with rfl | rfl | rfl <;> unfold walkWord allocated frameIs <;> decide

/-- TreeSteps and TreeCuts: `twret`, `twstop` and `twcut` of a lane outside a walk that has no bound object. -/
theorem witness_outside : walkWord ts [4, 5] ∧ outside ts ∧ lockFree ts ∧ ts.me.walks = [] ∧ (∀ x, lookOpt ts.me.walks 0 ≠ some x) := by
  unfold walkWord allocated outside lockFree; exact ⟨by decide, by decide, by decide, by decide, fun x h => by cases h⟩

/-- A stopped walk with the child mask `p` in its one frame, and s1 the place of a new object. -/
noncomputable def tcut (p : Byte) : State :=
  let s := after (exec .twstop tt2)
  (s.setDie 0 { s.die 0 with mem := memWrite (s.die 0).mem 36 p }).setMe ((s.me.setS 1 0x400).setV 6 0 1)

/-- TreeCuts: a cut with nothing pending, and with one pending child. -/
theorem witness_cut (p : Byte) (h : p = 0 ∨ p = 2) :
    let s := tcut p
    let w := s.me
    walkWord s [4, 6] ∧ outside s ∧ lanes (active w) = [0] ∧ lookOpt w.walks 0 = some { boundLane with phase := .idle, child := 1 } ∧
    dNum s w 4 1 ≠ 1 ∧ dNum s w 0 2 = 1 ∧ (w.rv 6 0).toNat = 1 ∧ (w.rs 1).toNat % 8 = 0 ∧ (w.rs 1).toNat + objSize 4 ≤ w.seg.d.limit.toNat ∧
    0 + objSize 4 ≤ (w.rs 1).toNat ∧ lockFree s ∧ dSound s w ∧ frameIs s w 0 0 { rootFrame 0 with pend := p.toNat } := by
  rcases h with rfl | rfl <;> unfold walkWord allocated outside frameIs dSound lockFree <;> decide

/-- TreeCuts: objects to adopt: that stopped one, an active one, and one of zeros, which does not fit the slot. -/
theorem witness_adopt :
    (let s := tcut 0
     walkWord s [4, 31] ∧ outside s ∧ lanes (active s.me) = [0] ∧ (s.me.rs 0).toNat = 0 ∧ dNum s s.me 5 1 = 0 ∧ (lookOpt s.me.slots 0).isSome = true ∧
     lockFree s ∧ dSound s s.me ∧ dNum s s.me 4 1 = 3 ∧ dNum s s.me 2 2 = 4 ∧ dNum s s.me 0 2 = 1) ∧
    (let s := { tt 0 with dies := tt2.dies }
     walkWord s [4, 31] ∧ outside s ∧ lanes (active s.me) = [0] ∧ dNum s s.me 4 1 = 1 ∧ dSound s s.me) ∧
    (let s := tt 0
     dNum s s.me 4 1 ≠ 1 ∧ dNum s s.me 2 2 ≠ 4) := by
  unfold walkWord allocated outside dSound lockFree; decide
/-! ## Witnesses: graces, tasks, privileged words -/

/-- GraceInstructions: depth 0, 1 and 255; room in the frog queue, and none; a grace that has completed, and one that has not. -/
theorem witness_grace_words :
    graceWord ts ∧ noneSeen ts.me = true ∧ nothingPending ts true ∧ nothingPending ts false ∧ mayQuiet ts ∧ ts.me.sr.rdep = 0 ∧ (wv (fun w => { w with sr := { w.sr with rdep := 255 } })).me.sr.rdep = 255 ∧
    (wv (fun w => { w with sr := { w.sr with rdep := 1 } })).me.sr.rdep ≠ 0 ∧ (ts.domain (domainNum ts ts.me .pkg)).frogs.length < 4096 ∧
    graceReached (ts.domain (domainNum ts ts.me .pkg)).c ((ts.me.rs 0).truncate 32) ∧
    ¬ graceReached (ts.domain (domainNum ts ts.me .pkg)).c (((wv (·.setS 1 1)).me.rs 1).truncate 32) := by
  unfold graceWord nothingPending graceReached mayQuiet; decide

theorem witness_full_frogs :
    4096 ≤ ((ts.setDomain 8 { Domain.reset with frogs := List.replicate 4096 ⟨0, 0, 0⟩ }).domain (domainNum ts ts.me .pkg)).frogs.length := by
  rw [show domainNum ts ts.me .pkg = 8 by decide, State.domain, State.setDomain]
  show 4096 ≤ (List.replicate 4096 (⟨0, 0, 0⟩ : Frog)).length
  exact Nat.le_of_eq List.length_replicate.symm

/-- The domain .pkg of ASID 1 with a grace in progress, held by `held`. -/
def tg (held : List Nat) (pending : Bool) : State :=
  { ts.setDomain 8 { Domain.reset with now := some ⟨held, 0, false⟩, pending } with time := 10000001 }

/-- The same with one frog, whose grace has completed, and a freed ring of 4 entries at address 0x40000 with `put` entries in it. -/
def tf (n : Byte) : State :=
  ({ ts with gddr := memWrite ts.gddr 0x240000 n }).setDomain 8 { Domain.reset with frogs := [⟨0x1234, 5, 0⟩], ring := some (0x40000, 2) }

theorem got_of {x : Got} {bs : List Byte} (h : (match x with
    | .ok b => decide (b = bs)
    | _ => false) = true) : x = .ok bs := by
  cases x with
  | ok b => rw [of_decide_eq_true h]
  | _ => cases h

/-- GraceActs: a grace that nobody holds, alone and with another pending; one that is held, and slow; no grace. -/
theorem witness_graces :
    ((tg [] false).asid 1).retiring = [] ∧ ((tg [] false).domain 8).now = some ⟨[], 0, false⟩ ∧ ((tg [] false).domain 8).frogs = [] ∧
    ((tg [] true).domain 8).pending = true ∧ ((tg [0] false).domain 8).now = some ⟨[0], 0, false⟩ ∧ (ts.domain 8).now = none ∧
    ((tg [0] false).partn ((tg [0] false).asid 1).part).gwarn.toNat ≠ 0 ∧
    ((tg [0] false).partn ((tg [0] false).asid 1).part).gwarn.toNat < (tg [0] false).time - 0 ∧ ts.repl = [] := by decide

/-- GraceActs: a slow grace that the one wave holds, on a die whose ring has room; that wave is resident, or swapped out. -/
theorem witness_slow_grace :
    let s := (tg [0] false).setDie 0 { Die.reset with relBase := 0x40000, relSize := 6 }
    (s.domain 8).now = some ⟨[0], 0, false⟩ ∧ (s.partn (s.asid 1).part).gwarn.toNat ≠ 0 ∧ (s.partn (s.asid 1).part).gwarn.toNat < s.time - 0 ∧
    ringSound s ((graceDie s 8).getD ((s.partn (s.asid (8 / 8)).part).physDie 0)) ∧ firstHeld s [0] 0 ∧ swapped s 0 = false ∧
    swapped (s.setGang 0 { testGang with place := none }) 0 = true := by
  unfold ringSound ringRoom firstHeld; decide

set_option maxRecDepth 100000 in
/-- GraceActs: posting to a ring with room, and to a full one. -/
theorem witness_posting :
    ((tf 0).domain 8).frogs = [⟨0x1234, 5, 0⟩] ∧ ((tf 0).domain 8).ring = some (0x40000, 2) ∧ ((tf 0).domain 8).stuck = false ∧
    ((tf 0).domain 8).stall = none ∧ graceReached ((tf 0).domain 8).c 0 ∧ (tf 0).repl = [] ∧
    (tf 0).got ((tf 0).qtr 8) .load 0x40000 8 = .ok [0, 0, 0, 0, 0, 0, 0, 0] ∧
    (∃ s1 ps, (tf 0).reach ((tf 0).qtr 8) .store false (splitPages 3 (0x40000 + 0x40 + 16 * (0 % 2 ^ 2)) 16 ++ splitPages 3 0x40000 4) = .ok (s1, ps)) ∧
    (tf 4).got ((tf 4).qtr 8) .load 0x40000 8 = .ok [4, 0, 0, 0, 0, 0, 0, 0] ∧ 2 ^ 2 ≤ (4 + 2 ^ 32 - field [4, 0, 0, 0, 0, 0, 0, 0] 4 4) % 2 ^ 32 :=
  ⟨rfl, rfl, rfl, rfl, by unfold graceReached; decide, rfl, got_of (by decide), ⟨_, _, rfl⟩, got_of (by decide), by decide⟩

/-- GraceActs: a commit of one byte, locked and not; a wave that was held at the last one and can issue, and none. -/
theorem witness_commit :
    let x : ReplCommit := { wave := some 0, note := ts.me.storeNote 0, addr := 0x300000, key := [], bytes := [1], bad := false, locked := true }
    let s := { ts with repl := [x] }
    s.repl = x :: [] ∧ x.locked = true ∧ x.bad = false ∧ x.bytes ≠ [] ∧ x.addr % 32 + x.bytes.length ≤ 32 ∧ x.addr < 2 ^ 38 ∧ s.gddrPoison = [] ∧
    Mem.wf s.gddr = true ∧ (∀ n ∈ s.relief, s.canRetry n = false) ∧
    (∃ n ∈ ({ s with relief := [.wave 0] } : State).relief, ({ s with relief := [.wave 0] } : State).canRetry n = true) := by
  decide

/-- The bytes of a legal record of profile 1, one workgroup of one wave, one block: R146 by hand. -/
def recordBytes : List Byte :=
  List.replicate 18 0 ++ [1, 0, 0, 0, 0, 0, 1, 1, 64, 0, 1] ++ List.replicate 99 0 ++ [1] ++ List.replicate 127 0

/-- The machine with that record at the start of its .g segment, and a Stash share. -/
def tr (share : Nat) : State :=
  ({ ts with gddr := memWrites ts.gddr 0x300000 recordBytes }).setPartn 0 { testPart with cfg := { testPart.cfg with share } }

set_option maxRecDepth 100000 in
/-- TasksAndBlocks: `spawn` of it, with room and without; the traps; `join`; and the block pools. -/
theorem witness_spawn :
    waveWide (tr 8) 1 ∧ (tr 8).me.id.depth ≠ 8 ∧ ((tr 8).me.rs 0).toNat % 64 = 0 ∧ ((tr 8).me.rs 0).toNat + 256 ≤ (tr 8).me.seg.g.limit.toNat ∧ (tr 8).repl = [] ∧
    nothingPending (tr 8) true ∧
    (∃ s1 ps, (tr 8).reach (pastL1 (tr 8)) .load false (splitPages 3 ((tr 8).me.seg.g.base.toNat + 0) 256) = .ok (s1, ps) ∧
      (∀ x ∈ ps, (tr 8).piecePoisoned (pastL1 (tr 8)) x = false) ∧ ps.flatMap ((tr 8).pieceBytes (pastL1 (tr 8))) = recordBytes) ∧
    ((tr 8).stash = [] ∧ (tr 8).heirs = [] ∧ (tr 8).me.kids ≠ 65535 ∧ ((tr 8).partn 0).cfg.share = 8) ∧
    (tr 8).badRecord (taskRecordOf recordBytes) 1 0 = none ∧ ((tr 0).partn 0).cfg.share ≤ ((tr 0).stash.filter (fun t => t.part = 0)).length ∧
    (wv (fun w => { w with id := { w.id with depth := 8 } })).me.id.depth = 8 ∧ ((wv (·.setS 1 1)).me.rs 1).toNat % 64 ≠ 0 ∧
    (wv (·.setS 1 0x10000)).me.seg.g.limit.toNat < ((wv (·.setS 1 0x10000)).me.rs 1).toNat + 256 := by
  unfold waveWide nothingPending
  exact ⟨by decide, by decide, by decide, by decide, by decide, by decide, ⟨_, _, rfl, by decide, by decide⟩, by decide, by decide, by decide, by decide, by decide,
    by decide⟩

theorem witness_blocks :
    ts.me.kids = 0 ∧ noneSeen ts.me = true ∧ (wv (fun w => { w with kids := 1 })).me.kids ≠ 0 ∧ mayQuiet (wv (fun w => { w with kids := 1 })) ∧ (2 : Fin 4).val < ts.me.blocks.val ∧ (∀ e ∈ ts.me.walks, e.2.phase = .idle) ∧
    4 < ts.me.blocks.val + (1 : Fin 4).val ∧
    (let s := (wv (fun w => { w with blocks := 2 })).setGang 0 { testGang with pool := [(0, 1)] }
     mayQuiet s ∧ s.me.blocks.val ≤ (2 : Fin 4).val ∧ s.me.blocks.val + (1 : Fin 4).val ≤ 4 ∧ (1 : Fin 4).val ≤ poolSize s ∧ s.waiters = [] ∧ poolSize s < (2 : Fin 4).val) := by
  unfold mayQuiet; decide

/-- PrivilegedInstructions: both contexts; a segment that is legal, and one that is not; a gang that a halt has stopped and that is quiet, and one that
an error has begun to freeze. -/
theorem witness_privileged :
    ts.me.id.priv = true ∧ nothingPending ts true ∧ segmentLegal ts .q 0x100 0x300 ∧ ¬ segmentLegal ts .q 0x101 0x300 ∧ ts.repl = [] ∧
    (∀ e ∈ ts.waves, e.2.late = []) ∧ (wv (fun w => { w with id := { w.id with priv := false } })).me.id.priv = false ∧
    (let s := gg (fun g => { g with halt := some 0 })
     (s.gang 0).halt = some 0 ∧ (s.gang 0).kill = none ∧ s.quiet 0 = true ∧ ∀ m ∈ s.gangWaves 0, (s.wave m).tiles = []) ∧
    ((gg (fun g => { g with halt := some 0x20 })).gang (gg (fun g => { g with halt := some 0x20 })).me.id.gang).halt.getD 0 = 0x20 := by
  unfold nothingPending segmentLegal; decide

/-! ## Witnesses: queues, gangs -/

/-- A queue of ASID 1 whose descriptor, written out from R149, stands at 0x40000: ring at 0x40100, LOG2N 4, WIDX `w`, NOTIFYW `n`. -/
def tq (x : Queue) (w n : Byte) : State :=
  let d : List Byte := [0, 1, 4, 0, 0, 0, 0, 0, 4, 0, 0, 0, 0, 0, 0, 0, w, 0, 0, 0, 0, 0, 0, 0, n]
  let m := memWrites (memWrites (memWrites ts.gddr 0x240000 d) 0x240100 (bytesOfNat 8 0x100000)) 0x300000 recordBytes
  (({ ts with gddr := m }).setPartn 0 { testPart with cfg := { testPart.cfg with share := 8 } }).setQueue 5 x

def queue5 (mapped pending : Bool) : Queue := { Queue.none with desc := 0x40000, asid := 1, mapped, pending, dead := false }

def descriptor5 (w n : Byte) : List Byte :=
  [0, 1, 4, 0, 0, 0, 0, 0, 4, 0, 0, 0, 0, 0, 0, 0, w, 0, 0, 0, 0, 0, 0, 0, n] ++ List.replicate 39 0

set_option maxRecDepth 100000 in
/-- QueueActs: a mapped queue and an unmapped one; one that is due and one that is not; a slot with an entry, and with none. -/
theorem witness_queues :
    (let s := tq (queue5 false false) 1 0
     lookOpt s.queues 5 = some (queue5 false false) ∧ (s.partn 0).made = true ∧ (s.partn 0).ending = [] ∧ s.mappedQueues.length < 256 ∧
     slotReads s (queue5 false false) 0x40000 64 (descriptor5 1 0) ∧ ridx (descriptor5 1 0) ≠ widx (descriptor5 1 0) ∧ lookOpt s.queues 6 = none ∧
     slotWrites s (queue5 false false) 0x18 8 ∧ ∃ r ps, s.reach ⟨1, 0, 0, none⟩ .store true (splitPages 2 (0x40000 + 0x18) 8) = .ok (r, ps)) ∧
    (let s := { (tq (queue5 false false) 1 0) with gddr := memWrite (tq (queue5 false false) 1 0).gddr 0x3001 1, keyCmds := [⟨0, 1, 0, 0⟩] }
     s.reach ⟨1, 0, 0, none⟩ .store true (splitPages 2 (0x40000 + 0x18) 8) = .hold) ∧
    (let s := { (tq (queue5 false false) 1 0) with gddr := memWrite (tq (queue5 false false) 1 0).gddr 0x3000 0x15 }
     slotReads s (queue5 false false) 0x40000 64 (descriptor5 1 0) ∧
     ∃ c i, s.reach ⟨1, 0, (s.partn 0).physDie 0, none⟩ .store false (splitPages 2 (0x40000 + 0x18) 8) = .trap c i) ∧
    descriptorLegal (descriptor5 1 0) ∧ descriptorLegal (descriptor5 0 0) ∧
    (slotReads (tq (queue5 false false) 0 0) (queue5 false false) 0x40000 64 (descriptor5 0 0) ∧ field (descriptor5 0 0) 0x18 8 = 0 ∧
      ridx (descriptor5 0 0) = widx (descriptor5 0 0)) ∧
    (let s := tq (queue5 true true) 1 0
     let x := s.queue 5
     x = queue5 true true ∧ x.joining = false ∧ x.expired = false ∧ slotWrites s x 0x14 4 ∧ slotReads s x x.desc 64 (descriptor5 1 0) ∧ queueRoom s x.part ∧
     slotReads s x (ringEntry (descriptor5 1 0)) 8 (bytesOfNat 8 0x100000) ∧ slotReads s x 0x100000 256 recordBytes ∧
     s.badRecord (taskRecordOf recordBytes) x.asid x.part = none) := by
  unfold slotReads slotWrites descriptorLegal queueRoom
  exact ⟨⟨by decide, by decide, by decide, by decide, got_of (by decide), by decide, by decide, ⟨_, rfl⟩, ⟨_, _, rfl⟩⟩, rfl, ⟨got_of (by decide), _, _, rfl⟩, by decide, by decide,
    ⟨got_of (by decide), by decide, by decide⟩, by decide, by decide, by decide, ⟨_, rfl⟩, got_of (by decide), by decide, got_of (by decide), got_of (by decide), by decide⟩

/-- QueueActs: 256 mapped queues and one that wants a slot. `q0` is queue 0: empty for long, busy for long, or stalled. -/
def tslots (q0 : Queue) : State :=
  { (tq (queue5 false true) 1 0) with
    time := 200000
    queues := (0, q0) :: (1000, queue5 false true) :: (List.range 255).map (fun i => (i + 1, { queue5 true true with mapTime := 200000 })) }

set_option maxRecDepth 100000 in
theorem witness_slots_short :
    (let s := tslots (queue5 true false)
     s.slotsShort = true ∧ (s.queue 0).pending = false ∧ s.emptiest = some 0) ∧
    (let s := tslots { queue5 true false with upto := some 1 }
     s.slotsShort = true ∧ (s.queue 0).pending = false ∧ s.emptiest = none ∧ s.oldestMapped = some 0 ∧ (s.queue 0).stall = none) ∧
    (let s := tslots { queue5 true false with stall := some 1 }
     s.slotsShort = true ∧ s.emptiest = none ∧ s.oldestMapped = some 0 ∧ (s.queue 0).stall ≠ none) := by decide

/-- A task that waits in the Stash, with record `r`. -/
def waiting (r : TaskRecord) (gang : Option Nat) : Task :=
  { num := 7, record := r, task := 0x40, asid := 1, part := 0, depth := 0, priv := false, parent := none, insert := 0, unplaced := 0,
    target := none, gang, resident := false, relaunched := false, stall := none }

def smallRecord : TaskRecord := { TaskRecord.zero with profile := 1, wg := 1, waves := 1, vlreq := 8, vregs := 1, prio := 1, asid := 1, scratch := 256 }

set_option maxRecDepth 100000 in
/-- PlacementActs: a task that can be launched beside the resident gang; no task; a saved gang; a successor with room and without,
and one whose partition is being reset. -/
theorem witness_placement :
    (let s := { ts with stash := [waiting smallRecord none] }
     ∃ x ps, s.chosen 0 = some (waiting smallRecord none, x) ∧ s.taskPatches (waiting smallRecord none) none = .ok ps ∧ smallRecord.wg ≤ 4 ∧
       smallRecord.waves ≤ 16 ∧ x.base % 256 = 0 ∧ smallRecord.policy ≠ 2) ∧
    ts.chosen 0 = none ∧
    (let s := { (gg (fun g => { g with place := none, seq := 3 })) with stash := [waiting testRecord (some 0)] }
     (∃ x, s.chosen 0 = some (waiting testRecord (some 0), x)) ∧ (s.gang 0).live = true ∧ (s.wave 0).live = true ∧ ∀ e : Fin 4, e ≠ 0 → s.chosen e = none) ∧
    (let s := { tr 1 with heirs := [waiting smallRecord none] }
     s.heirs.find? (fun b => b.part = 0) = some (waiting smallRecord none) ∧ (s.partn 0).ending = [] ∧
     ((s.setPartn 0 { s.partn 0 with ending := [⟨some 9, true⟩] }).partn 0).ending ≠ [] ∧ (s.stash.filter (fun b => b.part = 0)).length < (s.partn 0).cfg.share) ∧
    (let s := { tr 0 with heirs := [waiting smallRecord none] }
     (s.partn 0).cfg.share ≤ (s.stash.filter (fun b => b.part = 0)).length) :=
  ⟨⟨_, _, rfl, rfl, by decide, by decide, by decide, by decide⟩, by decide, ⟨⟨_, rfl⟩, by decide, by decide, by decide⟩, by decide, by decide⟩

/-- PlacementActs: a task that needs the whole scratchpad and has waited for 20 µs; and a gang that is being pre-empted. -/
theorem witness_preemption :
    (let t := waiting { smallRecord with scratch := 0x300000 } none
     let s := { ts with stash := [t], time := 20000 }
     s.stash.find? (fun b => b.num = t.num && b.ready) = some t ∧ s.spotFor t = none ∧ 20000 ≤ s.time - t.unplaced ∧ s.preempting t.num = false ∧
     s.victim t = some (0, testGang)) ∧
    (let s := gg (fun g => { g with stopping := some 7, stash := 9 })
     (s.gang 0).place = some (0, 0, [0]) ∧ (s.gang 0).live = true ∧ (s.gang 0).stopping ≠ none ∧ (s.gang 0).frozen = false ∧ (s.gang 0).kill = none ∧
     (s.gang 0).halt = none ∧ s.quiet 0 = true ∧ s.stash.find? (fun b => b.num = (s.gang 0).stash) = none) := by decide

/-- GangEnds: a gang whose wave has exited, with a completion record on a host page; a gang that is killed, under policy 1 and under policy 2 with its
task in the Stash; a wave that has waited; a packet to fetch. -/
theorem witness_gang_ends :
    (let s : State := { (gg (fun g => { g with record := { g.record with compl := 0x600000 } })) with waves := [], gddr := memWrites ts.gddr 0x3018 (bytesOfNat 8 0x1000008D) }
     (s.gang 0).live = true ∧ (s.gang 0).place.isSome = true ∧ (s.gang 0).frozen = false ∧ (s.gang 0).kill = none ∧
     (∀ e ∈ s.waves, e.2.live = true → e.1 / 64 ≠ 0) ∧ s.drains 0 = false ∧ s.repl = [] ∧
     mirrorsDone s (s.gang 0) ∧ (s.partn 0).ending = [] ∧ (s.gang 0).record.nsucc = 0 ∧ (s.gang 0).record.compl ≠ 0 ∧
     s.complBusy 1 0 (s.gang 0).record = false ∧
     (∃ r, s.reach ⟨1, 0, (s.partn 0).physDie 0, none⟩ .store false (splitPages 2 0x600000 32) = .ok (r, [(.host 0x10000000, 32)])) ∧ Mem.wf s.host = true) ∧
    (let s := gg (fun g => { g with kill := some (0x203, 1) })
     (s.gang 0).kill = some (0x203, 1) ∧ s.killReady 0 = true ∧ (1 : BitVec 8) ≠ 2 ∧ (s.partn (s.gang 0).part).ending = []) ∧
    (let s := { (gg (fun g => { g with kill := some (0x203, 2), stash := 7 })) with stash := [waiting smallRecord (some 0)] }
     s.killReady 0 = true ∧ (s.partn (s.gang 0).part).ending = [] ∧ s.stash.find? (fun b => b.num = (s.gang 0).stash) = some (waiting smallRecord (some 0))) ∧
    (ts.gang 0).kill = none ∧
    (let s := wv (fun w => { w with ready := 4096 })
     s.canIssue 0 = true ∧ 4096 ≤ (s.wave 0).ready ∧ 0 ∉ (s.core (s.wave 0).id.place).ageq) ∧ (ts.wave 0).ready < 4096 ∧
    ∃ w s1 p, (ts.wave 0).pick = some w ∧ w.run.buf = none ∧ ({ ts.setWave 0 w with cur := 0 } : State).fetch = .ok (s1, p) :=
  ⟨⟨by decide, by decide, by decide, by decide, by decide, by decide, by decide, fun _ _ _ _ u hu => absurd hu List.not_mem_nil, by decide, by decide, by decide,
    by decide, ⟨_, rfl⟩, by decide⟩, by decide, by decide, by decide, by decide, by decide, ⟨_, _, _, rfl, rfl, rfl⟩⟩
/-! ## Witnesses: errors, reliability, the host, start-up, the mailbox -/

/-- The machine with a reliability ring of 64 records at 0x1000000 on die 0, and the die changed by `f`. -/
def te (f : Die → Die) : State := ts.setDie 0 (f { Die.reset with relBase := 0x40000, relSize := 6 })

/-- ErrorActs: an error not yet held and one that is; a ring with room; each kind of site, and one of a wave and of a gang that are not there; a granule
that does not meet the record; a gang for which nothing has decided. -/
theorem witness_errors :
    (let h : HeldError := { loc := dieLoc 0 0 0, addr := 0x10, time := 0, count := 1, data := 0, synd := 0 }
     let s := te (fun d => { d with held := [h] })
     (s.die 0).held[0]? = some h ∧ ringRoom s 0 ((s.die 0).held.filter (fun x => x.loc = h.loc)).length ∧ (s.die 0).held = [] ++ h :: []) ∧
    ((te id).die 0).held[0]? = none ∧
    (ringSound (te id) (siteDie (te id) (.dieMem 0 0x20)) ∧ ringSound (te id) (siteDie (te id) (.scratch 0 0 0x20)) ∧
      ringSound (te id) (siteDie (te id) (.gddr 0x2000)) ∧ ringSound (te id) (siteDie (te id) (.register 0 5 0)) ∧
      ringSound (te id) (siteDie (te id) (.control 0 5 0))) ∧
    ((te id).wave 0).live = true ∧ undecided (te id) ((te id).wave 0).id.gang ∧ undecided (te id) 0 ∧
    0x2000 / 32 * 32 + 32 ≤ recordAddr (te id) (siteDie (te id) (.gddr 0x2000)) 0 ∧ (ts.wave 9).live = false ∧ (ts.gang 9).live = false := by
  unfold ringSound ringRoom undecided; decide

/-- A `tmma` of F32 elements in flight, 1 × 6 × 1, with sums into accumulator 1. -/
def sumCommand : TileCmd :=
  { num := 5, op := .mma, word := 0, pc := 0, id := 3, deps := [], base := 0, geom := [9, 1, 6, 1, 8, 8, 8, 1, 64], cvt := 0, rows := 1, next := 0,
    flags := 0, lock := false, held := none }

/-- The unit that runs it: element 5 of its accumulator is 1, and so is the weight of column 5. -/
def sumUnit : Core :=
  { Core.reset false with
    owner := some 0
    active := { Bank.empty with complete := true, lvk := 1, lvn := 6, w := [(5, 0x3F800000)] }
    acc := (Core.reset false).acc.set 1 { Accum.dead with live := true, el := [(5, 0x3F800000)] } }

/-- ErrorActs: a wave whose buffered packet begins with `vfadd v1, v2, v3`, lane 5 adding 1 and 1, whose result 2 has the shadow 8, and one
whose shadow is 2 also; and a wave with a `tmma` in flight that adds 1 times 1 to 1, in a unit that it owns, and without. -/
theorem witness_shadow :
    (let s := (te id).setMe { (testWave.setV 2 5 0x3F800000).setV 3 5 0x3F800000 with
       run := { testWave.run with buf := some ⟨0x2A110C00, 0, 0⟩ } }
     ringSound s (s.wave 0).id.place.die ∧ (s.wave 0).live = true ∧ s.shadowed 0 (5 : BitVec 16).toNat 0x4100000040000000 = true ∧
     s.shadowed 0 (5 : BitVec 16).toNat 0x4000000040000000 = false) ∧
    (let s := (((te id).setMe { testWave with tiles := [sumCommand] }).setCore .zero sumUnit).setQuad 0 0
       { ts.quad 0 0 with scratch := memWrites [] 0 (bytesOfNat 4 0x3F800000) }
     ringSound s (s.wave 0).id.place.die ∧ (s.wave 0).live = true ∧ s.arrayShadowed 0 1 (5 : BitVec 16).toNat 0x4100000040000000 = some sumCommand) ∧
    ts.arrayShadowed 0 1 (5 : BitVec 16).toNat 0x4100000040000000 = none := by
  unfold ringSound ringRoom; decide

/-- ReliabilityActs: a wait at a scope barrier that has outlasted its watchdog, and one that has not; a link with 16, 15 and no failed replays; a test that can
begin, one that waits for a gang, and one that is running. -/
theorem witness_reliability :
    (let s (time : Nat) := { (te id).setMe { testWave with wait := .bar .core 3 0, sr := { testWave.sr with twd := 100 } } with time }
     (s 101).me.live = true ∧ ((s 101).gang 0).runs = true ∧ (s 101).me.wait = .bar .core 3 0 ∧ (s 101).me.sr.twd ≠ 0 ∧ undecided (s 101) 0 ∧
     (s 101).me.sr.twd.toNat < (s 101).time - 0 ∧ ringSound (s 101) 0 ∧ (s 100).time - 0 ≤ (s 100).me.sr.twd.toNat ∧
     ∀ e ∈ (s 100).me.run :: (s 100).me.rest, e.wait = none) ∧
    (let s : State := { te id with edges := [(1, ⟨16, false⟩), (16, ⟨15, false⟩)] }
     (edgeOf s (linkNum (.edge 0 1))).down = false ∧ 16 ≤ (edgeOf s (linkNum (.edge 0 1))).failed ∧ 15 ≤ (edgeOf s (linkNum (.host 0))).failed ∧
     (edgeOf s (linkNum (.host 0))).down = false ∧ ringSound s 0 ∧ (edgeOf s (linkNum (.edge 0 2))).failed < 15 ∧ (0 : Fin 4) < 1) ∧
    ((ts.die 0).iftBusy = false ∧ (ts.die 0).iftQuad.toNat = (0 : Fin 36).val) ∧ ((te (fun d => { d with iftBusy := true })).die 0).iftBusy = true ∧
    (let s := ts.setQuad 0 1 { Quad.reset with testReq := true }
     (s.quad 0 1).testReq = true ∧ (∀ p : Fin 36, p < 1 → (s.quad 0 p).testReq = false) ∧
     ∀ e ∈ s.gangs, e.2.live = true → ∀ cs, e.2.place ≠ some (0, 1, cs)) ∧
    (let s := ts.setQuad 0 0 { Quad.reset with testReq := true }
     (s.quad 0 0).testReq = true ∧ ∃ e ∈ s.gangs, e.2.live = true ∧ ∃ cs, e.2.place = some (0, 0, cs)) ∧
    (let s := (te id).setQuad 0 1 { Quad.reset with testing := true }
     (s.quad 0 1).testing = true ∧ (∀ p : Fin 36, p < 1 → (s.quad 0 p).testing = false) ∧ ringSound s 0) := by
  unfold ringSound ringRoom undecided
  refine ⟨by decide, by decide, by decide, by decide, ⟨by decide, by decide, fun e he _ cs h => ?_⟩, ⟨by decide, _, List.mem_cons_self, by decide, [0], rfl⟩, by decide⟩
  cases he with
  | head => cases h
  | tail _ h => cases h

/-- ReliabilityActs: a partition over dies 0 and 1 that an edge going down takes with it. -/
theorem witness_edge_down :
    let s : State := { (ts.setPartn 0 { testPart with cfg := { testPart.cfg with quads := [(0, 0), (1, 0)] } }) with edges := [(1, ⟨16, false⟩)] }
    (s.gang 0).live = true ∧ (s.gang 0).kill = none ∧ (s.partn (s.gang 0).part).made = true ∧ (0 : Fin 4) ∈ (s.partn 0).dieList ∧
    (1 : Fin 4) ∈ (s.partn 0).dieList ∧ 16 ≤ (edgeOf s (linkNum (.edge 0 1))).failed ∧ (edgeOf s (linkNum (.edge 0 1))).down = false ∧
    (edgeOf ts (linkNum (.edge 0 1))).failed < 16 ∧
    (let z := { (te id) with parts := [], edges := [(1, ⟨16, false⟩)] }
     (∀ p : Fin 8, (z.partn p).made = false) ∧ ringSound z 0) := by unfold ringSound ringRoom; decide

/-- HostActs: an access to GDDR-7, to a notify page, to a register, and to host memory; key commands that are under way and not; words for
IFT_CTL that name a quad and that name none, with START and without, and for KCMD with each OP. -/
theorem witness_host :
    (0x1000 + [1, 2].length ≤ 2 ^ 38 ∧ ts.gddrPoison = [] ∧ Mem.wf ts.gddr = true) ∧
    (let s := ts.setQueue 5 (queue5 true false)
     lookOpt s.queues 5 = some (queue5 true false) ∧ (queue5 true false).mapped = true ∧ (5 : Nat) < 65536) ∧
    (0x108 % 8 = 0 ∧ 0x108 < 2 ^ 16) ∧ 0x0128 ∉ writtenOffsets ∧ (6 : DWord).toNat % 32 = 6 ∧ ((1 : BitVec 64).getLsbD 0 = true ∧ (2 : BitVec 64).getLsbD 0 = false) ∧
    keyBusyOn (te (fun d => { d with kbusy := true })) 0 ∧ ¬ keyBusyOn ts 0 ∧
    ((0x123 : BitVec 64).toNat % 64 < 36 ∧ 36 ≤ (0x24 : BitVec 64).toNat % 64 ∧ (0x123 : BitVec 64).getLsbD 8 = true ∧ (0x24 : BitVec 64).getLsbD 8 = false) ∧
    (∀ op : Fin 4, (BitVec.ofNat 64 (2 ^ 17 * op.val)).toNat / 2 ^ 17 % 4 = op.val) := by
  unfold keyBusyOn; decide

/-- HostActs: commands to complete: a load of a good key and of one with equal halves into a free slot, and commands for a slot that is owned. -/
theorem witness_key_commands :
    (let c : KeyCmd := { die := 0, op := 1, part := 2, slot := 9 }
     let s : State := { te (fun d => { d with kdata := (Vector.replicate 8 0).set 0 1 }) with keyCmds := [c], keys := [(4, { owner := 2, key := [] })] }
     s.keyCmds = c :: [] ∧ lookOpt s.keys c.slot = none ∧ ¬ ((s.die 0).kdata[0] = (s.die 0).kdata[4]) ∧ lookOpt s.keys 4 = some { owner := 2, key := [] }) ∧
    ((ts.die 0).kdata[0] = (ts.die 0).kdata[4] ∧ (ts.die 0).kdata[1] = (ts.die 0).kdata[5] ∧ (ts.die 0).kdata[2] = (ts.die 0).kdata[6] ∧
      (ts.die 0).kdata[3] = (ts.die 0).kdata[7]) := by decide

/-- A machine whose die 0 is in full service. -/
def tz : State := te (fun d => { d with state := 3 })

set_option maxRecDepth 100000 in
/-- StartUp: die 0 alone in early service, a configuration that keeps the rules and one that does not, and a partition that the failing die takes along;
full service has begun, or not: then die 0 is still at its test, or no die serves, or one does; and a die that joins it. -/
theorem witness_full_service :
    let s : State := { (te (fun d => { d with state := 2 })) with gangs := [], waves := [] }
    let c : PartConfig := { testPart.cfg with capM := 8, capN := 8, capK := 8, share := 4096 }
    let s1 := s.setState 0 3
    let joins : State := { ((s1.setPartn 0 { testPart with cfg := c }).setState 1 3) with full := true }
    let more : PartConfig := { c with quads := [(0, 0), (1, 0)] }
    (s1.full = false ∧ 3 ≤ (s1.die 0).state.toNat ∧ (∃ d, (s1.die d).state = 3)) ∧
    (s.full = false ∧ (s.die 0).state.toNat < 3 ∧ ∀ d, ((s.setState 0 4).die d).state ≠ 3) ∧
    (joins.full = true ∧ (joins.partn 0).made = true ∧
      joins.cfgOk { c with quads := c.quads ++ (joins.servingQuads more.quads).filter (fun e => !(e ∈ c.quads)) } = true ∧ (joins.partn 0).cfg = c) ∧
    (s.die 0).state = 2 ∧ s1.cfgOk (s1.fullConfig c) = true ∧ s1.keepsGangs (s1.fullConfig c) = true ∧
    ¬ (s1.cfgOk (s1.fullConfig PartConfig.none) = true ∧ s1.keepsGangs (s1.fullConfig PartConfig.none) = true) ∧ (s.partn 0).made = true ∧
    (∃ e ∈ (s.partn 0).cfg.quads, e.1 = 0) ∧ (∀ e ∈ (s.partn 0).cfg.quads, e.1 = 0) ∧
    (∃ e ∈ ((s.setPartn 1 { testPart with cfg := { testPart.cfg with quads := [(0, 1), (1, 1)] } }).partn 1).cfg.quads, e.1 ≠ 0) := by decide

/-- StartUp: a die in each STATE that the statement names, and firmware that runs, and does not. -/
theorem witness_start_up :
    (ts.die 0).state = 0 ∧ (tz.die 0).state ≠ 0 ∧ (tz.die 0).state ≠ 2 ∧ ((te (fun d => { d with state := 2 })).die 0).state = 2 ∧
    tz.firmware = true ∧ ts.firmware = false ∧ (List.replicate 48 (0 : Byte)).length = 48 ∧ (∀ d, (tz.die d).fwMeas.length ≤ 48) ∧ (tz.partn 0).made = true := by
  decide

/-- The machine with a legal queue descriptor at 0x40000, in full service. -/
def ty : State := { tz with gddr := (tq Queue.none 0 0).gddr }

set_option maxRecDepth 100000 in
/-- MailboxServices: each request's partition, ASID, queue, window, core and configuration; a partition with 16 windows; and, of configurations that are
refused, one whose range has another partition's ASID and one of 65,536 ASIDs. -/
theorem witness_mailbox :
    (ty.firmware = true ∧ (ty.partn 0).made = true ∧ (ty.asid 1).live = true ∧ (ty.asid 1).part = 0 ∧ lookOpt ty.queues 0 = none ∧
      ty.got ⟨1, 0, (ty.partn 0).physDie 0, none⟩ .load 0x40000 64 = .ok (descriptor5 0 0) ∧ descriptorLegal (descriptor5 0 0)) ∧
    (let s := tz.setQueue 5 (queue5 false false)
     lookOpt s.queues 5 = some (queue5 false false) ∧ (queue5 false false).mapped = false ∧ lookOpt s.queues 6 = none) ∧
    (let s := tz.setPartn 0 { testPart with cfg := { testPart.cfg with asidN := 4 } }
     (s.partn 0).cfg.asidLo ≤ 2 ∧ 2 < (s.partn 0).cfg.asidLo + (s.partn 0).cfg.asidN ∧ (s.asid 2).live = false) ∧
    (∀ e ∈ tz.domains, e.1 / 8 = 1 → e.2.now = none ∧ e.2.frogs = []) ∧
    (let w : PutWindow := { srcMod := 1, srcPart := 0, die := 0, base := 0x5FFFFC0, size := 64 }
     let s := tz.setPartn 0 { testPart with windows := [w] }
     (s.partn 0).windows.length < 16 ∧ w.die.val < (s.partn 0).ndie ∧ w.base % 64 = 0 ∧ w.size % 64 = 0 ∧ w.base + w.size ≤ 0x6000000 ∧ 0 < (s.partn 0).windows.length ∧
      (s.partn 0).windows.length ≤ 1 ∧ 16 ≤ ((s.setPartn 0 { testPart with windows := List.replicate 16 w }).partn 0).windows.length) ∧
    (22 ≤ (22 : BitVec 16).toNat ∧ (tz.die 0).fused.getLsbD 5 = false ∧ ((te (fun d => { d with state := 3, fused := 1 })).die 0).fused.getLsbD 0 = true) ∧
    (let c : PartConfig := { PartConfig.none with part := 1, quads := [(0, 1)], asidLo := 16, asidN := 4, share := 4096, capM := 8, capN := 8, capK := 256 }
     noResidents tz 1 ∧ ({ tz with full := true } : State).full = true ∧ tz.full = false ∧ liveInRange tz c ∧ ¬ liveInRange tz { c with asidLo := 1 } ∧
     c.asidN ≤ 65535 ∧ 65536 ≤ ({ c with asidN := 65536 } : PartConfig).asidN ∧ (tz.die 0).state = 3 ∧ c.quads ≠ [] ∧ tz.disjointCfg c = true ∧ tz.shareFits c = true ∧
     c.asidLo + c.asidN ≤ 65536 ∧ ∀ n ∈ [c.capM, c.capN, c.capK], n ∈ [8, 16, 32, 64, 128, 256]) ∧ tz.repl = [] ∧ (∀ e ∈ tz.waves, e.2.late = []) ∧
    (ty.gddrPoison = [] ∧ ∃ r, ty.reach ⟨1, 0, (ty.partn 0).physDie 0, none⟩ .store false (splitPages 2 (0x40000 + 9) 3) = .ok r ∧
      ∀ x ∈ r.2, x.1.notifies = none) ∧
    (∃ e ∈ ({ PartConfig.none with quads := [(1, 0)] } : PartConfig).quads, (tz.die e.1).state ≠ 3) := by
  unfold descriptorLegal noResidents liveInRange
  exact ⟨⟨by decide, by decide, by decide, by decide, by decide, got_of (by decide), by decide⟩, by decide, by decide, by decide, by decide, by decide, by decide,
    by decide, by decide, ⟨by decide, _, rfl, by decide⟩, by decide⟩

/-- A machine in full service with `n` ASIDs that live. -/
def manyAsids (n : Nat) : State :=
  { tz with asids := (List.range n).map (fun i => (i, { live := true, root := 0, part := 0, save := 0, retiring := [] })) }

theorem live_manyAsids (n : Nat) : ((manyAsids n).asids.filter (fun e => e.2.live)).length = n := by
  have h : ∀ e ∈ (manyAsids n).asids, e.2.live = true := fun e he => by
    obtain ⟨i, -, rfl⟩ := List.mem_map.1 he; rfl
  rw [List.filter_eq_self.2 h]; exact (List.length_map _).trans List.length_range

/-- MailboxServices: 1,024 ASIDs that live. -/
theorem witness_all_asids : 1024 ≤ ((manyAsids 1024).asids.filter (fun e => e.2.live)).length := Nat.le_of_eq (live_manyAsids 1024).symm

set_option maxRecDepth 100000 in
/-- MailboxControl: a partition with a gang and one without; a domain without frogs; a stalled wave's request; a gang that is frozen and one that is not. -/
theorem witness_mailbox_control :
    (tz.firmware = true ∧ (tz.partn 0).made = true ∧ (tz.gang 0).live = true ∧ (tz.gang 0).part = 0 ∧ (tz.gang 0).kill = none ∧ tz.waiters = []) ∧
    (let s : State := { tz with gangs := [], waves := [] }
     noGangs s 0 ∧ s.stash = [] ∧ s.queues = [] ∧ s.waiters = []) ∧
    ((tz.asid 1).retiring = [] ∧ 0x40000 % 64 = 0 ∧ 4 ≤ 12 ∧ (tz.domain 8).frogs = [] ∧ (0 : Nat) < (tz.partn 0).ndie ∧ (tz.partn 0).ndie ≤ 1) ∧
    (tz.gddrPoison = [] ∧ ∃ r, tz.reach (tz.qtr 8) .store false (splitPages 2 (0x40000 + 8) 56) = .ok r ∧ ∀ x ∈ r.2, x.1.notifies = none) ∧
    (let s : State := { tz with gddr := memWrites tz.gddr 0x3018 (bytesOfNat 8 0x1000008D) }
     (∃ r, s.reach (s.qtr 8) .store false (splitPages 2 (0x600000 + 8) 56) = .ok (r, [(.host 0x10000008, 56)])) ∧ Mem.wf s.host = true) ∧
    (let r : Request := { tag := 3, who := .wave 0, asid := 1, part := 0, kind := 1, cause := 6, va := 0x8000000, task := 0 }
     let s : State := { tz.setMe { testWave with wait := .service 3, sr := { testWave.sr with thb := 0x60 } } with requests := [r] }
     s.requests.find? (fun x => x.tag = r.tag) = some r ∧ (s.wave 0).live = true ∧ (s.wave 0).wait = .service r.tag ∧ (s.wave 0).mode = .normal ∧
     (s.wave 0).sr.thb ≠ 0 ∧ (∀ q ∈ s.requests, q.tag ≠ 4) ∧ (s.gang (s.wave 0).id.gang).place ≠ none ∧
     ((s.setGang 0 { testGang with place := none }).gang (s.wave 0).id.gang).place = none) ∧
    (let s := tz.setGang 0 { testGang with frozen := true, task := 0x40 }
     (s.gang 0).live = true ∧ (s.gang 0).part = 0 ∧ (s.gang 0).task = 0x40 ∧ (s.gang 0).frozen = true ∧
     (∀ e ∈ s.gangs, ¬ (e.2.live = true ∧ e.2.part = 0 ∧ e.2.task = 0x80)) ∧ ∃ e ∈ tz.gangs, e.2.live = true ∧ e.2.part = 0 ∧ e.2.task = 0 ∧ e.2.frozen = false) := by
  unfold noGangs
  exact ⟨by decide, by decide, by decide, ⟨by decide, _, rfl, by decide⟩, ⟨⟨_, rfl⟩, by decide⟩, by decide, by decide⟩
/-! ## WellFormed: an ill-formed term for each check -/

/-- R84, R138 and R35: no store to .c, and no unsigned store; R35: a call keeps its link; R38: `strip` names at most 4 pairs that exist;
R127 and R130: a mask of their own; R163: at least one block. -/
theorem test_ill_formed :
    [Instr.st 1 2 .c .w 0, .st 1 2 .g .wu 0, .st 1 2 .g .bu 0, .st 1 2 .g .hu 0, .call 0 1, .strip 1 0 5 .vl 0, .strip 1 61 4 .vl 0, .vsel 1 2 3 0 false false,
     .vcompress 1 2 0 false, .vexpand 1 2 0 false, .vstW 1 2 .c 0 .unit, .vstH 1 2 .c 0 .unit, .vstB 1 2 .c 0 .unit, .rgive 0, .rclaim 0].all
      (fun i => !i.wellFormed) = true := by decide

/-- Their neighbours are well-formed. -/
theorem test_well_formed :
    [Instr.st 1 2 .g .w 0, .call 1 1, .strip 1 60 4 .vl 0, .vsel 1 2 3 1 false false, .vcompress 1 2 1 false, .vexpand 1 2 1 false, .vstW 1 2 .q 0 .unit,
     .rgive 1, .rclaim 3].all Instr.wellFormed = true := by decide

/-! ## Single steps, each result worked out by hand from the rule that its comment names -/

/-- What holds after an instruction that answers a next state. -/
def gives (o : Out) (p : State → Bool) : Bool :=
  match o with
  | .next t => p t
  | _ => false

/-- The test machine with s1 and s2. -/
def ab (a b : DWord) : State := wv (fun w => (w.setS 1 a).setS 2 b)

/-- R78: the wrap, the sign and the arguments of division. -/
theorem test_scalar_arithmetic :
    gives (exec (.add 3 1 2) (ab (-1) 2)) (fun t => t.me.rs 3 = 1 ∧ t.me.run.pc = 4) = true ∧
    gives (exec (.mulh 3 1 2) (ab (-1) 5)) (fun t => t.me.rs 3 = -1) = true ∧
    gives (exec (.div 3 1 2) (ab (-7) 2)) (fun t => t.me.rs 3 = -3) = true ∧
    gives (exec (.rem 3 1 2) (ab (-7) 2)) (fun t => t.me.rs 3 = -1) = true ∧
    gives (exec (.div 3 1 2) (ab 5 0)) (fun t => t.me.rs 3 = -1) = true ∧
    gives (exec (.sub 0 1 2) (ab 5 1)) (fun t => t.me.rs 0 = 0) = true := by decide

/-- R80: the field at bit 4 of width 8, signed; and its insertion. -/
theorem test_bit_fields :
    gives (exec (.bfe 3 1 2) (ab 0xABC 0x8804)) (fun t => t.me.rs 3 = 0xFFFFFFFFFFFFFFAB) = true ∧
    gives (exec (.bfi 1 2 3) ((ab 0xFFFF 0x12).setMe ((ab 0xFFFF 0x12).me.setS 3 0x804))) (fun t => t.me.rs 1 = 0xF12F) = true := by decide

/-- R83: `lit` sign-extends and takes two words. -/
theorem test_lit : gives (exec (.lit 3 0x80000000) ts) (fun t => t.me.rs 3 = 0xFFFFFFFF80000000 ∧ t.me.run.pc = 8) = true := by decide

/-- R87 and R14: the base of a branch is the start of the packet. -/
theorem test_branch :
    gives (exec (.bne 1 2 (-1)) ((ab 1 2).setMe ((ab 1 2).me.to 28))) (fun t => t.me.run.pc = 12) = true ∧
    gives (exec (.bltu 1 2 1) (ab (-1) 2)) (fun t => t.me.run.pc = 4) = true := by decide

/-- R89: the target is read before the link is written. -/
theorem test_callr : gives (exec (.callr 1 1) (ab 0x30 0)) (fun t => t.me.run.pc = 0x30 ∧ t.me.rs 1 = 4) = true := by decide

/-- R97: 1 + 2 = 3; 1 ÷ 0 is +∞ with DBZ. -/
theorem test_scalar_float :
    gives (exec (.fadd 3 1 2) (ab 0x3F800000 0x40000000)) (fun t => t.me.rs 3 = 0x40400000 ∧ t.me.sr.flags = 0) = true ∧
    gives (exec (.fdiv 3 1 2) (ab 0x3F800000 0)) (fun t => t.me.rs 3 = 0x7F800000 ∧ t.me.sr.flags = 2) = true := by decide

/-- The machine with a late store of `n` zeros before it, behind which every store to these bytes is late (log entry 8). -/
def behind (s : State) (p : Place) (n : Nat) : State :=
  s.setMe { s.me with late := [{ lanes := s.me.run.mask, place := p, bytes := List.replicate n 0, note := s.me.storeNote 0, steps := 0, seen := false }] }

/-- R84 in .d and .q: little-endian bytes, and a signed byte, which the wave reads before the store is performed (R199). -/
theorem test_load_store :
    gives (exec (.st 1 2 .d .h 3) (behind (ab 0x8081 0x20) (.die 0 0x26) 2)) (fun t => memRead (t.die 0).mem 0x26 = 0 ∧
      memRead ((settled t).die 0).mem 0x26 = 0x81 ∧ memRead ((settled t).die 0).mem 0x27 = 0x80 ∧
      gives (exec (.ld 5 2 .d .b 6) t) (fun u => u.me.rs 5 = 0xFFFFFFFFFFFFFF81)) = true ∧
    gives (exec (.st 1 2 .q .w 0) (behind (ab 0x12345678 0x20) (.scratch 0 0 0x20) 4))
      (fun t => ((settled t).quad 0 0).byte 0x23 = 0x12 ∧ (t.gang 0).hwm = 0x100) = true := by decide

/-- R26 and R27: `trap` and the return from it. -/
theorem test_trap_iret :
    gives (exec (.trap 9) (wv (fun w => { w.to 16 with sr := { w.sr with thb := 0x60 } })))
      (fun t => t.me.run.pc = 0x60 ∧ t.me.mode = .handler ∧ t.me.sr.tcause = 0x80 ∧ t.me.sr.tinfo = 9 ∧ t.me.sr.tpc = 16 ∧
        gives (exec .iret t) (fun u => u.me.run.pc = 16 ∧ u.me.mode = .normal)) = true := by decide

/-- R106: 100 lanes are asked for, 64 granted. -/
theorem test_setvl : gives (exec (.setvl 3 1 50) (ab 50 0)) (fun t => t.me.rs 3 = 64 ∧ t.me.sr.vl = 64) = true := by decide

/-- The two-lane machine with v1 and v2 in lanes 0 and 1. -/
def vv (a0 a1 b0 b1 : Word) : State := t2.setMe ((((t2.me.setV 1 0 a0).setV 1 1 a1).setV 2 0 b0).setV 2 1 b1)

/-- R119: lanes outside Part keep their old value. -/
theorem test_vadd :
    let s := vv 0xFFFFFFFF 5 2 6
    gives (exec (.vadd 1 1 2 0 false false) s) (fun t => t.me.rv 1 0 = 1 ∧ t.me.rv 1 1 = 11) = true ∧
    gives (exec (.vadd 3 1 2 4 false false) (s.setMe (s.me.setK 4 2))) (fun t => t.me.rv 3 0 = 0 ∧ t.me.rv 3 1 = 11) = true := by decide

/-- R121 and R122: 1.5 × 2 + 1 = 4, and 1 − 3 = −2. -/
theorem test_vector_float :
    gives (exec (.vfma 3 1 2 3 0 false) ((vv 0x3FC00000 0 0x40000000 0).setMe ((vv 0x3FC00000 0 0x40000000 0).me.setV 3 0 0x3F800000)))
      (fun t => t.me.rv 3 0 = 0x40800000) = true ∧
    gives (exec (.vfnma 3 1 2 3 0 false) ((vv 0x3FC00000 0 0x40000000 0).setMe ((vv 0x3FC00000 0 0x40000000 0).me.setV 3 0 0x3F800000)))
      (fun t => t.me.rv 3 0 = 0xC0000000) = true := by decide

/-- R123: BF16 halves, the first source in the low half; and the widening of one. -/
theorem test_conversions :
    gives (exec (.pkBf16 3 1 2 0 false false) (vv 0x3F800000 0 0x40000000 0)) (fun t => t.me.rv 3 0 = 0x40003F80) = true ∧
    gives (exec (.upBf16Hi 3 1 0 false) (vv 0x40003F80 0 0 0)) (fun t => t.me.rv 3 0 = 0x40000000) = true := by decide

/-- R125 to R128: a compare, the count of its bits and the first of them. -/
theorem test_predicates :
    gives (exec (.vcmpLt 3 1 2 0 false false) (vv 0xFFFFFFFF 5 2 5)) (fun t => t.me.rk 3 = 1 ∧
      gives (exec (.kcnt 7 3) t) (fun u => u.me.rs 7 = 1) ∧ gives (exec (.kfst 7 3) t) (fun u => u.me.rs 7 = 0)) = true := by decide

/-- R130 and R135: lane 1 alone is selected; the exchange of neighbours. -/
theorem test_cross_lane :
    gives (exec (.vcompress 3 1 4 false) ((vv 7 9 0 0).setMe ((vv 7 9 0 0).me.setK 4 2))) (fun t => t.me.rv 3 0 = 9 ∧ t.me.rv 3 1 = 0) = true ∧
    gives (exec (.vswz 3 1 .xor 1 0 false) (vv 7 9 0 0)) (fun t => t.me.rv 3 0 = 9 ∧ t.me.rv 3 1 = 7) = true := by decide

/-- R132 and R134: a signed sum, and a scan. -/
theorem test_reductions :
    gives (exec (.vraddI 7 1 0 false) (vv 0xFFFFFFFE 1 0 0)) (fun t => t.me.rs 7 = -1) = true ∧
    gives (exec (.vscanAddI 3 1 0 false) (vv 7 9 0 0)) (fun t => t.me.rv 3 0 = 7 ∧ t.me.rv 3 1 = 16) = true := by decide

/-- R138: two words at a stride of 8 bytes, of which lane 1 loads one. -/
theorem test_vector_store :
    let s := (vv 7 9 0 0).setMe { (vv 7 9 0 0).me.setK 4 2 with sr := { (vv 7 9 0 0).me.sr with st := (vv 7 9 0 0).me.sr.st.set (1 : Fin 4) 8 } }
    gives (exec (.vstW 1 0 .d 0 (.strided 1)) (behind s (.die 0 0) 16)) (fun t => memRead ((settled t).die 0).mem 0 = 7 ∧ memRead ((settled t).die 0).mem 8 = 9 ∧
      gives (exec (.vldB 5 0 .d 4 (.strided 1)) t) (fun u => u.me.rv 5 1 = 9)) = true := by decide

set_option maxRecDepth 100000 in
/-- R180: AES-256, by the example of FIPS 197, appendix C.3. -/
theorem test_aes :
    aesEncrypt (aesRoundKeys ((List.range 32).map (fun i => BitVec.ofNat 8 i))) ((List.range 16).map (fun i => BitVec.ofNat 8 (17 * i))) =
      [0x8E, 0xA2, 0xB7, 0xCA, 0x51, 0x67, 0x45, 0xBF, 0xEA, 0xFC, 0x49, 0x90, 0x4B, 0x49, 0x60, 0x89] := by decide

/-- R182: both lanes add to one word, lane 0 first. -/
theorem test_atomics :
    gives (exec (.vatomD 1 0 3 2 .add) (vv 0 0 5 6)) (fun t => t.me.rv 1 0 = 0 ∧ t.me.rv 1 1 = 5 ∧ memRead (t.die 0).mem 0 = 11) = true := by decide

/-- R136: the lanes whose bit of k4 is set branch, the others go on. -/
theorem test_vbr :
    gives (exec (.vbr 4 false 2) ((vv 0 0 0 0).setMe ((vv 0 0 0 0).me.setK 4 2)))
      (fun t => t.me.table.map (fun e => (e.pc, e.mask)) = [(4, 1), (24, 2)]) = true := by decide

/-- R208: fetch and add of a marker. R212: the home register. -/
theorem test_markers :
    gives (exec (.mkFadd 3 1 5) (ab 7 0)) (fun t => t.me.rs 3 = 0 ∧ markerOf t 5 = 7 ∧
      gives (exec (.mkTas 3 5) t) (fun u => u.me.run.wait.isSome)) = true ∧
    gives (exec (.dsFadd 3 1 9) (ab 7 0)) (fun t => dsSeen t 9 = 7) = true := by decide

/-- R218 and R219: the second of two arrivals moves the phase on, and the run that waits goes on. -/
theorem test_named_barrier :
    gives (exec (.barr 1) ((tb true 0 0).setGang 0 { (tb true 0 0).gang 0 with bars := [(1, { valid := true, exp := 1, arr := 0, phase := 0, pend := 0 })] }))
      (fun t => (barrier t 1).phase = 1 ∧ t.me.run.wait.isNone) = true := by decide

/-- R237 by hand: slots 0 and 1 are reserved; publishing slot 1 first leaves FILL at 0, and slot 0 then moves it to 2. -/
theorem test_rings :
    let s := (wv (·.setS 1 1)).setGang 0 { testGang with
      rings := [(0, { Ring.launch with made := true, slots := 4, bytes := 64, res := 2, st := [(0, .reserved), (1, .reserved)] })] }
    gives (exec (.rpub 1 0) s) (fun t => (ringOf t 0).fill = 0 ∧ gives (exec (.rpub 0 0) t) (fun u => (ringOf u 0).fill = 2)) = true := by decide

/-- R260 and R72: the two rows of a `tmma` under I8; row 0 is (2, 3), column 0 is (3, 0): the element is 6. -/
theorem test_tmma :
    let s := (tmBank 6).setQuad 0 0 { Quad.reset with scratch := memWrites [] 0 [2, 3] }
    let g := s.me.geom 0 (s.me.rs 0) s.me.sr.tlda
    let t := ((s.beginMma s.me g).runMma s.me g 0 0 .none 2).1
    element (unit t).acc[(0 : Fin 4)] 0 0 = 6 ∧ (unit t).acc[(0 : Fin 4)].type = .i32 := by decide

/-- R284 and R280: the root's node, depth, parent and kind in v22 and v23, and the routine at 0x60 + 12. -/
theorem test_presentation :
    (tt2.me.run.pc = 108 ∧ tt2.me.run.kind = .walk ∧ tt2.me.rv 23 0 = 0 ∧ tt2.me.rv 22 0 = BitVec.ofNat 32 (31 * 2 ^ 16 + 2 ^ 24) ∧
      (lookOpt tt2.me.walks 0).map (·.child) = some 1) := by decide

/-- R299 and R301: the first grace of a domain has number 1, and completes. -/
theorem test_grace :
    gives (exec (.gstart 3 .pkg) ts) (fun t => t.me.rs 3 = 1 ∧ gives (exec (.graceCompletion ⟨1, none⟩) t) (fun u => (u.domain 8).c = 1)) = true := by decide

set_option maxRecDepth 100000 in
/-- R161 by hand: the record at offset 0 of .g is a task of depth 1. -/
theorem test_spawn : gives (exec (.spawn 3 0) (tr 8)) (fun t => t.me.rs 3 = 0 ∧ t.me.kids = 1 ∧ t.stash.map (·.depth) = [1]) = true := by decide

/-- R14 to R18: three steps of one packet are three words; here the first, and the `lit` that ends a packet without its word. -/
theorem test_step : gives (step (State.reset.withFetchWord 32 0x030A43FD)) (fun t => (t.wave 0).rs 33 = -3 ∧ (t.wave 0).run.pc = 4) = true := by decide

/-- R15 and R20: a tied pair of words is one step. -/
theorem test_tie : gives (step (State.reset.withFetchWord 64 0x0808000080000000)) (fun t => (t.wave 0).run.pc = 8 ∧ (t.wave 0).run.tied = false) = true := by decide

end Sys2Proof.Tests
end

section
/-! PROOFS. The scalar instructions of chapter 04: immediates, register arithmetic and control transfer. Each operation of the model is
first tied to the arithmetic of integers; the instructions then answer with those values. -/

namespace Sys2Proof.Machine

open Sys2Proof Sys2Proof.Claims

/-! ## The operations of R78 to R82 by the arithmetic of integers -/

theorem add_eq_ofNat (a b : DWord) : a + b = BitVec.ofNat 64 (a.toNat + b.toNat) :=
  BitVec.eq_of_toNat_eq (by rw [BitVec.toNat_add, BitVec.toNat_ofNat])

theorem sub_eq_ofInt (a b : DWord) : a - b = BitVec.ofInt 64 (a.toInt - b.toInt) := by
  rw [Int.sub_eq_add_neg, BitVec.ofInt_add, BitVec.ofInt_neg, BitVec.ofInt_toInt, BitVec.ofInt_toInt, BitVec.sub_eq_add_neg]

theorem mul_eq_ofInt (a b : DWord) : a * b = BitVec.ofInt 64 (a.toInt * b.toInt) := by
  rw [BitVec.ofInt_mul, BitVec.ofInt_toInt, BitVec.ofInt_toInt]

theorem shiftLeft_eq_ofNat (a : DWord) (n : Nat) : a <<< n = BitVec.ofNat 64 (a.toNat * 2 ^ n) :=
  BitVec.eq_of_toNat_eq (by rw [BitVec.toNat_shiftLeft, BitVec.toNat_ofNat, Nat.shiftLeft_eq])

theorem ushiftRight_eq_ofNat (a : DWord) (n : Nat) : a >>> n = BitVec.ofNat 64 (a.toNat / 2 ^ n) := by
  rw [← Nat.shiftRight_eq_div_pow, ← BitVec.toNat_ushiftRight, BitVec.ofNat_toNat, BitVec.setWidth_eq]

theorem sshiftRight_eq_ofInt (a : DWord) (n : Nat) : a.sshiftRight n = BitVec.ofInt 64 (a.toInt / 2 ^ n) := by
  rw [BitVec.sshiftRight, Int.shiftRight_eq_div_pow]; rfl

theorem rotateLeft_eq_ofNat (a : DWord) (k : Nat) (hk : k < 64) :
    a.rotateLeft k = BitVec.ofNat 64 (a.toNat * 2 ^ k + a.toNat / 2 ^ (64 - k)) := by
  have hpow : 2 ^ k * 2 ^ (64 - k) = 2 ^ 64 := by rw [← Nat.pow_add]; congr 1; omega
  have hwrap : a.toNat / 2 ^ (64 - k) < 2 ^ k := Nat.div_lt_of_lt_mul (by rw [Nat.mul_comm, hpow]; exact a.isLt)
  have hkept : a.toNat * 2 ^ k % 2 ^ 64 = 2 ^ k * (a.toNat % 2 ^ (64 - k)) := by
    rw [Nat.mul_comm, ← hpow, Nat.mul_mod_mul_left]
  have hsum : 2 ^ k * (a.toNat % 2 ^ (64 - k)) + a.toNat / 2 ^ (64 - k) < 2 ^ 64 :=
    calc 2 ^ k * (a.toNat % 2 ^ (64 - k)) + a.toNat / 2 ^ (64 - k)
        < 2 ^ k * (a.toNat % 2 ^ (64 - k) + 1) := Nat.add_lt_add_left hwrap _
      _ ≤ 2 ^ k * 2 ^ (64 - k) := Nat.mul_le_mul_left _ (Nat.mod_lt _ (Nat.two_pow_pos _))
      _ = 2 ^ 64 := hpow
  apply BitVec.eq_of_toNat_eq
  rw [BitVec.toNat_rotateLeft, Nat.mod_eq_of_lt hk, Nat.shiftLeft_eq, Nat.shiftRight_eq_div_pow, hkept,
    ← Nat.two_pow_add_eq_or_of_lt hwrap, BitVec.toNat_ofNat, ← Nat.mod_add_mod, hkept, Nat.mod_eq_of_lt hsum]

theorem min_eq_ofInt (a b : DWord) : (if a.slt b then a else b) = BitVec.ofInt 64 (min a.toInt b.toInt) := by
  rw [min_def_lt, apply_ite (BitVec.ofInt 64), BitVec.ofInt_toInt, BitVec.ofInt_toInt]
  simp only [BitVec.slt_iff_toInt_lt]

theorem max_eq_ofInt (a b : DWord) : (if a.slt b then b else a) = BitVec.ofInt 64 (max a.toInt b.toInt) := by
  rw [max_def_lt, apply_ite (BitVec.ofInt 64), BitVec.ofInt_toInt, BitVec.ofInt_toInt]
  simp only [BitVec.slt_iff_toInt_lt]

theorem minu_eq_ofNat (a b : DWord) : (if a.ult b then a else b) = BitVec.ofNat 64 (min a.toNat b.toNat) := by
  rw [min_def_lt, apply_ite (BitVec.ofNat 64)]
  simp only [BitVec.ult_iff_lt, BitVec.lt_def, BitVec.ofNat_toNat, BitVec.setWidth_eq]

theorem maxu_eq_ofNat (a b : DWord) : (if a.ult b then b else a) = BitVec.ofNat 64 (max a.toNat b.toNat) := by
  rw [max_def_lt, apply_ite (BitVec.ofNat 64)]
  simp only [BitVec.ult_iff_lt, BitVec.lt_def, BitVec.ofNat_toNat, BitVec.setWidth_eq]

theorem sdiv_eq_ofInt (a b : DWord) : a.sdiv b = BitVec.ofInt 64 (a.toInt.tdiv b.toInt) :=
  BitVec.eq_of_toInt_eq (by rw [BitVec.toInt_sdiv, BitVec.toInt_ofInt])

theorem udiv_eq_ofNat (a b : DWord) : a / b = BitVec.ofNat 64 (a.toNat / b.toNat) := by
  rw [← BitVec.toNat_udiv, BitVec.ofNat_toNat, BitVec.setWidth_eq]

theorem srem_eq_ofInt (a b : DWord) : a.srem b = BitVec.ofInt 64 (a.toInt - b.toInt * a.toInt.tdiv b.toInt) := by
  rw [← Int.tmod_def, ← BitVec.toInt_srem, BitVec.ofInt_toInt]

theorem umod_eq_ofNat (a b : DWord) : a % b = BitVec.ofNat 64 (a.toNat - b.toNat * (a.toNat / b.toNat)) := by
  rw [← Nat.mod_eq_sub, ← BitVec.toNat_umod, BitVec.ofNat_toNat, BitVec.setWidth_eq]

theorem flag64_eq_one (c : Bool) (p : Prop) [Decidable p] (h : c = true ↔ p) : flag64 c = one p := if_congr h rfl rfl

theorem flag64_slt (a b : DWord) : flag64 (a.slt b) = one (a.toInt < b.toInt) := flag64_eq_one _ _ BitVec.slt_iff_toInt_lt

theorem flag64_ult (a b : DWord) : flag64 (a.ult b) = one (a.toNat < b.toNat) := flag64_eq_one _ _ BitVec.ult_iff_lt

theorem flag64_eq (a b : DWord) : flag64 (a = b) = one (a = b) := flag64_eq_one _ _ decide_eq_true_iff

/-- R82: SignExt(imm, 19) << 13 is the product with 2^13. -/
theorem signExtend_shiftLeft_eq_ofInt {n : Nat} (i : BitVec n) (k : Nat) :
    (i.signExtend 64 <<< k : DWord) = BitVec.ofInt 64 (i.toInt * 2 ^ k) := by
  have hpow : BitVec.ofNat 64 (2 ^ k) = BitVec.ofInt 64 (2 ^ k) := by
    rw [← BitVec.ofInt_natCast, Nat.cast_pow]; rfl
  rw [shiftLeft_eq_ofNat, BitVec.ofNat_mul, BitVec.ofNat_toNat, BitVec.setWidth_eq, BitVec.ofInt_mul, hpow]; rfl

theorem signExtend_toInt (i : BitVec 10) : (i.signExtend 64).toInt = i.toInt := BitVec.toInt_signExtend_of_le (by decide)

theorem add_signExtend_eq_ofInt (a : DWord) (i : BitVec 10) : a + i.signExtend 64 = BitVec.ofInt 64 (a.toInt + i.toInt) := by
  rw [BitVec.ofInt_add, BitVec.ofInt_toInt]; rfl

theorem flag64_slt_signExtend (a : DWord) (i : BitVec 10) : flag64 (a.slt (i.signExtend 64)) = one (a.toInt < i.toInt) := by
  rw [flag64_slt, signExtend_toInt]

/-! ## Counting bits (R78) -/

theorem countP_range_lt (n k : Nat) (h : k ≤ n) : (List.range n).countP (fun i => i < k) = k := by
  obtain ⟨m, rfl⟩ := Nat.exists_eq_add_of_le h
  rw [List.range_add, List.countP_append]
  simp [List.countP_eq_length.2, List.countP_eq_zero]

theorem countP_range_gt (n k : Nat) (h : k < n) : (List.range n).countP (fun i => k < i) = n - 1 - k := by
  have hsum := List.length_eq_countP_add_countP (fun i => decide (i < k + 1)) (l := List.range n)
  rw [countP_range_lt n (k + 1) h, List.length_range] at hsum
  simp only [decide_eq_true_eq, Nat.not_lt, Nat.succ_le_iff] at hsum
  omega

theorem clz64_eq_count (a : DWord) : clz64 a = BitVec.ofNat 64 ((List.range 64).countP (fun i => a.toNat < 2 ^ i)) := by
  unfold clz64
  split
  case isTrue h => subst h; rfl
  case isFalse h =>
    have hne : a.toNat ≠ 0 := fun h0 => h (BitVec.eq_of_toNat_eq h0)
    simp only [← Nat.log2_lt hne]
    rw [countP_range_gt 64 _ ((Nat.log2_lt hne).2 a.isLt)]

theorem popc64_eq_count (a : DWord) :
    popc64 a = BitVec.ofNat 64 ((List.range 64).countP (fun i => a.toNat / 2 ^ i % 2 = 1)) := by
  simp only [popc64, BitVec.getLsbD, Nat.testBit_eq_decide_div_mod_eq]

/-- `a &&& -a` keeps the lowest one bit of `a`. -/
theorem and_neg_eq_twoPow_ctz (a : DWord) (h : a ≠ 0) : a &&& -a = BitVec.twoPow 64 a.ctz.toNat := by
  have hbit := BitVec.getLsbD_true_ctz_of_ne_zero h
  have hlt : a.ctz.toNat < 64 := BitVec.lt_of_getLsbD hbit
  apply BitVec.eq_of_getLsbD_eq
  intro i hi
  rw [BitVec.getLsbD_and, BitVec.getLsbD_neg, BitVec.getLsbD_twoPow]
  rcases Nat.lt_trichotomy i a.ctz.toNat with hi' | rfl | hi'
  · simp [BitVec.getLsbD_false_of_lt_ctz hi', Nat.ne_of_gt hi']
  · have hnone : ¬ ∃ j < a.ctz.toNat, a.getLsbD j = true :=
      fun ⟨j, hj, hj'⟩ => by simp [BitVec.getLsbD_false_of_lt_ctz hj] at hj'
    simp [hbit, hlt, hnone]
  · have hsome : ∃ j < i, a.getLsbD j = true := ⟨_, hi', hbit⟩
    simp [hi, hsome, Nat.ne_of_lt hi']

/-- The low `i + 1` bits of a number are 0 exactly when `i` lies below its lowest one bit. -/
theorem mod_two_pow_eq_zero_iff (a : DWord) (h : a ≠ 0) (i : Nat) : a.toNat % 2 ^ (i + 1) = 0 ↔ i < a.ctz.toNat := by
  constructor
  · intro hz
    by_contra hle
    have hbit := BitVec.getLsbD_true_ctz_of_ne_zero h
    have : (a.toNat % 2 ^ (i + 1)).testBit a.ctz.toNat = true := by
      rw [Nat.testBit_mod_two_pow, decide_eq_true (by omega)]; exact hbit
    rw [hz, Nat.zero_testBit] at this
    cases this
  · intro hi
    apply Nat.eq_of_testBit_eq
    intro j
    rw [Nat.testBit_mod_two_pow, Nat.zero_testBit, Bool.and_eq_false_imp]
    intro hj
    exact BitVec.getLsbD_false_of_lt_ctz (by have := of_decide_eq_true hj; omega)

theorem ctz64_eq_count (a : DWord) :
    ctz64 a = BitVec.ofNat 64 ((List.range 64).countP (fun i => a.toNat % 2 ^ (i + 1) = 0)) := by
  unfold ctz64
  split
  case isTrue h => subst h; rfl
  case isFalse h =>
    have hlt : a.ctz.toNat < 64 := BitVec.lt_of_getLsbD (BitVec.getLsbD_true_ctz_of_ne_zero h)
    simp only [mod_two_pow_eq_zero_iff a h]
    rw [and_neg_eq_twoPow_ctz a h, BitVec.toNat_twoPow, Nat.mod_eq_of_lt (Nat.pow_lt_pow_right (by decide) hlt),
      Nat.log2_two_pow, countP_range_lt 64 _ hlt.le]

/-! ## Bit fields (R80) -/

theorem fieldPos_eq_fieldAt (b : DWord) : fieldPos b = fieldAt b := congrArg (· % 64) (Nat.div_one b.toNat)

theorem fieldWidth_eq_fieldLen (b : DWord) : fieldWidth b = fieldLen b := by
  rw [fieldWidth, fieldLen, fieldPos_eq_fieldAt]; rfl

theorem fieldAt_add_fieldLen_le (b : DWord) : fieldAt b + fieldLen b ≤ 64 := by
  have : fieldAt b < 64 := Nat.mod_lt _ (by decide)
  have : fieldLen b ≤ 64 - fieldAt b := Nat.min_le_right _ _
  omega

theorem fieldMask_toNat (b : DWord) : (fieldMask b).toNat = (2 ^ fieldLen b - 1) * 2 ^ fieldAt b := by
  rw [fieldMask, fieldWidth_eq_fieldLen, fieldPos_eq_fieldAt, BitVec.toNat_ofNat, Nat.mod_eq_of_lt]
  calc (2 ^ fieldLen b - 1) * 2 ^ fieldAt b
      < 2 ^ fieldLen b * 2 ^ fieldAt b := Nat.mul_lt_mul_of_pos_right (Nat.sub_lt (Nat.two_pow_pos _) one_pos) (Nat.two_pow_pos _)
    _ = 2 ^ (fieldAt b + fieldLen b) := by rw [← Nat.pow_add, Nat.add_comm]
    _ ≤ 2 ^ 64 := Nat.pow_le_pow_right (by decide) (fieldAt_add_fieldLen_le b)

theorem fieldMask_getLsbD (b : DWord) (i : Nat) :
    (fieldMask b).getLsbD i = (decide (fieldAt b ≤ i) && decide (i - fieldAt b < fieldLen b)) := by
  rw [BitVec.getLsbD, fieldMask_toNat, Nat.testBit_mul_two_pow, Nat.testBit_two_pow_sub_one]

/-- The field that `bfe` takes, before its sign is extended. -/
theorem and_fieldMask_shiftRight_toNat (a b : DWord) :
    ((a &&& fieldMask b) >>> fieldAt b).toNat = a.toNat / 2 ^ fieldAt b % 2 ^ fieldLen b := by
  rw [BitVec.toNat_ushiftRight, BitVec.toNat_and, Nat.shiftRight_and_distrib, fieldMask_toNat, Nat.shiftRight_eq_div_pow,
    Nat.shiftRight_eq_div_pow, Nat.mul_div_cancel _ (Nat.two_pow_pos _), Nat.and_two_pow_sub_one_eq_mod]

/-- The top bit of a number of `u` bits says whether it is at least half of its range. -/
theorem testBit_top_iff (x u : Nat) (hu : 0 < u) (hx : x < 2 ^ u) : x.testBit (u - 1) = true ↔ 2 ^ (u - 1) ≤ x :=
  ⟨Nat.ge_two_pow_of_testBit, fun h => Nat.testBit_of_two_pow_le_and_two_pow_add_one_gt h (by rwa [Nat.sub_add_cancel hu])⟩

/-- Ones put before a number of `u` bits make it negative: they add 2^64 − 2^u. -/
theorem or_ones_toNat (x : DWord) (u : Nat) (hu : u ≤ 64) (hx : x.toNat < 2 ^ u) :
    (x ||| (allOnes64 <<< u)).toNat = x.toNat + 2 ^ 64 - 2 ^ u := by
  have hpow : 2 ^ u * 2 ^ (64 - u) = 2 ^ 64 := by rw [← Nat.pow_add, Nat.add_sub_cancel' hu]
  have hmod : (2 ^ 64 - 1) % 2 ^ (64 - u) = 2 ^ (64 - u) - 1 := by
    apply Nat.eq_of_testBit_eq
    intro i
    rw [Nat.testBit_mod_two_pow, Nat.testBit_two_pow_sub_one, Nat.testBit_two_pow_sub_one, ← Bool.decide_and]
    exact decide_eq_decide.2 ⟨And.left, fun h => ⟨h, by omega⟩⟩
  have hones : (allOnes64 <<< u).toNat = 2 ^ u * (2 ^ (64 - u) - 1) := by
    rw [allOnes64, BitVec.toNat_shiftLeft, BitVec.toNat_allOnes, Nat.shiftLeft_eq, Nat.mul_comm, ← hmod,
      ← Nat.mul_mod_mul_left, hpow]
  rw [BitVec.toNat_or, hones, Nat.or_comm, ← Nat.two_pow_add_eq_or_of_lt hx, Nat.mul_sub, hpow, Nat.mul_one, Nat.add_comm,
    Nat.add_sub_assoc (Nat.pow_le_pow_right (by decide) hu)]

theorem bitExtract_eq_extracted (a b : DWord) : bitExtract a b = BitVec.ofNat 64 (extracted a b) := by
  have hx := and_fieldMask_shiftRight_toNat a b
  have hlt := Nat.mod_lt (a.toNat / 2 ^ fieldAt b) (Nat.two_pow_pos (fieldLen b))
  have hsigned : b.getLsbD 15 = true ↔ b.toNat / 2 ^ 15 % 2 = 1 := by
    rw [BitVec.getLsbD, Nat.testBit_eq_decide_div_mod_eq, decide_eq_true_iff]
  have hlen : fieldLen b ≤ 64 := (Nat.le_add_left _ _).trans (fieldAt_add_fieldLen_le b)
  unfold bitExtract extracted
  simp only [fieldPos_eq_fieldAt, fieldWidth_eq_fieldLen, hsigned]
  rw [← hx] at hlt ⊢
  generalize (a &&& fieldMask b) >>> fieldAt b = x at *
  by_cases hu : 0 < fieldLen b
  · simp only [BitVec.getLsbD, testBit_top_iff _ _ hu hlt]
    rw [apply_ite (BitVec.ofNat 64), ← or_ones_toNat x _ hlen hlt,
      BitVec.ofNat_toNat, BitVec.ofNat_toNat, BitVec.setWidth_eq, BitVec.setWidth_eq]
  · rw [if_neg (fun h => hu h.1), if_neg (fun h => hu h.1), BitVec.ofNat_toNat, BitVec.setWidth_eq]

/-- A number cut at a field: the bits below it, the field and the bits above it. -/
theorem inserted_eq_parts (a b d : DWord) :
    inserted a b d = 2 ^ fieldAt b * (2 ^ fieldLen b * (d.toNat / 2 ^ fieldAt b / 2 ^ fieldLen b) + a.toNat % 2 ^ fieldLen b) +
      d.toNat % 2 ^ fieldAt b := by
  unfold inserted
  generalize d.toNat = n, a.toNat % 2 ^ fieldLen b = g, 2 ^ fieldAt b = p, 2 ^ fieldLen b = u
  have hrest : n - n / p % u * p = p * (u * (n / p / u)) + n % p := Nat.sub_eq_of_eq_add (by
    conv_lhs => rw [← Nat.mod_add_div n p, ← Nat.mod_add_div (n / p) u]
    ring)
  rw [hrest]; ring

theorem inserted_testBit (a b d : DWord) (i : Nat) :
    (inserted a b d).testBit i =
      if fieldAt b ≤ i ∧ i - fieldAt b < fieldLen b then a.getLsbD (i - fieldAt b) else d.getLsbD i := by
  have hlow := Nat.mod_lt d.toNat (Nat.two_pow_pos (fieldAt b))
  have hfield := Nat.mod_lt a.toNat (Nat.two_pow_pos (fieldLen b))
  rw [inserted_eq_parts, Nat.testBit_two_pow_mul_add _ hlow, Nat.testBit_two_pow_mul_add _ hfield]
  simp only [Nat.testBit_mod_two_pow, Nat.testBit_div_two_pow, BitVec.getLsbD]
  by_cases hp : i < fieldAt b
  · simp [hp, Nat.not_le.2 hp]
  · by_cases hu : i - fieldAt b < fieldLen b
    · simp [hp, hu, Nat.not_lt.1 hp]
    · simp only [hp, hu, if_false, and_false]
      congr 1; omega

theorem bitInsert_eq_inserted (a b d : DWord) : bitInsert d a b = BitVec.ofNat 64 (inserted a b d) := by
  apply BitVec.eq_of_getLsbD_eq
  intro i hi
  rw [BitVec.getLsbD_ofNat, inserted_testBit, bitInsert, fieldPos_eq_fieldAt]
  simp only [BitVec.getLsbD_or, BitVec.getLsbD_and, BitVec.getLsbD_not, BitVec.getLsbD_shiftLeft, fieldMask_getLsbD, hi,
    decide_true, Bool.true_and]
  by_cases hin : fieldAt b ≤ i ∧ i - fieldAt b < fieldLen b
  · simp [hin]
  · have hout : (decide (fieldAt b ≤ i) && decide (i - fieldAt b < fieldLen b)) = false := by
      rw [← Bool.decide_and, decide_eq_false hin]
    simp [hin, hout]

/-! ## What the scalar instructions answer (R78 to R83) -/

/-- An instruction that writes `x` into s[sd] answers what the tables say, once their value is `x`. -/
theorem State.putS_answers {s : State} {sd : SReg} {x y : DWord} (h : x = y) :
    s.putS sd x = .next (s.setMe ((s.me.setS sd y).past 1)) := h ▸ rfl

/-- R78 to R80 and `csel`: two sources and the old destination. -/
theorem alu3_answers : ∀ e ∈ alu3, ∀ (s : State) (sd sa sb : SReg),
    exec (e.1 sd sa sb) s = .next (s.setMe ((s.me.setS sd (e.2 (s.me.rs sa) (s.me.rs sb) (s.me.rs sd))).past 1)) := by
  simp only [alu3, List.cons_append, List.nil_append, List.forall_mem_cons, List.not_mem_nil, false_implies, implies_true, and_true]
  refine ⟨?add, ?sub, ?and, ?or, ?xor, ?andn, ?shl, ?shr, ?sar, ?rol, ?min, ?max, ?minu, ?maxu, ?mul, ?mulh, ?mulhu,
    ?div, ?divu, ?rem, ?remu, ?slt, ?sltu, ?seq, ?bfe, ?bfi, ?csel⟩ <;> intro s sd sa sb
  case add => exact State.putS_answers (add_eq_ofNat _ _)
  case sub => exact State.putS_answers (sub_eq_ofInt _ _)
  case and | or | xor | andn | mulh | mulhu | csel => exact State.putS_answers rfl
  case shl => exact State.putS_answers (shiftLeft_eq_ofNat _ _)
  case shr => exact State.putS_answers (ushiftRight_eq_ofNat _ _)
  case sar => exact State.putS_answers (sshiftRight_eq_ofInt _ _)
  case rol => exact State.putS_answers (rotateLeft_eq_ofNat _ _ (Nat.mod_lt _ (by decide)))
  case min => exact State.putS_answers (min_eq_ofInt _ _)
  case max => exact State.putS_answers (max_eq_ofInt _ _)
  case minu => exact State.putS_answers (minu_eq_ofNat _ _)
  case maxu => exact State.putS_answers (maxu_eq_ofNat _ _)
  case mul => exact State.putS_answers (mul_eq_ofInt _ _)
  case div => exact State.putS_answers (if_congr Iff.rfl rfl (sdiv_eq_ofInt _ _))
  case divu => exact State.putS_answers (if_congr Iff.rfl rfl (udiv_eq_ofNat _ _))
  case rem => exact State.putS_answers (if_congr Iff.rfl rfl (srem_eq_ofInt _ _))
  case remu => exact State.putS_answers (if_congr Iff.rfl rfl (umod_eq_ofNat _ _))
  case slt => exact State.putS_answers (flag64_slt _ _)
  case sltu => exact State.putS_answers (flag64_ult _ _)
  case seq => exact State.putS_answers (flag64_eq _ _)
  case bfe => exact State.putS_answers (bitExtract_eq_extracted _ _)
  case bfi => exact State.putS_answers (bitInsert_eq_inserted _ _ _)

theorem alu2_answers : ∀ e ∈ alu2, ∀ (s : State) (sd sa : SReg),
    exec (e.1 sd sa) s = .next (s.setMe ((s.me.setS sd (e.2 (s.me.rs sa))).past 1)) := by
  simp only [alu2, List.forall_mem_cons, List.not_mem_nil, false_implies, implies_true, and_true]
  refine ⟨?clz, ?ctz, ?popc⟩ <;> intro s sd sa
  case clz => exact State.putS_answers (clz64_eq_count _)
  case ctz => exact State.putS_answers (ctz64_eq_count _)
  case popc => exact State.putS_answers (popc64_eq_count _)

/-- Settles O2, by the tables of R78 and the laws of the register file. -/
theorem scalarArithmetic : Obligations.ScalarArithmetic :=
  ⟨⟨alu3_answers, alu2_answers⟩,
    fun w r q x => ⟨w.rs_zero, w.setS_zero x, w.setS_rs_same r x, w.setS_rs_other r q x⟩⟩

theorem alui_answers : ∀ e ∈ alui, ∀ (s : State) (sd sa : SReg) (i : BitVec 10),
    exec (e.1 sd sa i) s = .next (s.setMe ((s.me.setS sd (e.2 (s.me.rs sa) i.toInt)).past 1)) := by
  simp only [alui, List.forall_mem_cons, List.not_mem_nil, false_implies, implies_true, and_true]
  refine ⟨?addi, ?andi, ?ori, ?xori, ?slti⟩ <;> intro s sd sa i
  case addi => exact State.putS_answers (add_signExtend_eq_ofInt _ i)
  case andi | ori | xori => exact State.putS_answers rfl
  case slti => exact State.putS_answers (flag64_slt_signExtend _ i)

theorem alush_answers : ∀ e ∈ alush, ∀ (s : State) (sd sa : SReg) (n : Fin 64),
    exec (e.1 sd sa n) s = .next (s.setMe ((s.me.setS sd (e.2 (s.me.rs sa) n.val)).past 1)) := by
  simp only [alush, List.forall_mem_cons, List.not_mem_nil, false_implies, implies_true, and_true]
  refine ⟨?shli, ?shri, ?sari⟩ <;> intro s sd sa n
  case shli => exact State.putS_answers (shiftLeft_eq_ofNat _ _)
  case shri => exact State.putS_answers (ushiftRight_eq_ofNat _ _)
  case sari => exact State.putS_answers (sshiftRight_eq_ofInt _ _)

/-- Settles O1, by the tables of R81 and the values of R82 and R83. -/
theorem scalarImmediates : Obligations.ScalarImmediates :=
  ⟨alui_answers, alush_answers, fun _ _ i => State.putS_answers (signExtend_shiftLeft_eq_ofInt i 13),
    fun _ _ _ => rfl, fun _ _ _ => rfl⟩

/-! ## Control transfer (R87 to R89) -/

theorem Wave.target_eq_packetTarget {n : Nat} (w : Wave) (off : BitVec n) : w.target off = packetTarget w off.toInt := by
  rw [packetTarget, BitVec.ofInt_add, BitVec.ofInt_mul, BitVec.ofInt_natCast]; rfl

theorem State.branch_taken (s : State) (off : BitVec 10) :
    s.branch true off = .next (s.setMe (s.me.to (packetTarget s.me off.toInt))) := by
  rw [← Wave.target_eq_packetTarget]; rfl

theorem State.branch_not_taken (s : State) (off : BitVec 10) : s.branch false off = .next (s.setMe (s.me.past 1)) := rfl

/-- A branch on `c` is taken where the comparison that `c` stands for holds, and only there. -/
theorem State.branch_answers {s : State} {off : BitVec 10} {c : Bool} {p : Prop} (h : c = true ↔ p) :
    (p → s.branch c off = .next (s.setMe (s.me.to (packetTarget s.me off.toInt)))) ∧
    (¬ p → s.branch c off = .next (s.setMe (s.me.past 1))) := by
  cases c with
  | true => exact ⟨fun _ => s.branch_taken off, fun hn => absurd (h.1 rfl) hn⟩
  | false => exact ⟨fun hp => absurd (h.2 hp) Bool.false_ne_true, fun _ => s.branch_not_taken off⟩

theorem not_slt_iff (a b : DWord) : (!a.slt b) = true ↔ b.toInt ≤ a.toInt := by
  rw [Bool.not_eq_true', ← Bool.not_eq_true, BitVec.slt_iff_toInt_lt, Int.not_lt]

theorem not_ult_iff (a b : DWord) : (!a.ult b) = true ↔ b.toNat ≤ a.toNat := by
  rw [Bool.not_eq_true', ← Bool.not_eq_true, BitVec.ult_iff_lt, BitVec.lt_def, Nat.not_lt]

theorem branches_answer : ∀ e ∈ branches, ∀ (s : State) (sa sb : SReg) (off : BitVec 10),
    (e.2 (s.me.rs sa) (s.me.rs sb) →
      exec (e.1 sa sb off) s = .next (s.setMe (s.me.to (packetTarget s.me off.toInt)))) ∧
    (¬ e.2 (s.me.rs sa) (s.me.rs sb) → exec (e.1 sa sb off) s = .next (s.setMe (s.me.past 1))) := by
  simp only [branches, List.forall_mem_cons, List.not_mem_nil, false_implies, implies_true, and_true]
  refine ⟨?beq, ?bne, ?blt, ?bge, ?bltu, ?bgeu⟩ <;> intro s sa sb off
  case beq | bne => exact State.branch_answers decide_eq_true_iff
  case blt => exact State.branch_answers BitVec.slt_iff_toInt_lt
  case bge => exact State.branch_answers (not_slt_iff _ _)
  case bltu => exact State.branch_answers BitVec.ult_iff_lt
  case bgeu => exact State.branch_answers (not_ult_iff _ _)

theorem exec_jmp (s : State) (off : BitVec 19) :
    exec (.jmp off) s = .next (s.setMe (s.me.to (packetTarget s.me off.toInt))) := by
  rw [← Wave.target_eq_packetTarget]; rfl

theorem exec_call (s : State) (sl : SReg) (off : BitVec 19) :
    exec (.call sl off) s = .next (s.setMe ((s.me.setS sl (s.me.run.pc + 4)).to (packetTarget s.me off.toInt))) := by
  rw [← Wave.target_eq_packetTarget]; rfl

theorem exec_jr (s : State) (sa : SReg) :
    exec (.jr sa) s = if (s.me.rs sa).toNat % 4 ≠ 0 then .next (s.trapAt s.cur 0x04 (s.me.rs sa) s.me.run.pc)
      else .next (s.setMe (s.me.to (s.me.rs sa))) := rfl

/-- The target is read from the wave as it stands before the link is written (R89). -/
theorem exec_callr (s : State) (sd sa : SReg) :
    exec (.callr sd sa) s = if (s.me.rs sa).toNat % 4 ≠ 0 then .next (s.trapAt s.cur 0x04 (s.me.rs sa) s.me.run.pc)
      else .next (s.setMe ((s.me.setS sd (s.me.run.pc + 4)).to (s.me.rs sa))) := rfl

theorem indirectTransfers : IndirectTransfers := by
  intro s sd sa
  rw [exec_jr, exec_callr]
  constructor
  · intro aligned
    rw [if_neg (not_not.2 aligned), if_neg (not_not.2 aligned)]
    exact ⟨rfl, rfl⟩
  · intro misaligned
    rw [if_pos misaligned, if_pos misaligned]
    exact ⟨rfl, rfl⟩

/-- Settles O3, by the value of the target and the two outcomes of each comparison. -/
theorem controlTransfers : Obligations.ControlTransfers :=
  ⟨⟨branches_answer, exec_jmp, exec_call⟩, indirectTransfers⟩

end Sys2Proof.Machine
end


section
/-! PROOFS. The integer element-wise instructions of chapter 06 (R119, R120), and its reductions and scans (R132 to R134). -/

namespace Sys2Proof.Machine

open Sys2Proof Sys2Proof.Claims

/-! ## The masks of R114 and R116 as tests of a lane -/

theorem Wave.act_getLsbD (w : Wave) (l : Lane) : w.act.getLsbD l.val = active w l := by
  rw [Wave.act, BitVec.getLsbD_and, lowLanes_getLsbD]; rfl

theorem Wave.part_getLsbD (w : Wave) (km : KReg) (l : Lane) : (w.part km).getLsbD l.val = inPart w km l := by
  unfold Wave.part inPart
  by_cases hk : km = 0
  · rw [if_pos hk, w.act_getLsbD, decide_eq_true hk, Bool.true_or, Bool.and_true]
  · rw [if_neg hk, BitVec.getLsbD_and, w.act_getLsbD, decide_eq_false hk, Bool.false_or]

theorem Wave.unfinished_part_getLsbD (w : Wave) (km : KReg) (l : Lane) :
    (w.unfinished (w.part km)).getLsbD l.val = due w km l := by
  rw [Wave.unfinished_getLsbD, Wave.part_getLsbD]; rfl

/-- The lanes of Part, listed from its mask or selected by its test. -/
theorem Wave.lanesOf_part (w : Wave) (km : KReg) : lanesOf (w.part km) = lanes (inPart w km) :=
  List.filter_congr fun l _ => w.part_getLsbD km l

/-! ## Words whose registers are allocated -/

theorem State.withRegs_allocated {s : State} {rs : List VReg} (h : allocated s rs) (body : Out) : s.withRegs rs body = body :=
  s.checked_ok ⟨1, false, false, rs⟩ body h.1 nofun nofun h.2

theorem State.laneBarrier_none_late {s : State} (h : s.me.late = []) (body : Out) : s.laneBarrier body = body :=
  if_neg (not_not.2 h)

/-! ## The wave after a word that writes lanes (R118) -/

/-- The lanes `m` of `r` written, the flags `fl` ORed in, %vstart cleared and the run at the next word. -/
def Wave.lanesDone (w : Wave) (r : VReg) (m : BitVec 64) (f : Lane → Word) (fl : FpFlags) : Wave :=
  (((w.setLanes r m f).addFlags fl).clearStart).past 1

theorem Wave.lanesDone_rv (w : Wave) (r : VReg) (m : BitVec 64) (f : Lane → Word) (fl : FpFlags) (l : Lane) :
    (w.lanesDone r m f fl).rv r l = if m.getLsbD l.val then f l else w.rv r l := by
  have h := w.setLanes_rv r r m f l
  simp only [true_and] at h
  exact h

theorem Wave.lanesDone_v_other (w : Wave) (r q : VReg) (m : BitVec 64) (f : Lane → Word) (fl : FpFlags) (hq : q ≠ r) :
    (w.lanesDone r m f fl).v[q] = w.v[q] :=
  Vector.ext fun l hl => (w.setLanes_rv r q m f ⟨l, hl⟩).trans (if_neg fun h => hq h.1)

theorem Wave.lanesDone_sr (w : Wave) (r : VReg) (m : BitVec 64) (f : Lane → Word) (fl : FpFlags) :
    (w.lanesDone r m f fl).sr = { w.sr with vstart := 0, flags := w.sr.flags ||| fl } := by
  unfold Wave.lanesDone Wave.addFlags
  rw [Wave.setLanes_sr]; rfl

theorem Wave.lanesDone_frame (w : Wave) (r : VReg) (m : BitVec 64) (f : Lane → Word) (fl : FpFlags) :
    let t := w.lanesDone r m f fl
    t = { w with v := t.v, dirty := t.dirty, hw := t.hw, sr := t.sr, run := w.run.past 1 } := by
  unfold Wave.lanesDone Wave.setLanes
  split <;> rfl

/-! ## Element-wise words (R116, R118) -/

/-- An element-wise word whose registers are allocated writes the lanes that are due, each with its value, and their flags. -/
theorem elementWise_of_perLane {s : State} {i : Instr} {regs : List VReg} {vd : VReg} {km : KReg} {f : Wave → Lane → Fp}
    (ha : allocated s regs) (hi : exec i s = s.perLane regs vd km f) : elementWise s i vd km (f s.me) := by
  have hdue := s.me.unfinished_part_getLsbD km
  refine ⟨s.me.lanesDone vd (s.me.unfinished (s.me.part km)) (fun l => (f s.me l).1) (laneFlags _ fun l => (f s.me l).2),
    hi.trans (State.withRegs_allocated ha _), fun l => ?value, fun q => Wave.lanesDone_v_other _ _ _ _ _ _, fun b => ?flags,
    ?special, Wave.lanesDone_frame ..⟩
  case value => rw [Wave.lanesDone_rv, hdue]
  case flags =>
    rw [Wave.lanesDone_sr, BitVec.getLsbD_or, laneFlags_getLsbD, lanesOf, List.any_filter]
    simp only [hdue]
  case special => rw [Wave.lanesDone_sr]

/-! ## The lane operations of R119 and R120 by the arithmetic of integers -/

theorem laneAdd_eq_ofNat (a b : Word) : laneAdd a b = BitVec.ofNat 32 (a.toNat + b.toNat) :=
  BitVec.eq_of_toNat_eq (by rw [laneAdd, BitVec.toNat_add, BitVec.toNat_ofNat])

theorem laneSub_eq_ofInt (a b : Word) : laneSub a b = BitVec.ofInt 32 (a.toInt - b.toInt) :=
  BitVec.eq_of_toInt_eq (by rw [laneSub, BitVec.toInt_sub, BitVec.toInt_ofInt])

theorem laneMul_eq_ofNat (a b : Word) : laneMul a b = BitVec.ofNat 32 (a.toNat * b.toNat) :=
  BitVec.eq_of_toNat_eq (by rw [laneMul, BitVec.toNat_mul, BitVec.toNat_ofNat])

theorem laneMin_eq_ofInt (a b : Word) : laneMin a b = BitVec.ofInt 32 (min a.toInt b.toInt) := by
  rw [min_def_lt, apply_ite (BitVec.ofInt 32), BitVec.ofInt_toInt, BitVec.ofInt_toInt]
  exact if_congr BitVec.slt_iff_toInt_lt rfl rfl

theorem laneMax_eq_ofInt (a b : Word) : laneMax a b = BitVec.ofInt 32 (max a.toInt b.toInt) := by
  rw [max_def_lt, apply_ite (BitVec.ofInt 32), BitVec.ofInt_toInt, BitVec.ofInt_toInt]
  exact if_congr BitVec.slt_iff_toInt_lt rfl rfl

theorem laneMinu_eq_ofNat (a b : Word) : laneMinu a b = BitVec.ofNat 32 (min a.toNat b.toNat) := by
  rw [min_def_lt, apply_ite (BitVec.ofNat 32), BitVec.ofNat_toNat, BitVec.ofNat_toNat, BitVec.setWidth_eq, BitVec.setWidth_eq]
  exact if_congr BitVec.ult_iff_lt rfl rfl

theorem laneMaxu_eq_ofNat (a b : Word) : laneMaxu a b = BitVec.ofNat 32 (max a.toNat b.toNat) := by
  rw [max_def_lt, apply_ite (BitVec.ofNat 32), BitVec.ofNat_toNat, BitVec.ofNat_toNat, BitVec.setWidth_eq, BitVec.setWidth_eq]
  exact if_congr BitVec.ult_iff_lt rfl rfl

theorem word_shiftLeft_eq_ofNat (a : Word) (n : Nat) : a <<< n = BitVec.ofNat 32 (a.toNat * 2 ^ n) :=
  BitVec.eq_of_toNat_eq (by rw [BitVec.toNat_shiftLeft, BitVec.toNat_ofNat, Nat.shiftLeft_eq])

theorem word_ushiftRight_eq_ofNat (a : Word) (n : Nat) : a >>> n = BitVec.ofNat 32 (a.toNat / 2 ^ n) := by
  rw [← Nat.shiftRight_eq_div_pow, ← BitVec.toNat_ushiftRight, BitVec.ofNat_toNat, BitVec.setWidth_eq]

theorem word_sshiftRight_eq_ofInt (a : Word) (n : Nat) : a.sshiftRight n = BitVec.ofInt 32 (a.toInt / 2 ^ n) := by
  rw [BitVec.sshiftRight, Int.shiftRight_eq_div_pow]; rfl

theorem word_add_signExtend_eq_ofInt (a : Word) (i : BitVec 9) : a + i.signExtend 32 = BitVec.ofInt 32 (a.toInt + i.toInt) := by
  rw [BitVec.ofInt_add, BitVec.ofInt_toInt]; rfl

theorem word_signExtend_sub_eq_ofInt (a : Word) (i : BitVec 9) : i.signExtend 32 - a = BitVec.ofInt 32 (i.toInt - a.toInt) := by
  have hi : (i.signExtend 32).toInt = i.toInt := BitVec.toInt_signExtend_of_le (by decide)
  rw [← hi, ← laneSub_eq_ofInt]; rfl

theorem word_and_zeroExtend_eq (a : Word) (i : BitVec 9) : a &&& i.zeroExtend 32 = a &&& BitVec.ofNat 32 i.toNat := by
  rw [BitVec.ofNat_toNat]

/-! ## The tables of R119 and R120 -/

/-- The two forms of a row of R119 are the vector and the scalar form of one lane operation. -/
def VecIntRow (e : VV × VS × (Word → Word → Word)) : Prop :=
  (∀ (s : State) (vd va vb : VReg) (km : KReg) (ca cb : Bool), exec (e.1 vd va vb km ca cb) s = s.vecVV e.2.2 vd va vb km) ∧
  ∀ (s : State) (vd va : VReg) (sb : SReg) (km : KReg) (ca : Bool), exec (e.2.1 vd va sb km ca) s = s.vecVS e.2.2 vd va sb km

theorem vecIntRow_of_eq {vv : VV} {vs : VS} {f g : Word → Word → Word} (hfg : ∀ a b, f a b = g a b) (h : VecIntRow (vv, vs, f)) :
    VecIntRow (vv, vs, g) :=
  funext₂ hfg ▸ h

theorem vecInt_rows : ∀ e ∈ vecInt, VecIntRow e := by
  simp only [vecInt, List.cons_append, List.nil_append, List.forall_mem_cons, List.not_mem_nil, false_implies, implies_true, and_true]
  refine ⟨?add, ?sub, ?mul, ?mulh, ?mulhu, ?min, ?max, ?minu, ?maxu, ?and, ?or, ?xor, ?andn, ?shl, ?shr, ?sar⟩
  case mulh | mulhu | and | or | xor | andn => exact ⟨fun _ _ _ _ _ _ _ => rfl, fun _ _ _ _ _ _ => rfl⟩
  case add => exact vecIntRow_of_eq laneAdd_eq_ofNat ⟨fun _ _ _ _ _ _ _ => rfl, fun _ _ _ _ _ _ => rfl⟩
  case sub => exact vecIntRow_of_eq laneSub_eq_ofInt ⟨fun _ _ _ _ _ _ _ => rfl, fun _ _ _ _ _ _ => rfl⟩
  case mul => exact vecIntRow_of_eq laneMul_eq_ofNat ⟨fun _ _ _ _ _ _ _ => rfl, fun _ _ _ _ _ _ => rfl⟩
  case min => exact vecIntRow_of_eq laneMin_eq_ofInt ⟨fun _ _ _ _ _ _ _ => rfl, fun _ _ _ _ _ _ => rfl⟩
  case max => exact vecIntRow_of_eq laneMax_eq_ofInt ⟨fun _ _ _ _ _ _ _ => rfl, fun _ _ _ _ _ _ => rfl⟩
  case minu => exact vecIntRow_of_eq laneMinu_eq_ofNat ⟨fun _ _ _ _ _ _ _ => rfl, fun _ _ _ _ _ _ => rfl⟩
  case maxu => exact vecIntRow_of_eq laneMaxu_eq_ofNat ⟨fun _ _ _ _ _ _ _ => rfl, fun _ _ _ _ _ _ => rfl⟩
  case shl => exact vecIntRow_of_eq (f := laneShl) (fun a _ => word_shiftLeft_eq_ofNat a _) ⟨fun _ _ _ _ _ _ _ => rfl, fun _ _ _ _ _ _ => rfl⟩
  case shr => exact vecIntRow_of_eq (f := laneShr) (fun a _ => word_ushiftRight_eq_ofNat a _) ⟨fun _ _ _ _ _ _ _ => rfl, fun _ _ _ _ _ _ => rfl⟩
  case sar => exact vecIntRow_of_eq (f := laneSar) (fun a _ => word_sshiftRight_eq_ofInt a _) ⟨fun _ _ _ _ _ _ _ => rfl, fun _ _ _ _ _ _ => rfl⟩

theorem vecImm_exec : ∀ e ∈ vecImm, ∀ (s : State) (vd va : VReg) (i : BitVec 9) (km : KReg) (ca : Bool),
    exec (e.1 vd va i km ca) s = s.vecV (fun a => e.2 a i) vd va km := by
  simp only [vecImm, List.forall_mem_cons, List.not_mem_nil, false_implies, implies_true, and_true]
  refine ⟨?addi, ?rsubi, ?andi⟩ <;> intro s vd va i km ca
  case addi => simp only [← word_add_signExtend_eq_ofInt]; rfl
  case rsubi => simp only [← word_signExtend_sub_eq_ofInt]; rfl
  case andi => simp only [← word_and_zeroExtend_eq]; rfl

theorem vecShift_exec : ∀ e ∈ vecShift, ∀ (s : State) (vd va : VReg) (n : Fin 32) (km : KReg) (ca : Bool),
    exec (e.1 vd va n km ca) s = s.vecV (fun a => e.2 a n.val) vd va km := by
  simp only [vecShift, List.forall_mem_cons, List.not_mem_nil, false_implies, implies_true, and_true]
  refine ⟨?shli, ?shri, ?sari⟩ <;> intro s vd va n km ca
  case shli => simp only [← word_shiftLeft_eq_ofNat]; rfl
  case shri => simp only [← word_ushiftRight_eq_ofNat]; rfl
  case sari => simp only [← word_sshiftRight_eq_ofInt]; rfl

/-- Settles O16, by the tables of R119 and R120 and the one lemma about what an element-wise word writes. -/
theorem vectorInteger : Obligations.VectorInteger :=
  ⟨fun e he s vd va vb km ca cb ha => elementWise_of_perLane ha ((vecInt_rows e he).1 s vd va vb km ca cb),
    fun e he s vd va sb km ca ha => elementWise_of_perLane ha ((vecInt_rows e he).2 s vd va sb km ca),
    fun e he s vd va i km ca ha => elementWise_of_perLane ha (vecImm_exec e he s vd va i km ca),
    fun e he s vd va n km ca ha => elementWise_of_perLane ha (vecShift_exec e he s vd va n km ca)⟩

/-! ## Words that write one scalar from lanes (R132, R133) -/

theorem Wave.setS_clearStart (w : Wave) (r : SReg) (x : DWord) : (w.setS r x).clearStart = w.clearStart.setS r x := by
  unfold Wave.setS
  split <;> rfl

/-- An indivisible word that ORs flags in and writes s[sd], on registers that are allocated and with no store late. -/
theorem scalarWritten_of_indivisible {s : State} {i : Instr} {regs : List VReg} {sd : Fin 32} {x : DWord} {fl : FpFlags}
    (ha : allocated s regs) (hl : s.me.late = [])
    (hi : exec i s = s.withRegs regs (s.laneBarrier (s.indivisible ((s.me.addFlags fl).setS (lowS sd) x)))) :
    scalarWritten s i sd x fl := by
  rw [State.withRegs_allocated ha, State.laneBarrier_none_late hl, State.indivisible, Wave.setS_clearStart] at hi
  exact hi

theorem Wave.addFlags_zero (w : Wave) : w.addFlags 0 = w := by
  rw [Wave.addFlags, show w.sr.flags ||| 0 = w.sr.flags from BitVec.or_zero]

/-- The elements of Part combined in ascending order, `empty` where there is none (R132). -/
def reduced (f : Word → Word → Word) (empty : DWord) (ext : Word → DWord) : List Word → DWord
  | [] => empty
  | x :: xs => ext (xs.foldl f x)

theorem scalarWritten_of_reduceI {s : State} {i : Instr} {sd : Fin 32} {va : VReg} {km : KReg} {f : Word → Word → Word}
    {empty : DWord} {ext : Word → DWord} (ha : allocated s [va]) (hl : s.me.late = []) (hi : exec i s = s.reduceI f empty ext sd va km) :
    scalarWritten s i sd (reduced f empty ext ((lanes (inPart s.me km)).map (s.me.rv va))) 0 := by
  apply scalarWritten_of_indivisible ha hl
  rw [Wave.addFlags_zero, ← Wave.lanesOf_part, hi]
  rfl

/-- The extension of an integer reduction's result. -/
def extended (signed : Bool) (y : Word) : DWord := if signed then y.signExtend 64 else y.zeroExtend 64

theorem laneMax_eq_ite (a b : Word) : laneMax a b = if a.toInt < b.toInt then b else a := if_congr BitVec.slt_iff_toInt_lt rfl rfl

theorem laneMin_eq_ite (a b : Word) : laneMin a b = if a.toInt < b.toInt then a else b := if_congr BitVec.slt_iff_toInt_lt rfl rfl

theorem reductions_exec : ∀ e ∈ reductions, ∀ (s : State) (sd : Fin 32) (va : VReg) (km : KReg) (ca : Bool),
    exec (e.1 sd va km ca) s = s.reduceI e.2.1 e.2.2.1 (extended e.2.2.2) sd va km := by
  simp only [reductions, List.forall_mem_cons, List.not_mem_nil, false_implies, implies_true, and_true]
  refine ⟨?add, ?max, ?min, ?and, ?or⟩ <;> intro s sd va km ca
  case add | and | or => rfl
  case max => simp only [← laneMax_eq_ite]; rfl
  case min => simp only [← laneMin_eq_ite]; rfl

/-! ## The tree of R133, level by level and as one recursion -/

/-- What one node of the tree gives for its two elements, and the flags of its rounding. -/
def joined (f : Word → Word → Fp) : Option Word → Option Word → Option Word × FpFlags
  | some a, some b => (some (f a b).1, (f a b).2)
  | some a, none => (some a, 0)
  | none, b => (b, 0)

/-- The flags of a tree's element: none where it is absent. -/
def flagsOf (r : Option Fp) : FpFlags := r.elim 0 Prod.snd

theorem comb_fst (f : Word → Word → Fp) (a b : Option Fp) :
    (comb f a b).map Prod.fst = (joined f (a.map Prod.fst) (b.map Prod.fst)).1 := by
  cases a <;> cases b <;> rfl

theorem flagsOf_comb (f : Word → Word → Fp) (a b : Option Fp) :
    flagsOf (comb f a b) = flagsOf a ||| flagsOf b ||| (joined f (a.map Prod.fst) (b.map Prod.fst)).2 := by
  cases a <;> cases b <;> simp [comb, flagsOf, joined]

theorem treeLevel_cons_cons (f : Word → Word → Fp) (x y : Option Word) (t : List (Option Word)) :
    treeLevel f (x :: y :: t) = ((joined f x y).1 :: (treeLevel f t).1, (joined f x y).2 ||| (treeLevel f t).2) := by
  cases x <;> cases y <;> simp [treeLevel, joined]

theorem treeLevel_length (f : Word → Word → Fp) (n : Nat) (t : List (Option Word)) (ht : t.length = 2 * n) :
    (treeLevel f t).1.length = n := by
  induction n generalizing t with
  | zero => obtain rfl := List.length_eq_zero_iff.1 ht; rfl
  | succ n ih =>
    match t, ht with
    | x :: y :: t, ht =>
      rw [treeLevel_cons_cons, List.length_cons, ih t (by simpa [Nat.mul_succ] using ht)]

/-- A level treats two runs of pairs separately. -/
theorem treeLevel_append (f : Word → Word → Fp) (n : Nat) (t u : List (Option Word)) (ht : t.length = 2 * n) :
    treeLevel f (t ++ u) = ((treeLevel f t).1 ++ (treeLevel f u).1, (treeLevel f t).2 ||| (treeLevel f u).2) := by
  induction n generalizing t with
  | zero => obtain rfl := List.length_eq_zero_iff.1 ht; simp [treeLevel, flagNone]
  | succ n ih =>
    match t, ht with
    | x :: y :: t, ht =>
      rw [List.cons_append, List.cons_append, treeLevel_cons_cons, treeLevel_cons_cons, ih t (by simpa [Nat.mul_succ] using ht),
        List.cons_append, BitVec.or_assoc]

/-- `n` levels treat a first run of 2^n positions separately from the rest. -/
theorem treeReduce_append (f : Word → Word → Fp) (n : Nat) (t u : List (Option Word)) (ht : t.length = 2 ^ n) :
    treeReduce f n (t ++ u) = ((treeReduce f n t).1 ++ (treeReduce f n u).1, (treeReduce f n t).2 ||| (treeReduce f n u).2) := by
  induction n generalizing t u with
  | zero => simp [treeReduce, flagNone]
  | succ n ih =>
    have ht : t.length = 2 * 2 ^ n := by rw [ht, Nat.pow_succ, Nat.mul_comm]
    simp only [treeReduce, treeLevel_append f _ t u ht, ih _ _ (treeLevel_length f _ t ht), Prod.mk.injEq, true_and]
    ac_rfl

/-- The last of `n + 1` levels, set apart. -/
theorem treeReduce_succ_last (f : Word → Word → Fp) (n : Nat) (t : List (Option Word)) :
    treeReduce f (n + 1) t =
      ((treeLevel f (treeReduce f n t).1).1, (treeReduce f n t).2 ||| (treeLevel f (treeReduce f n t).1).2) := by
  induction n generalizing t with
  | zero => simp [treeReduce, flagNone]
  | succ n ih =>
    rw [treeReduce, ih (treeLevel f t).1]
    simp only [treeReduce, BitVec.or_assoc]

/-- The levels over 2^n positions from `p` leave the element of the tree over them, with the flags of every rounding in it. -/
theorem treeReduce_eq_tree (f : Word → Word → Fp) (x : Nat → Option Word) (n p : Nat) :
    treeReduce f n ((List.range' p (2 ^ n)).map x) = ([(tree f x n p).map Prod.fst], flagsOf (tree f x n p)) := by
  induction n generalizing p with
  | zero =>
    show ([x p], flagNone) = _
    rw [tree]
    cases x p <;> rfl
  | succ n ih =>
    have hsplit : List.range' p (2 ^ (n + 1)) = List.range' p (2 ^ n) ++ List.range' (p + 2 ^ n) (2 ^ n) := by
      rw [List.range'_append_1, Nat.pow_succ, Nat.mul_two]
    rw [hsplit, List.map_append, treeReduce_succ_last, treeReduce_append f n _ _ (by simp), ih, ih, tree, comb_fst, flagsOf_comb,
      List.singleton_append, treeLevel_cons_cons]
    simp [treeLevel, flagNone]

/-! ## F32 reductions (R118, R133) -/

theorem f32IsNan_iff (x : Word) : f32IsNan x = true ↔ x.toNat / 2 ^ 23 % 256 = 255 ∧ x.toNat % 2 ^ 23 ≠ 0 := by
  have he : fld x.toNat fmtF32.fr fmtF32.ex = x.toNat / 2 ^ 23 % 256 := rfl
  have hm : fld x.toNat 0 fmtF32.fr = x.toNat % 2 ^ 23 := congrArg (· % 2 ^ 23) (Nat.div_one x.toNat)
  have ht : fmtF32.top = 255 := rfl
  unfold f32IsNan readF32 FloatFmt.read
  simp only [he, hm, ht]
  split_ifs <;> simp_all [FVal.isNan]

theorem quietNan_eq_noNan : quietNan = noNan := funext fun x => if_congr (f32IsNan_iff x) rfl rfl

/-- The element at a position of the tree: absent outside Part. -/
def partElement (w : Wave) (va : VReg) (km : KReg) (p : Nat) : Option Word :=
  if h : p < 64 then (if inPart w km ⟨p, h⟩ then some (w.rv va ⟨p, h⟩) else none) else none

theorem map_finRange_eq_partElement (w : Wave) (va : VReg) (km : KReg) :
    (List.finRange 64).map (fun l => if (w.part km).getLsbD l.val then some (w.rv va l) else none) =
      (List.range' 0 (2 ^ 6)).map (partElement w va km) := by
  rw [show List.range' 0 (2 ^ 6) = (List.finRange 64).map (fun l => l.val) from
    (List.map_coe_finRange_eq_range.trans List.range_eq_range').symm, List.map_map]
  refine List.map_congr_left fun l _ => ?_
  rw [Wave.part_getLsbD, Function.comp_apply, partElement, dif_pos l.isLt]

/-- The result of an F32 reduction: a NaN becomes the default NaN, and `empty` stands for an empty Part. -/
def treeResult (empty : Word) (r : Option Fp) : Word := r.elim empty fun x => noNan x.1

theorem scalarWritten_of_reduceF {s : State} {i : Instr} {sd : Fin 32} {va : VReg} {km : KReg} {f : Word → Word → Fp} {empty : Word}
    (ha : allocated s [va]) (hl : s.me.late = []) (hi : exec i s = s.reduceF f empty sd va km) {r : Option Fp}
    (hr : tree f (partElement s.me va km) 6 0 = r) : scalarWritten s i sd ((treeResult empty r).zeroExtend 64) (flagsOf r) := by
  apply scalarWritten_of_indivisible ha hl
  rw [hi, State.reduceF]
  simp only [map_finRange_eq_partElement, treeReduce_eq_tree, quietNan_eq_noNan, hr]
  cases r <;> rfl

theorem freductions_exec : ∀ e ∈ freductions, ∀ (s : State) (sd : Fin 32) (va : VReg) (km : KReg) (ca : Bool),
    exec (e.1 sd va km ca) s = s.reduceF e.2.1 e.2.2 sd va km := by
  simp only [freductions, List.forall_mem_cons, List.not_mem_nil, false_implies, implies_true, and_true]
  exact ⟨fun _ _ _ _ _ => rfl, fun _ _ _ _ _ => rfl, fun _ _ _ _ _ => rfl⟩

/-! ## Scans (R134) -/

/-- One step of a scan, the flags so far carried along. -/
def scanStep (f : Word → Word → Fp) (va : Lane → Word) (a : Fp) (k : Lane) : Fp := ((f a.1 (va k)).1, a.2 ||| (f a.1 (va k)).2)

theorem scanFrom_flags (f : Word → Word → Fp) (va : Lane → Word) (ls : List Lane) (a : Fp) :
    a.2 ||| (scanFrom f a.1 (ls.map fun k => (k, va k))).2 = (ls.foldl (scanStep f va) a).2 := by
  induction ls generalizing a with
  | nil => exact BitVec.or_zero
  | cons k ls ih => rw [List.foldl_cons, ← ih, List.map_cons, scanFrom, scanStep, BitVec.or_assoc]

theorem filter_le_cons_self {k : Lane} {ls : List Lane} (hk : ∀ j ∈ ls, k < j) : (k :: ls).filter (· ≤ k) = [k] := by
  rw [List.filter_cons_of_pos (by simp), List.filter_eq_nil_iff.2 fun j hj => by simpa using hk j hj]

theorem filter_le_cons_of_lt {k l : Lane} (hkl : k < l) (ls : List Lane) :
    (k :: ls).filter (· ≤ l) = k :: ls.filter (· ≤ l) :=
  List.filter_cons_of_pos (by simpa using hkl.le)

/-- The value that a scan leaves at a lane is that of the lanes up to it. -/
theorem scanFrom_find (f : Word → Word → Fp) (va : Lane → Word) (l : Lane) (ls : List Lane) (a : Fp) (hs : ls.Pairwise (· < ·))
    (hl : l ∈ ls) :
    (scanFrom f a.1 (ls.map fun k => (k, va k))).1.find? (fun p => p.1 = l) =
      some (l, ((ls.filter (· ≤ l)).foldl (scanStep f va) a).1) := by
  induction ls generalizing a with
  | nil => cases hl
  | cons k ls ih =>
    obtain ⟨hk, hs⟩ := List.pairwise_cons.1 hs
    rw [List.map_cons, scanFrom]
    rcases List.mem_cons.1 hl with rfl | hl
    · rw [filter_le_cons_self hk, List.find?_cons_of_pos (by simp)]
      rfl
    · rw [filter_le_cons_of_lt (hk l hl), List.foldl_cons, ← ih _ hs hl, List.find?_cons_of_neg (by simpa using (hk l hl).ne)]
      rfl

/-- A scan over a list of lanes: the first element is copied, as `first` leaves it. -/
def scanned (f : Word → Word → Fp) (first : Word → Word) : List (Lane × Word) → List (Lane × Word) × FpFlags
  | [] => ([], flagNone)
  | (l, x) :: t => ((l, first x) :: (scanFrom f (first x) t).1, (scanFrom f (first x) t).2)

/-- The value that a scan has for a lane. -/
def scannedAt (r : List (Lane × Word)) (l : Lane) : Word :=
  match r.find? (fun p => p.1 = l) with
  | some p => p.2
  | none => 0

theorem scanned_flags (f : Word → Word → Fp) (first : Word → Word) (va : Lane → Word) (ls : List Lane) :
    (scanned f first (ls.map fun k => (k, va k))).2 = (scanTo f first va ls).2 := by
  cases ls with
  | nil => rfl
  | cons k ls => exact BitVec.zero_or.symm.trans (scanFrom_flags f va ls (first (va k), 0))

theorem scannedAt_scanned (f : Word → Word → Fp) (first : Word → Word) (va : Lane → Word) (l : Lane) (ls : List Lane)
    (hs : ls.Pairwise (· < ·)) (hl : l ∈ ls) :
    scannedAt (scanned f first (ls.map fun k => (k, va k))).1 l = (scanTo f first va (ls.filter (· ≤ l))).1 := by
  cases ls with
  | nil => cases hl
  | cons k ls =>
    obtain ⟨hk, hs⟩ := List.pairwise_cons.1 hs
    unfold scannedAt
    rw [List.map_cons, scanned]
    rcases List.mem_cons.1 hl with rfl | hl
    · rw [filter_le_cons_self hk, List.find?_cons_of_pos (by simp)]
      rfl
    · rw [filter_le_cons_of_lt (hk l hl), List.find?_cons_of_neg (by simpa using (hk l hl).ne),
        scanFrom_find f va l ls (first (va k), 0) hs hl]
      rfl

theorem lanes_pairwise_lt (m : Lane → Bool) : (lanes m).Pairwise (· < ·) := (List.pairwise_lt_finRange 64).filter _

theorem mem_lanes (m : Lane → Bool) (l : Lane) : l ∈ lanes m ↔ m l = true := by
  simp [lanes, List.mem_filter, List.mem_finRange]

/-- The lanes of a set up to and with `l`. -/
theorem lanes_filter_le (m : Lane → Bool) (l : Lane) : (lanes m).filter (· ≤ l) = lanes (fun k => m k && decide (k ≤ l)) := by
  rw [lanes, lanes, List.filter_filter]
  exact List.filter_congr fun k _ => Bool.and_comm ..

theorem crossWritten_of_scan {s : State} {i : Instr} {vd va : VReg} {km : KReg} {f : Word → Word → Fp} {first : Word → Word}
    (ha : allocated s [vd, va]) (hl : s.me.late = []) (hi : exec i s = s.scan f first vd va km) :
    crossWritten s i vd (inPart s.me km)
      (fun l => (scanTo f first (s.me.rv va) (lanes fun k => inPart s.me km k && decide (k ≤ l))).1)
      (scanTo f first (s.me.rv va) (lanes (inPart s.me km))).2 := by
  let r := scanned f first ((lanesOf (s.me.part km)).map fun l => (l, s.me.rv va l))
  have hflags : r.2 = (scanTo f first (s.me.rv va) (lanes (inPart s.me km))).2 := by
    rw [← scanned_flags, ← Wave.lanesOf_part]
  refine ⟨s.me.lanesDone vd (s.me.part km) (scannedAt r.1) r.2, ?exec, fun l => ?value,
    fun q => Wave.lanesDone_v_other _ _ _ _ _ _, ?frame⟩
  case exec =>
    rw [hi, State.scan, State.withRegs_allocated ha, State.laneBarrier_none_late hl]
    rfl
  case value =>
    rw [Wave.lanesDone_rv, Wave.part_getLsbD]
    refine ite_congr rfl (fun hm => ?_) fun _ => rfl
    dsimp only
    rw [← lanes_filter_le, ← scannedAt_scanned f first _ l _ (lanes_pairwise_lt _) ((mem_lanes _ l).2 hm), ← Wave.lanesOf_part]
  case frame =>
    rw [← hflags, ← Wave.lanesDone_sr]
    exact Wave.lanesDone_frame ..

theorem scans_exec : ∀ e ∈ scans, ∀ (s : State) (vd va : VReg) (km : KReg) (ca : Bool),
    exec (e.1 vd va km ca) s = s.scan e.2.1 e.2.2 vd va km := by
  simp only [scans, List.forall_mem_cons, List.not_mem_nil, false_implies, implies_true, and_true, ← quietNan_eq_noNan]
  exact ⟨fun _ _ _ _ _ => rfl, fun _ _ _ _ _ => rfl, fun _ _ _ _ _ => rfl⟩

/-- Settles O20, by the fold over Part, the tree of R133 read level by level, and the lanes up to its own that each lane of a scan sees. -/
theorem reductions : Obligations.Reductions := by
  refine ⟨fun e he s sd va km ca ha hl => scalarWritten_of_reduceI ha hl (reductions_exec e he s sd va km ca),
    fun e he s sd va km ca ha hl => ?tree,
    fun e he s vd va km ca ha hl => crossWritten_of_scan ha hl (scans_exec e he s vd va km ca)⟩
  intro x
  have h := fun r => scalarWritten_of_reduceF ha hl (freductions_exec e he s sd va km ca) (r := r)
  cases hr : tree e.2.1 x 6 0 with
  | none => exact h none hr
  | some r => exact h (some r) hr

end Sys2Proof.Machine
end


section
/-! PROOFS. The grants of chapter 14: the computation of R239 is tied to its definition as a maximum, and `tset` and `tquery` (R243, R244)
then answer with it. -/

namespace Sys2Proof.Machine

open Sys2Proof Sys2Proof.Claims

/-! ## The grant of R239 -/

/-- Folded from its end, a descending list has its first element as the maximum. -/
theorem foldl_max_reverse_of_descending {l : List Nat} (h : l.Pairwise (· ≥ ·)) : l.reverse.foldl max 0 = l.head?.getD 0 := by
  induction h with
  | nil => rfl
  | @cons x l hx _ ih =>
    have hhead : l.head?.getD 0 ≤ x := by
      cases l with
      | nil => exact Nat.zero_le x
      | cons y l => exact hx y List.mem_cons_self
    rw [List.reverse_cons, List.foldl_append, ih]
    exact Nat.max_eq_right hhead

/-- The class that the model finds from above is the largest of those that R239 admits. -/
theorem classBelow_eq_foldl_max (q b : Nat) :
    classBelow q b = ([8, 16, 32, 64, 128, 256].filter (fun c => decide (q ≤ c) && decide (c ≤ b))).foldl max 0 := by
  have hdesc : ([256, 128, 64, 32, 16, 8].filter fun c => decide (q ≤ c) && decide (c ≤ b)).Pairwise (· ≥ ·) :=
    List.Pairwise.filter _ (by decide)
  rw [show [8, 16, 32, 64, 128, 256] = [256, 128, 64, 32, 16, 8].reverse from rfl, List.filter_reverse,
    foldl_max_reverse_of_descending hdesc, List.head?_filter, classBelow, List.find?_filter]
  simp only [Bool.decide_and, Bool.decide_eq_true]

theorem classBelow_le (q b : Nat) : classBelow q b ≤ 256 := by
  unfold classBelow
  cases h : ([256, 128, 64, 32, 16, 8].filter (fun c => q ≤ c)).find? (fun c => c ≤ b) with
  | none => exact Nat.zero_le _
  | some c =>
    have hmem : c ∈ [256, 128, 64, 32, 16, 8] := (List.mem_filter.1 (List.mem_of_find?_eq_some h)).1
    exact (by decide : ∀ c ∈ [256, 128, 64, 32, 16, 8], c ≤ 256) c hmem

theorem State.grant_eq_grantOf (s : State) (w : Wave) (fm : Nat) (d : Dim) (r : Nat) :
    s.grant w fm d r = grantOf (quantum fm d) (s.cap w fm d) r := by
  rw [State.grant, grantOf, classBelow_eq_foldl_max]

/-- No grant is above the largest class. -/
theorem grantOf_le (q cap r : Nat) : grantOf q cap r ≤ 256 := by
  rw [grantOf, ← classBelow_eq_foldl_max]
  split
  · exact Nat.zero_le _
  · exact classBelow_le _ _

/-- A grant, or a valid count that is at most it, fits the nine bits of its register. -/
theorem toNat_ofNat_of_le_grantOf {n q cap r : Nat} (h : n ≤ grantOf q cap r) : (BitVec.ofNat 9 n).toNat = n :=
  BitVec.toNat_ofNat .. ▸ Nat.mod_eq_of_lt (by have := grantOf_le q cap r; omega)

/-! ## `tset` and `tquery` (R243, R244) -/

theorem tsetProfile_eq_tileProfile (fm : Fm) : tsetProfile fm = tileProfile fm := by cases fm <;> rfl

/-- A format pair's code fits %gf. -/
theorem toNat_ofNat_fmCode (fm : Fm) : (BitVec.ofNat 5 (fmCode fm)).toNat = fmCode fm := by cases fm <;> rfl

/-- The special registers that `tset` leaves, with the grants `gm`, `gn` and `gk` for the requests `m`, `n` and `k` (R243). -/
def Special.tiled (r : Special) (fm : Fm) (m n k : DWord) (gm gn gk : Nat) : Special :=
  { r with
    gf := BitVec.ofNat 5 (fmCode fm), reqM := m, reqN := n, reqK := k
    gm := BitVec.ofNat 9 gm, gn := BitVec.ofNat 9 gn, gk := BitVec.ofNat 9 gk
    vm := BitVec.ofNat 9 (min m.toNat gm), vn := BitVec.ofNat 9 (min n.toNat gn), vk := BitVec.ofNat 9 (min k.toNat gk) }

/-- `tset` past the common checks of R39: each grant depends on the wave's core and partition, which the earlier ones leave. -/
theorem exec_tset {s : State} (sa sb sc : SReg) {fm : Fm} (hw : waveWide s (tileProfile fm)) :
    let w := s.me
    let g (d : Dim) (r : SReg) : Nat := s.grant w (fmCode fm) d (w.rs r).toNat
    exec (.tset sa sb sc fm) s =
      if s.grantable w (fmCode fm) = true then
        s.done { w with sr := w.sr.tiled fm (w.rs sa) (w.rs sb) (w.rs sc) (g .m sa) (g .n sb) (g .k sc) }
      else s.trap causeTileOperand 1 := by
  obtain ⟨hprofile, hkind, hrest⟩ := hw
  rw [show exec (.tset sa sb sc fm) s = execTset sa sb sc fm s from rfl, execTset,
    State.checked_ok _ _ _ (tsetProfile_eq_tileProfile fm ▸ hprofile) (fun _ => hkind) (fun _ => hrest) (by simp)]
  exact ite_not ..

theorem exec_tquery {s : State} (sa sb sc : SReg) {fm : Fm} (hp : tileProfile fm ≤ s.me.id.eff.toNat) :
    let w := s.me
    let h (d : Dim) (r : SReg) : DWord :=
      if s.grantable w (fmCode fm) then BitVec.ofNat 64 (s.grant w (fmCode fm) d (w.rs r).toNat) else 0
    exec (.tquery sa sb sc fm) s = s.done (((w.setS sa (h .m sa)).setS sb (h .n sb)).setS sc (h .k sc)) :=
  State.checked_ok _ _ _ (tsetProfile_eq_tileProfile fm ▸ hp) (by simp) (by simp) (by simp)

/-- Settles O12, by the largest class that R239 admits: it is what the model finds, and it fits the grant registers. -/
theorem tileGrants : Obligations.TileGrants := by
  intro s sa sb sc fm w g
  refine ⟨fun hw hg => ?granted, fun hw hg => ?refused, fun hp => ?query⟩
  case granted =>
    refine ⟨{ w with sr := w.sr.tiled fm (w.rs sa) (w.rs sb) (w.rs sc) (g .m sa) (g .n sb) (g .k sc) }, ?_, rfl, rfl,
      toNat_ofNat_fmCode fm, toNat_ofNat_of_le_grantOf le_rfl, toNat_ofNat_of_le_grantOf le_rfl, toNat_ofNat_of_le_grantOf le_rfl,
      toNat_ofNat_of_le_grantOf (Nat.min_le_right ..), toNat_ofNat_of_le_grantOf (Nat.min_le_right ..),
      toNat_ofNat_of_le_grantOf (Nat.min_le_right ..)⟩
    rw [exec_tset sa sb sc hw, if_pos hg]
    simp only [State.grant_eq_grantOf]
    rfl
  case refused =>
    rw [exec_tset sa sb sc hw, if_neg (Bool.not_eq_true _ ▸ hg)]
    rfl
  case query =>
    rw [exec_tquery sa sb sc hp]
    simp only [State.grant_eq_grantOf]
    rfl

end Sys2Proof.Machine
end
